-- ==== Sys2Proof/Word.lean ====
section
/-!
DEFINITION. The widths the manual gives its values (00 R5), the sparse map in which the state keeps every
register file and memory, and the plain types of operands and fields (02 R46-R61).
-/

namespace Sys2Proof

abbrev Byte := BitVec 8
/-- A 32-bit register value. -/
abbrev Word := BitVec 32
/-- A 64-bit value: an even-odd pair (R23), an LPC (R37), an address. -/
abbrev DWord := BitVec 64
/-- One bit per lane. -/
abbrev Mask := BitVec 32
/-- The 128 bytes of a line; byte i is bits 8i+7 down to 8i (R5). -/
abbrev LineData := BitVec 1024
/-- One bit per byte of a line. -/
abbrev LineMask := BitVec 128
/-- One instruction slot (R46). -/
abbrev SlotWord := BitVec 96
/-- One 64-byte fetch line (R39). -/
abbrev FetchLine := BitVec 512

/-! ## Sparse maps -/

/-- Key and value pairs, keys rising, no entry equal to the default: what a key that is not listed reads as. -/
abbrev SMap (β : Type) := List (Nat × β)

/-- The value at a key; the default where it is not listed. -/
def SMap.get {β : Type} (d : β) : SMap β → Nat → β
  | [], _ => d
  | (k, v) :: m, i => if i = k then v else SMap.get d m i

/-- Writes a key; writing the default removes the entry. -/
def SMap.set {β : Type} [DecidableEq β] (d : β) : SMap β → Nat → β → SMap β
  | [], i, x => if x = d then [] else [(i, x)]
  | (k, v) :: m, i, x =>
    if i < k then
      if x = d ∧ SMap.get d ((k, v) :: m) i = d then (k, v) :: m else (i, x) :: (k, v) :: m
    else if i = k then
      if x = d ∧ SMap.get d m i = d then m else (i, x) :: m
    else (k, v) :: SMap.set d m i x

/-- Rewrites the value at a key. -/
def SMap.mod {β : Type} [DecidableEq β] (d : β) (m : SMap β) (i : Nat) (f : β → β) : SMap β :=
  SMap.set d m i (f (SMap.get d m i))

/-- The keys rise strictly, each above the bound, and no entry equals the default. -/
def SMap.wfFrom {β : Type} [DecidableEq β] (d : β) : Nat → SMap β → Bool
  | _, [] => true
  | n, (k, v) :: m => decide (n ≤ k) && decide (v ≠ d) && SMap.wfFrom d (k + 1) m

/-- The canonical form of a sparse map. -/
def SMap.wf {β : Type} [DecidableEq β] (d : β) (m : SMap β) : Bool := SMap.wfFrom d 0 m

/-! ## Operands -/

/-- A 32-bit or pair source position (R59); imm is the F1 immediate that replaces B (R53). -/
inductive Src where
  | v (n : Fin 192)
  | s (n : Fin 32)
  | z
  | q (n : Fin 4)
  | lane
  | imm (w : Word)
  deriving DecidableEq, Repr

/-- A destination position (R59). -/
inductive Dst where
  | v (n : Fin 192)
  | s (n : Fin 32)
  | z
  | q (n : Fin 4)
  deriving DecidableEq, Repr

/-- The guard PG (R48): a predicate, negated when neg. -/
structure Guard where
  neg : Bool
  p : Fin 8
  deriving DecidableEq, Repr

/-- Rounding modes (R52, R95). -/
inductive Rm where
  | rn | rz | ru | rd | rna | sr
  deriving DecidableEq, Repr

/-- MOD of a floating-point instruction (R52). -/
structure FMod where
  rm : Rm
  nega : Bool
  negb : Bool
  negc : Bool
  abs : Bool
  sat : Bool
  deriving DecidableEq, Repr

/-- Scope codes (R58). -/
inductive Scope where
  | group | team | core | cluster | bench | die | package | fabric | system
  deriving DecidableEq, Repr

/-- Engine paths (R58, R199). -/
inductive Path where
  | ls | cp | mx | fr | cl | ho
  deriving DecidableEq, Repr

/-- SEM of an F3 access (R55): relaxed, acquire, release, acquire-release. -/
inductive Sem where
  | relaxed | acq | rel | acqrel
  deriving DecidableEq, Repr

/-- A line operand lnN + B + OFF (R55). -/
structure LOp where
  ln : Fin 16
  b : Src
  off : BitVec 7
  deriving DecidableEq, Repr

/-- An address operand A + B + OFF (R222). -/
structure AOp where
  a : Src
  b : Src
  off : BitVec 7
  deriving DecidableEq, Repr

/-- Access sizes of LD, ST and MST (R65). -/
inductive Size where
  | b | h | w | d | q
  deriving DecidableEq, Repr

/-- The bytes of an access size. -/
def Size.bytes : Size → Nat
  | .b => 1 | .h => 2 | .w => 4 | .d => 8 | .q => 16

/-- The registers a data operand of this size takes (R222). -/
def Size.regs : Size → Nat
  | .b => 1 | .h => 1 | .w => 1 | .d => 2 | .q => 4

/-- Far operations (R65, R235). -/
inductive FarOp where
  | add | fadd | min | max | and | or | xor | xchg | cas | dadd
  deriving DecidableEq, Repr

/-- Integer comparison of ICMP (R112). -/
inductive IRel where
  | eq | ne | lt | le | gt | ge | ult | ule | ugt | uge
  deriving DecidableEq, Repr

/-- Floating-point comparison of FCMP and DCMP (R120). -/
inductive FRel where
  | eq | ne | lt | le | gt | ge | num | nan
  deriving DecidableEq, Repr

/-- Predicate logic of PLOP (R116); not reads p[A] only. -/
inductive PlopOp where
  | and | or | xor | andn | orn | not
  deriving DecidableEq, Repr

/-- The three forms of PMOV (R116). -/
inductive PmovForm where
  | mask (d : Dst) (p : Fin 8)
  | set (p : Fin 8) (a : Src)
  | nz (p : Fin 8) (a : Src)
  deriving DecidableEq, Repr

/-- The forms of VOTE with their destinations (R128). -/
inductive VoteForm where
  | every (d : Fin 8) | some (d : Fin 8) | same (d : Fin 8)
  | lanes (d : Dst) | count (d : Dst) | first (d : Dst)
  deriving DecidableEq, Repr

/-- Source lane selection of SHFL (R129). -/
inductive ShflMode where
  | pick | lo | hi | swz | rol | ror
  deriving DecidableEq, Repr

/-- Operations of REDG (R130). -/
inductive RedgOp where
  | add | min | max | umin | umax | and | or | xor | fadd | fmin | fmax
  deriving DecidableEq, Repr

/-- The six forms of SCAN (R131). -/
inductive ScanOp where
  | add | addx | fadd | faddx | max | min
  deriving DecidableEq, Repr

/-- Conversions of FCVT, in FN order (R121). -/
inductive CvtOp where
  | f32f64 | f64f32 | f16f32 | f32f16 | bf16f32 | f32bf16 | i32f32 | n32f32
  | f32i32 | f32n32 | i64f64 | n64f64 | f64i64 | f64n64 | i32f64 | f64i32
  deriving DecidableEq, Repr

/-- Comparisons of POLL (R195). -/
inductive PollCmp where
  | eq | ne | uge | ult
  deriving DecidableEq, Repr

/-- Payload operations of BARA (R242). -/
inductive BarOp where
  | none | dadd | iadd | smin | smax | dmin | dmax
  deriving DecidableEq, Repr

/-- Updates of GCOND (R193). -/
inductive CondOp where
  | set | or | add | umax
  deriving DecidableEq, Repr

/-- Modes of an opening OPEN (R225). -/
inductive OpenMode where
  | read | write | rw
  deriving DecidableEq, Repr

/-- SEM codes of FENCE (R239). -/
inductive FenceSem where
  | acq | rel | acqrel
  deriving DecidableEq, Repr

/-- Elements kept by MMAS (R147). -/
inductive Sparsity where
  | n8 | n12 | n16 | n24
  deriving DecidableEq, Repr

/-- What TLBINV names (R325). -/
inductive TlbForm where
  | asid (a : Src)
  | page (a b : Src)
  | all
  deriving DecidableEq, Repr

/-- What RECALL names (R326). -/
inductive RecallForm where
  | va (a b : Src)
  | pa (b : Src)
  deriving DecidableEq, Repr

/-- The special registers of R36. -/
inductive SReg where
  | lane | grp | teamx | teamy | teamz | role | core | bench | dieid | pkgid
  | clk | partw | fstat | amask | lpc | tcause | tadr | tlane | rgncnt | kvroot | asid | gatedepth
  deriving DecidableEq, Repr

/-! ## Fields that device steps carry -/

/-- A core of the package, named by its die and its number within it (R34). -/
structure CoreId where
  die : Nat
  core : Nat
  deriving DecidableEq, Repr

/-- A stream of a group of a team; x names the X stream of a split group. -/
structure StreamId where
  team : Nat
  grp : Nat
  x : Bool
  deriving DecidableEq, Repr

/-- A line register: at gate-call depth `depth`, or a routine line of one stream (R389). -/
structure LineRef where
  team : Nat
  grp : Nat
  depth : Nat
  routine : Bool
  x : Bool
  ln : Nat
  deriving DecidableEq, Repr

/-- Kinds of accesses that fault (R291, KIND 0 to 10). -/
inductive FaultKind where
  | fetch | openRead | openRw | amo | departure | red | engRead | engWrite | kvRead | kvRw | kvFill
  deriving DecidableEq, Repr

/-- The fields of a fault record that the device writes (R291), but for SEQNO. -/
structure FaultRec where
  kind : FaultKind
  logged : Bool
  asid : BitVec 16
  lanes : Mask
  addr : DWord
  pkg : Nat
  die : Nat
  core : Nat
  grp : Nat
  ticket : Word
  deriving DecidableEq, Repr

/-- Where a fault record or a package control register is written by system software (R284, R290, R291, R313,
R329, R339, R345, R355, R359, R381); the value is the second argument of CONFIG_WRITE. -/
inductive ConfigReg where
  | asTable | domainTable | gateTable | handlerTable
  | faultRing (die : Nat)
  | ownership (index : Nat)
  | savePool (die : Nat)
  | comparator (die core index : Nat)
  | injection (die bench : Nat)
  | queueBlock (fn q : Nat)
  | powerLimit
  deriving DecidableEq, Repr

/-- A piece of a halted group's state as the debug interface names it (R348; log 33): of its A or X stream, or of the group. A line
register's descriptor and a tag state are read by 64-bit words; kept pieces are those of the interrupted code (R346). -/
inductive DebugLoc where
  | vec (x : Bool) (r lane : Nat)
  | bank (x : Bool) (r lane : Nat)
  | uni (x : Bool) (r : Nat)
  | pred (x : Bool) (p : Nat)
  | pc (x : Bool) (lane : Nat)
  | amask (x : Bool)
  | fstat (x : Bool)
  | partw (x : Bool)
  | rgncnt (x : Bool)
  | rgnEntry (x : Bool)
  | tcause (x : Bool)
  | tlane (x : Bool)
  | tadr (x : Bool)
  | gen (x : Bool) (lane : Nat)
  | acc (a e : Nat)
  | rowM (a r : Nat)
  | rowHi (a r : Nat)
  | rowLo (a r : Nat)
  | decl (cv : Nat)
  | enrolled (rj : Nat)
  | arrived (rj : Nat)
  | signed (cv : Nat)
  | line (ln : Nat) (high : Bool)
  | queueCount (q : Nat)
  | queue (q entry lane : Nat)
  | tag (n word : Nat)
  | asid
  | kvroot
  | keptAmask (x : Bool)
  | keptPc (x : Bool) (lane : Nat)
  | keptFstat (x : Bool)
  | keptPartw (x : Bool)
  deriving DecidableEq, Repr

/-- What the debug interface does with a halted group (R348). -/
inductive DebugAction where
  | resume | endTeam
  | read (loc : DebugLoc)
  | write (loc : DebugLoc) (value : DWord)
  deriving DecidableEq, Repr

/-- What the host does through a function's windows (R328, R329): a read or a write of device memory through BAR2, the value's
bytes from the lowest, or a read of a queue's control block through BAR0. -/
inductive HostAccess where
  | read
  | write (value : Nat)
  | block
  deriving DecidableEq, Repr

/-- The answer to a walk's page fault that its home gives (R293): none from a ring of this package, where the record's RESP
holds it; true resumes, false is fatal. -/
structure WalkAnswer where
  walk : Nat
  answer : Option Bool
  deriving DecidableEq, Repr

/-- An update of a graph's condition word: the stream that made it, its number in that stream's order, the graph (R193). -/
structure CondUpdate where
  src : StreamId
  seq : Nat
  graph : Nat
  deriving DecidableEq, Repr

/-- Where an uncorrectable error is found (R373): in memory; in a team's checkpoint shadow or journal; in a unit that serves
groups, given by team and number. -/
inductive ErrSite where
  | memory (pa : Nat)
  | shadow (team : Nat)
  | unit (groups : List (Nat × Nat))
  deriving DecidableEq, Repr

/-- Who asked for a pre-emption (R359). -/
inductive Preemptor where
  | system (area : DWord)
  | gaffer
  deriving DecidableEq, Repr

/-- The firmware image a reset finds on one source (R336): its bits as a number, and what the ROM finds of it. -/
structure Image where
  bits : Nat
  digestOk : Bool
  keyOk : Bool
  version : Nat
  deriving DecidableEq, Repr

/-- The egress governor's signed configuration (R338). -/
structure EgressConfig where
  rates : List Nat
  packages : List Nat
  groups : List Nat
  deriving DecidableEq, Repr

/-- One package's contribution to a collective chunk (R334, R335). -/
structure Contribution where
  pkg : Nat
  bytes : List Byte
  poisoned : Bool
  deriving DecidableEq, Repr

/-- A row that another package returns to EMB (R265): table row number, element values as binary32 and poison;
none where the owner's table has no such row. -/
structure RemoteRow where
  row : Nat
  elems : Option (List Word)
  poisoned : Bool
  deriving DecidableEq, Repr

end Sys2Proof
end

