-- ==== Sys2Proof/Syntax.lean ====
section
/-!
DEFINITION. One constructor per row of spec/opcode_table.json. The first part are the instructions of the opcode map
(R62), with the operands their descriptions name; the second part are the device's own steps and the events that reach
it from outside, which have no encoding.
-/

namespace Sys2Proof

/-- An instruction, or a step of the device. `g` is the guard (R48), `la` the lookahead of a long-latency
instruction (R49), `u` the uniformity flag (R50). -/
inductive Instr where
  -- Control flow and waiting (07, 08)
  | nop
  | bra (g : Guard) (u : Bool) (slot : Fin 5) (toff : BitVec 37)
  | brx (g : Guard) (u : Bool) (a : Src)
  | call (g : Guard) (u : Bool) (d : Dst) (slot : Fin 5) (toff : BitVec 37)
  | ret (g : Guard) (u : Bool) (a : Src)
  | exit (g : Guard)
  | yield (g : Guard)
  | poll (g : Guard) (cmp : PollCmp) (acq : Bool) (scope : Scope) (d : Dst) (l : LOp) (c : Src)
  | lwait (g : Guard) (d : Dst) (ln : Fin 16) (c : Src)
  | enrol (g : Guard) (rj : Fin 4)
  | park (g : Guard) (rj : Fin 4)
  | strike (g : Guard) (rj : Fin 4)
  | brk (g : Guard) (num : BitVec 8)
  -- Integers, bits, moves (05)
  | iadd (g : Guard) (uns sat : Bool) (d : Dst) (a b : Src)
  | isub (g : Guard) (uns sat : Bool) (d : Dst) (a b : Src)
  | imul (g : Guard) (uns sat : Bool) (d : Dst) (a b : Src)
  | imulh (g : Guard) (uns : Bool) (d : Dst) (a b : Src)
  | imad (g : Guard) (uns sat : Bool) (d : Dst) (a b c : Src)
  | imin (g : Guard) (uns : Bool) (d : Dst) (a b : Src)
  | imax (g : Guard) (uns : Bool) (d : Dst) (a b : Src)
  | iabs (g : Guard) (sat : Bool) (d : Dst) (a : Src)
  | iadd64 (g : Guard) (uns sat : Bool) (d : Dst) (a b : Src)
  | imad64 (g : Guard) (uns sat : Bool) (d : Dst) (a b c : Src)
  | lea (g : Guard) (zext : Bool) (sh : Fin 8) (d : Dst) (a b : Src)
  | sel (g : Guard) (d : Dst) (a b : Src) (c : Fin 8)
  | icmp (g : Guard) (rel : IRel) (d : Fin 8) (a b : Src)
  | idiv (g : Guard) (la : Fin 16) (uns sat : Bool) (d : Dst) (a b : Src)
  | irem (g : Guard) (la : Fin 16) (uns : Bool) (d : Dst) (a b : Src)
  | and (g : Guard) (d : Dst) (a b : Src)
  | or (g : Guard) (d : Dst) (a b : Src)
  | xor (g : Guard) (d : Dst) (a b : Src)
  | shl (g : Guard) (d : Dst) (a b : Src)
  | shr (g : Guard) (d : Dst) (a b : Src)
  | sar (g : Guard) (d : Dst) (a b : Src)
  | rot (g : Guard) (right : Bool) (d : Dst) (a b : Src)
  | popc (g : Guard) (d : Dst) (a : Src)
  | clz (g : Guard) (d : Dst) (a : Src)
  | brev (g : Guard) (d : Dst) (a : Src)
  | bfe (g : Guard) (uns : Bool) (d : Dst) (a b : Src)
  | bfi (g : Guard) (d : Dst) (a b c : Src)
  | mov (g : Guard) (wide : Bool) (d : Dst) (a : Src)
  | plop (g : Guard) (op : PlopOp) (d a b : Fin 8)
  | pmov (g : Guard) (form : PmovForm)
  | movsr (g : Guard) (d : Dst) (sreg : SReg)
  -- Group operations (05, 12)
  | vote (g : Guard) (form : VoteForm) (a : Fin 8)
  | shfl (g : Guard) (mode : ShflMode) (d : Dst) (a b : Src)
  | redg (g : Guard) (op : RedgOp) (rm : Rm) (d : Dst) (a : Src)
  | scan (g : Guard) (op : ScanOp) (seg : Option (Fin 8)) (rm : Rm) (d : Dst) (a : Src)
  | part (g : Guard) (b : Src)
  | matchLanes (g : Guard) (wide : Bool) (d : Dst) (a b : Src)
  | compact (g : Guard) (d : Dst) (a b : Src) (c : Fin 8)
  | regrp (g : Guard) (d : Dst) (a b : Src)
  -- Floating point (05)
  | fadd (g : Guard) (m : FMod) (d : Dst) (a b : Src)
  | fmul (g : Guard) (m : FMod) (d : Dst) (a b : Src)
  | ffma (g : Guard) (m : FMod) (d : Dst) (a b c : Src)
  | fmin (g : Guard) (m : FMod) (d : Dst) (a b : Src)
  | fmax (g : Guard) (m : FMod) (d : Dst) (a b : Src)
  | fcmp (g : Guard) (rel : FRel) (m : FMod) (d : Fin 8) (a b : Src)
  | frnd (g : Guard) (m : FMod) (d : Dst) (a : Src)
  | hadd2 (g : Guard) (bf : Bool) (m : FMod) (d : Dst) (a b : Src)
  | hmul2 (g : Guard) (bf : Bool) (m : FMod) (d : Dst) (a b : Src)
  | hfma2 (g : Guard) (bf : Bool) (m : FMod) (d : Dst) (a b c : Src)
  | dadd (g : Guard) (m : FMod) (d : Dst) (a b : Src)
  | dmul (g : Guard) (m : FMod) (d : Dst) (a b : Src)
  | dfma (g : Guard) (m : FMod) (d : Dst) (a b c : Src)
  | dmin (g : Guard) (m : FMod) (d : Dst) (a b : Src)
  | dmax (g : Guard) (m : FMod) (d : Dst) (a b : Src)
  | dcmp (g : Guard) (rel : FRel) (m : FMod) (d : Fin 8) (a b : Src)
  | fcvt (g : Guard) (op : CvtOp) (m : FMod) (d : Dst) (a : Src)
  | rcp (g : Guard) (la : Fin 16) (neg abs : Bool) (d : Dst) (a : Src)
  | rsq (g : Guard) (la : Fin 16) (neg abs : Bool) (d : Dst) (a : Src)
  | sqrt (g : Guard) (la : Fin 16) (neg abs : Bool) (d : Dst) (a : Src)
  | ex2 (g : Guard) (la : Fin 16) (neg abs : Bool) (d : Dst) (a : Src)
  | lg2 (g : Guard) (la : Fin 16) (neg abs : Bool) (d : Dst) (a : Src)
  | sin (g : Guard) (la : Fin 16) (neg abs : Bool) (d : Dst) (a : Src)
  | cos (g : Guard) (la : Fin 16) (neg abs : Bool) (d : Dst) (a : Src)
  | tanh (g : Guard) (la : Fin 16) (neg abs : Bool) (d : Dst) (a : Src)
  | tblev (g : Guard) (la : Fin 16) (d : Dst) (a b c : Src)
  | tblsw (g : Guard)
  | drcp (g : Guard) (la : Fin 16) (neg abs : Bool) (d : Dst) (a : Src)
  | dsqrt (g : Guard) (la : Fin 16) (neg abs : Bool) (d : Dst) (a : Src)
  -- Narrow data (06)
  | qnt (g : Guard) (clamp : Bool) (rm : Rm) (d : Dst) (a b : Src) (tid : BitVec 12)
  | dqnt (g : Guard) (d : Dst) (a b : Src) (tid : BitVec 12)
  | bscale (g : Guard) (d : Dst) (a b : Src) (tid : BitVec 12)
  | cvtf (g : Guard) (src : Bool) (rm : Rm) (d : Dst) (a : Src) (tid : BitVec 12)
  | pack6 (g : Guard) (d : Dst) (a : Src)
  | unpk6 (g : Guard) (sgn : Bool) (d : Dst) (a : Src)
  | pack4 (g : Guard) (d : Dst) (a : Src)
  | unpk4 (g : Guard) (sgn : Bool) (d : Dst) (a : Src)
  | smooth (g : Guard) (d : Dst) (a b : Src) (tid : BitVec 12)
  -- Line memory (10)
  | openLine (g : Guard) (mode : OpenMode) (u : Bool) (d : Fin 8) (l : LOp) (c : Src)
  | openReopen (g : Guard) (ln : Fin 16)
  | opens (g : Guard) (u : Bool) (d : Fin 8) (l : LOp)
  | close (g : Guard) (ln : Fin 16)
  | flush (g : Guard) (ln : Fin 16)
  | ld (g : Guard) (la : Fin 16) (size : Size) (acq : Bool) (scope : Scope) (d : Dst) (l : LOp)
  | st (g : Guard) (size : Size) (rel : Bool) (scope : Scope) (l : LOp) (c : Src)
  | linfo (g : Guard) (la : Fin 16) (d : Dst) (ln : Fin 16)
  | llk (g : Guard) (la : Fin 16) (wide : Bool) (d : Dst) (l : LOp)
  | sul (g : Guard) (wide : Bool) (l : LOp) (c : Src)
  | amo (g : Guard) (la : Fin 16) (op : FarOp) (sem : Sem) (scope : Scope) (d : Dst) (a : AOp) (c : Src)
  | red (g : Guard) (op : FarOp) (rel : Bool) (scope : Scope) (a : AOp) (c : Src)
  | scat (g : Guard) (op : FarOp) (rel : Bool) (scope : Scope) (a : AOp) (c : Src)
  | cmcast (g : Guard) (at_ : Option (Fin 32)) (l : LOp) (c : Src)
  | mst (g : Guard) (size : Size) (rel : Bool) (scope : Scope) (l : LOp) (c : Src)
  | fence (g : Guard) (sem : FenceSem) (path : Path) (scope : Scope)
  | xfence (g : Guard) (pa pb : Path) (scope : Scope)
  | afence (g : Guard)
  | bar (g : Guard) (scope : Scope)
  | bara (g : Guard) (op : BarOp) (scope : Scope) (a : Src)
  | barw (g : Guard) (scope : Scope) (d : Dst)
  | sbinit (g : Guard) (l : LOp) (c : Src)
  | sbexp (g : Guard) (l : LOp) (c : Src)
  | sbarv (g : Guard) (l : LOp) (c : Src)
  | sbwait (g : Guard) (d : Dst) (l : LOp) (c : Src)
  | cjoin (g : Guard) (d : Dst) (a b : Src)
  | cleave (g : Guard)
  -- Engines (11)
  | cpy (g : Guard) (toGlobal : Bool) (tag : Fin 8) (a b c : Src)
  | cpwait (g : Guard) (tag : Fin 8)
  | kick (g : Guard) (d : Dst) (a c : Src)
  | gthr (g : Guard) (d : Dst) (a b c : Src) (tid : BitVec 12)
  | emb (g : Guard) (d : Dst) (a : Src) (tid : BitVec 12)
  | cpstBt (g : Guard) (la : Fin 16) (tag : Fin 8) (d : Dst)
  | cpstTkt (g : Guard) (la : Fin 16) (d : Dst) (a : Src)
  -- Matrix unit and triples (06)
  | mma (g : Guard) (la : Fin 16) (r : Bool) (cv : Fin 4) (d : Fin 8) (a : Fin 192) (b c : Fin 32) (tid : BitVec 12)
  | mmas (g : Guard) (la : Fin 16) (r : Bool) (cv : Fin 4) (n : Sparsity) (d : Fin 8) (a : Fin 192) (b c : Fin 32)
      (tid : BitVec 12)
  | maccZero (g : Guard) (la : Fin 16) (d : Fin 8)
  | maccInit (g : Guard) (la : Fin 16) (d : Fin 8)
  | maccMov (g : Guard) (la : Fin 16) (d a : Fin 8)
  | maccRd (g : Guard) (la : Fin 16) (d : Fin 192) (a : Fin 8) (b : Src)
  | maccWr (g : Guard) (la : Fin 16) (d : Fin 8) (a : Fin 192) (b : Src)
  | maccRdst (g : Guard) (la : Fin 16) (d : Fin 192) (a : Fin 8)
  | maccWrst (g : Guard) (la : Fin 16) (d : Fin 8) (a : Fin 192)
  | maccDecl (g : Guard) (la : Fin 16) (d : Fin 4)
  | mrel (g : Guard)
  | smax (g : Guard) (la : Fin 16) (d a : Fin 8)
  | sexp (g : Guard) (la : Fin 16) (q : Option (BitVec 12)) (d a : Fin 8)
  | smerge (g : Guard) (la : Fin 16) (d a : Fin 8)
  | cred (g : Guard) (la : Fin 16) (d : Fin 8)
  -- Tasks and graphs (08)
  | tdone (g : Guard) (a : Src)
  | gcond (g : Guard) (op : CondOp) (num : BitVec 8) (a : Src)
  | gsig (g : Guard) (num : BitVec 8)
  -- Key-value space (13)
  | kvopen (g : Guard) (rw u : Bool) (d : Fin 8) (ln : Fin 16) (c : Src)
  | kvfill (g : Guard) (d : Dst) (a b c : Src) (tid : BitVec 12)
  | kvmap (g : Guard) (la : Fin 16) (d : Fin 192) (a b : Src)
  | kvfork (g : Guard) (la : Fin 16) (d : Fin 192) (a b : Src)
  | kvdrop (g : Guard) (la : Fin 16) (d : Fin 192) (a : Src)
  -- Gates, traps, system (14, 16, 17)
  | gcall (g : Guard) (d : Dst) (num : BitVec 8)
  | gret (g : Guard) (a : Src)
  | trap (g : Guard) (num : BitVec 8)
  | eret (g : Guard) (r : Bool)
  | setsr (g : Guard) (sreg : SReg) (a : Src)
  | setsrAmask (g : Guard) (a : Src)
  | setsrLpc (g : Guard) (a : Src)
  | dmrbeg (g : Guard) (d : Dst)
  | dmrend (g : Guard)
  | rgn (g : Guard) (region : BitVec 16)
  | halt (g : Guard)
  | tlbinv (g : Guard) (form : TlbForm)
  | recall (g : Guard) (form : RecallForm)
  -- Steps of the device
  | pollRetry (st : StreamId)
  | lwaitWake (st : StreamId) (cause : Nat)
  | lineFetchLands (r : LineRef)
  | amoPerformed (st : StreamId) (id : Nat)
  | frUpdateMerge (c : CoreId) (id : Nat)
  | cmcastLanding (c : CoreId) (id : Nat)
  | cmcastTimedPresence (c : CoreId) (id : Nat)
  | barrierArrival (team grp : Nat) (scope : Scope)
  | barrierRelease (team grp : Nat) (scope : Scope) (total : DWord) (bad : Bool)
  | embExchange (c : CoreId) (id : Nat) (rows : List RemoteRow)
  | commandServiceStart (c : CoreId) (id : Nat)
  | engineUnitLands (c : CoreId) (id lane unit : Nat)
  | credContribution (team grp : Nat)
  | gateAbort (team grp : Nat) (code : Nat)
  | compareRecord (bench pair : Nat)
  | fetchLine (st : StreamId) (flips : FetchLine)
  | issueGrant (c : CoreId) (part : Nat)
  | longLatencyWriteback (st : StreamId) (id : Nat)
  | trapEntry (st : StreamId)
  | pageWalk (c : CoreId) (id : Nat)
  | kvWalk (c : CoreId) (id : Nat)
  | faultRecord (home : Nat) (c : CoreId) (id : Nat) (rec : FaultRec)
  | faultResponse (c : CoreId) (reply : WalkAnswer)
  | departureApplied (c : CoreId) (id : Nat)
  | checkpointTaken (team : Nat)
  | checkpointSafe (team date : Nat)
  | lehrAgeTimeout (team entered : Nat)
  | strikeReport (c : CoreId)
  | rollback (team : Nat)
  | memoryUncorrectable (site : ErrSite) (again : Bool)
  | flitCrcError (plane : Nat) (fails : Nat)
  | planeFailure (plane : Nat)
  | launchSubmit (launch : Nat)
  | teamAdmission (die : Nat) (weak : Bool)
  | timedLaunchStart (launch : Nat)
  | teamEnd (team : Nat)
  | taskDeal (graph node : Nat)
  | waveFormation (c : CoreId)
  | stealRequest (thief victim : CoreId)
  | stealRetry (c : CoreId)
  | graphSubmit (graph : Nat)
  | nodeCompletion (graph node : Nat)
  | gcondUpdate (upd : CondUpdate) (op : CondOp) (num : BitVec 8) (x : Word)
  | gsigArrival (graph node : Nat)
  | queueDoorbell (fn q : Nat) (tail : Word)
  | queueEntry (fn q : Nat)
  | hostBar2Access (fn q : Nat) (va : DWord) (n : Nat) (acc : HostAccess)
  | configWrite (reg : ConfigReg) (value : Nat)
  | collectiveSubmit (fn q coll : Nat)
  | collectiveChunk (id chunk : Nat) (parts : List Contribution) (lost : Bool)
  | egressFlit (lane dst : Nat) (isGroup : Bool)
  | packageReset (sigOk : Bool) (egress : EgressConfig) (sources : List Image)
  | attestationRequest (nonce : Nat)
  | keyLoad (id : Nat)
  | powerClamp (draw : Nat)
  | thermalLimit (die temp : Nat)
  | managementAccess (pa : DWord) (n : Nat) (wr : Option (List Byte))
  | debugResume (team grp : Nat) (act : DebugAction)
  | preemptRequest (team : Nat) (by_ : Preemptor)
  | drainTimeout (team : Nat)
  | saveRequest (team : Nat)
  | saveSpill (team : Nat)
  | restoreRequest (asid : BitVec 16) (area : DWord)
  | restoreLoad (team : Nat)
  | hostLinkTraining (width rate : Nat)
  deriving DecidableEq, Repr

end Sys2Proof
end

