-- ==== Sys2Proof/WellFormed.lean ====
section
/-!
DEFINITION. Which operands and modes each instruction accepts in its word alone (R23, R50, R52, R60, R109 and each
instruction's description). What depends on the group that executes it (windows, budgets, stream, level) is checked
when it issues (Machine/Issue.lean). A step of the device is always well formed.
-/

namespace Sys2Proof.WellFormed

/-- A 32-bit source that is not an immediate. -/
def src : Src → Bool
  | .imm _ => false
  | _ => true

/-- A vector or uniform register, or z. -/
def reg : Src → Bool
  | .v _ => true
  | .s _ => true
  | .z => true
  | _ => false

/-- A source pair: an even register or z (R23, R109). -/
def pair : Src → Bool
  | .v n => n.val % 2 == 0
  | .s n => n.val % 2 == 0
  | .z => true
  | _ => false

/-- A source pair, or the F1 immediate. -/
def pairB : Src → Bool
  | .imm _ => true
  | o => pair o

/-- A destination pair. -/
def dpair : Dst → Bool
  | .v n => n.val % 2 == 0
  | .s n => n.val % 2 == 0
  | .z => true
  | .q _ => false

/-- Four registers from an index that is a multiple of 4 (R222). -/
def dquad : Dst → Bool
  | .v n => n.val % 4 == 0
  | .s n => n.val % 4 == 0
  | _ => false

/-- Four source registers from an index that is a multiple of 4. -/
def squad : Src → Bool
  | .v n => n.val % 4 == 0
  | .s n => n.val % 4 == 0
  | _ => false

/-- A destination that is a vector or uniform register or z. -/
def dreg : Dst → Bool
  | .q _ => false
  | _ => true

/-- A destination that is a uniform register or z. -/
def duni : Dst → Bool
  | .s _ => true
  | .z => true
  | _ => false

/-- A uniform register. -/
def uni : Src → Bool
  | .s _ => true
  | _ => false

/-- A uniform register or z. -/
def uniZ : Src → Bool
  | .s _ => true
  | .z => true
  | _ => false

/-- The guard !p0 is illegal (R48). -/
def guard (g : Guard) : Bool := !(g.neg && g.p == 0)

/-- Every rounding mode but SR, which only narrow conversions accept (R52). -/
def rm5 (r : Rm) : Bool := r != .sr

/-- What an instruction accepts of MOD (R52): any of the five modes, operand B, operand C, SAT. -/
def mod (m : FMod) (rounds hasB hasC sat : Bool) : Bool :=
  (if rounds then rm5 m.rm else m.rm == .rn) && (hasB || !m.negb) && (hasC || !m.negc) && (sat || !m.sat)

/-- The offset register of a line or address operand (R55). -/
def lop (l : LOp) : Bool := src l.b
def aop (a : AOp) : Bool := pair a.a && src a.b

/-- SCOPE must be 0 where SEM is 0 (R222). -/
def semScope (sem : Bool) (sc : Scope) : Bool := sem || sc == .group

/-- A data operand of a load by its size (R222). -/
def dsize (z : Size) (d : Dst) : Bool :=
  match z with
  | .d => dpair d
  | .q => dquad d
  | _ => true

/-- A data operand of a store by its size. -/
def ssize (z : Size) (c : Src) : Bool :=
  match z with
  | .d => pair c
  | .q => squad c
  | _ => src c

/-- The operand of a far operation (R235). -/
def farC (op : FarOp) (c : Src) : Bool :=
  match op with
  | .cas => pair c
  | .dadd => pair c
  | _ => src c

/-- Scopes at which barriers join (R241). -/
def barScope : Scope → Bool
  | .team => true | .cluster => true | .die => true | .package => true | _ => false

/-- What FCVT accepts of MOD in each direction (R121). -/
def cvtMod (op : CvtOp) (m : FMod) : Bool :=
  !m.negb && !m.negc &&
  match op with
  | .f32f64 | .f16f32 | .bf16f32 => rm5 m.rm
  | .f64f32 | .f32f16 | .f32bf16 => m.rm == .rn && !m.sat
  | .i32f32 | .n32f32 | .i64f64 | .n64f64 | .i32f64 => rm5 m.rm && !m.sat
  | .f32i32 | .f32n32 | .f64i64 | .f64n64 => rm5 m.rm && !m.sat && !m.nega && !m.abs
  | .f64i32 => m.rm == .rn && !m.sat && !m.nega && !m.abs

/-- Source and destination of FCVT: pairs where the type is 64 bits wide (R121). -/
def cvtOps (op : CvtOp) (d : Dst) (a : Src) : Bool :=
  (match op with
   | .f32f64 | .i64f64 | .n64f64 | .f64i64 | .f64n64 | .i32f64 => pair a
   | _ => src a) &&
  (match op with
   | .f64f32 | .i64f64 | .n64f64 | .f64i64 | .f64n64 | .f64i32 => dpair d
   | _ => true)

/-- The special registers that take a pair (R36). -/
def wideSReg : SReg → Bool
  | .clk | .lpc | .tadr | .kvroot => true
  | _ => false

/-- The registers SETSR writes, but for AMASK and LPC, which have rows of their own (R36). -/
def setsrReg : SReg → Bool
  | .fstat | .tcause | .tadr | .tlane | .rgncnt | .kvroot | .asid => true
  | _ => false

/-- Operand of a single-source special function. -/
def sfu (g : Guard) (a : Src) : Bool := guard g && src a
def sfu64 (g : Guard) (d : Dst) (a : Src) : Bool := guard g && dpair d && pair a

/-- The operands and modes an instruction accepts. -/
def wf : Instr → Bool
  | .nop => true
  | .bra g _ _ _ => guard g
  | .brx g _ a => guard g && pair a
  | .call g _ d _ _ => guard g && dpair d
  | .ret g _ a => guard g && pair a
  | .exit g => guard g
  | .yield g => guard g
  | .poll g _ acq sc d l c => guard g && semScope acq sc && dreg d && d != .z && lop l && src c
  | .lwait g d _ c => guard g && dreg d && uniZ c
  | .enrol g _ => guard g
  | .park g _ => guard g
  | .strike g _ => guard g
  | .brk g _ => guard g
  | .iadd g _ _ _ a _ => guard g && src a
  | .isub g _ _ _ a _ => guard g && src a
  | .imul g _ _ _ a _ => guard g && src a
  | .imulh g _ _ a _ => guard g && src a
  | .imad g _ _ _ a _ c => guard g && src a && src c
  | .imin g _ _ a _ => guard g && src a
  | .imax g _ _ a _ => guard g && src a
  | .iabs g _ _ a => guard g && src a
  | .iadd64 g _ _ d a b => guard g && dpair d && pair a && pairB b
  | .imad64 g _ _ d a _ c => guard g && dpair d && src a && pair c
  | .lea g _ _ d a _ => guard g && dpair d && pair a
  | .sel g _ a _ _ => guard g && src a
  | .icmp g _ _ a _ => guard g && src a
  | .idiv g _ _ _ _ a _ => guard g && src a
  | .irem g _ _ _ a _ => guard g && src a
  | .and g _ a _ => guard g && src a
  | .or g _ a _ => guard g && src a
  | .xor g _ a _ => guard g && src a
  | .shl g _ a _ => guard g && src a
  | .shr g _ a _ => guard g && src a
  | .sar g _ a _ => guard g && src a
  | .rot g _ _ a _ => guard g && src a
  | .popc g _ a => guard g && src a
  | .clz g _ a => guard g && src a
  | .brev g _ a => guard g && src a
  | .bfe g _ _ a _ => guard g && src a
  | .bfi g _ a _ c => guard g && src a && src c
  | .mov g wide d a => guard g && (if wide then dpair d && pairB a else true)
  | .plop g op _ _ b => guard g && (op != .not || b == 0)
  | .pmov g _ => guard g
  | .movsr g d r => guard g && (if wideSReg r then dpair d else true)
  | .vote g _ _ => guard g
  | .shfl g _ _ a _ => guard g && reg a
  | .redg g op rm _ a => guard g && (if op == .fadd then rm5 rm else rm == .rn) && src a
  | .scan g op _ rm _ a => guard g && (if op == .fadd || op == .faddx then rm5 rm else rm == .rn) && src a
  | .part g b => guard g && (match b with | .s _ => true | .imm _ => true | _ => false)
  | .matchLanes g wide _ a _ => guard g && (if wide then pair a else reg a)
  | .compact g _ a _ _ => guard g && (reg a || a == .lane)
  | .regrp g d a b => guard g && (match d with | .v _ => true | _ => false) && uni a && uni b
  | .fadd g m _ a _ => guard g && mod m true true false true && src a
  | .fmul g m _ a _ => guard g && mod m true true false true && src a
  | .ffma g m _ a _ c => guard g && mod m true true true true && src a && src c
  | .fmin g m _ a _ => guard g && mod m false true false false && src a
  | .fmax g m _ a _ => guard g && mod m false true false false && src a
  | .fcmp g _ m _ a _ => guard g && mod m false true false false && src a
  | .frnd g m _ a => guard g && mod m true false false false && src a
  | .hadd2 g _ m _ a _ => guard g && mod m true true false true && src a
  | .hmul2 g _ m _ a _ => guard g && mod m true true false true && src a
  | .hfma2 g _ m _ a _ c => guard g && mod m true true true true && src a && src c
  | .dadd g m d a b => guard g && mod m true true false true && dpair d && pair a && pairB b
  | .dmul g m d a b => guard g && mod m true true false true && dpair d && pair a && pairB b
  | .dfma g m d a b c => guard g && mod m true true true true && dpair d && pair a && pairB b && pair c
  | .dmin g m d a b => guard g && mod m false true false false && dpair d && pair a && pairB b
  | .dmax g m d a b => guard g && mod m false true false false && dpair d && pair a && pairB b
  | .dcmp g _ m _ a b => guard g && mod m false true false false && pair a && pairB b
  | .fcvt g op m d a => guard g && cvtMod op m && cvtOps op d a
  | .rcp g _ _ _ _ a => sfu g a
  | .rsq g _ _ _ _ a => sfu g a
  | .sqrt g _ _ _ _ a => sfu g a
  | .ex2 g _ _ _ _ a => sfu g a
  | .lg2 g _ _ _ _ a => sfu g a
  | .sin g _ _ _ _ a => sfu g a
  | .cos g _ _ _ _ a => sfu g a
  | .tanh g _ _ _ _ a => sfu g a
  | .tblev g _ _ a b c => guard g && src a && src b && src c
  | .tblsw g => guard g
  | .drcp g _ _ _ d a => sfu64 g d a
  | .dsqrt g _ _ _ d a => sfu64 g d a
  | .qnt g _ _ _ a b _ => guard g && src a && src b
  | .dqnt g _ a b _ => guard g && src a && src b
  | .bscale g _ a b _ => guard g && (reg a || a == .lane) && (reg b || b == .lane)
  | .cvtf g _ _ _ a _ => guard g && src a
  | .pack6 g _ a => guard g && reg a
  | .unpk6 g _ _ a => guard g && reg a
  | .pack4 g _ a => guard g && reg a
  | .unpk4 g _ _ a => guard g && reg a
  | .smooth g _ a b _ => guard g && (reg a || a == .lane) && src b
  | .openLine g _ _ _ l c => guard g && lop l && pair c
  | .openReopen g _ => guard g
  | .opens g _ _ l => guard g && lop l
  | .close g _ => guard g
  | .flush g _ => guard g
  | .ld g _ z acq sc d l => guard g && semScope acq sc && dsize z d && lop l
  | .st g z rel sc l c => guard g && semScope rel sc && ssize z c && lop l
  | .linfo g _ d _ => guard g && dquad d
  | .llk g _ wide d l => guard g && (if wide then dpair d else true) && lop l
  | .sul g wide l c => guard g && (if wide then pair c else src c) && lop l
  | .amo g _ op sem sc d a c =>
    guard g && semScope (sem != .relaxed) sc && (if op == .dadd then dpair d else true) && aop a && farC op c
  | .red g op rel sc a c => guard g && op != .cas && semScope rel sc && aop a && farC op c
  | .scat g op rel sc a c => guard g && op != .cas && semScope rel sc && aop a && farC op c
  | .cmcast g t l c => guard g && (match t with | some n => n.val % 2 == 0 | none => true) && lop l && src c
  | .mst g z rel sc l c => guard g && semScope rel sc && ssize z c && lop l
  | .fence g _ p _ => guard g && p != .ho
  | .xfence g pa pb _ => guard g && pa != .ho && pb != .ho && pa != pb
  | .afence g => guard g
  | .bar g sc => guard g && barScope sc
  | .bara g op sc a => guard g && barScope sc && (if op == .none then a == .v 0 else pair a)
  | .barw g sc d => guard g && barScope sc && dpair d
  | .sbinit g l c => guard g && lop l && src c
  | .sbexp g l c => guard g && lop l && src c
  | .sbarv g l c => guard g && lop l && src c
  | .sbwait g _ l c => guard g && lop l && src c
  | .cjoin g _ a b => guard g && src a && src b
  | .cleave g => guard g
  | .cpy g _ _ a b c => guard g && pair a && src b && src c
  | .cpwait g _ => guard g
  | .kick g d a c => guard g && dreg d && src a && src c
  | .gthr g d a b c _ => guard g && dreg d && src a && src b && pair c
  | .emb g d a _ => guard g && dreg d && src a
  | .cpstBt g _ _ d => guard g && dquad d
  | .cpstTkt g _ d a => guard g && dquad d && src a
  | .mma g _ _ _ _ _ _ _ _ => guard g
  | .mmas g _ _ _ _ _ _ _ _ _ => guard g
  | .maccZero g _ _ => guard g
  | .maccInit g _ _ => guard g
  | .maccMov g _ _ _ => guard g
  | .maccRd g _ _ _ b => guard g && src b
  | .maccWr g _ _ _ b => guard g && src b
  | .maccRdst g _ _ _ => guard g
  | .maccWrst g _ _ _ => guard g
  | .maccDecl g _ _ => guard g
  | .mrel g => guard g
  | .smax g _ d a => guard g && d != a
  | .sexp g _ _ d a => guard g && d != a
  | .smerge g _ d a => guard g && d != a
  | .cred g _ _ => guard g
  | .tdone g a => guard g && reg a
  | .gcond g _ _ a => guard g && reg a
  | .gsig g _ => guard g
  | .kvopen g _ _ _ _ c => guard g && pair c
  | .kvfill g d a b c _ => guard g && dreg d && src a && src b && src c
  | .kvmap g _ d a b => guard g && d.val % 4 == 0 && pair a && pair b
  | .kvfork g _ d a b => guard g && d.val % 4 == 0 && pair a && pair b
  | .kvdrop g _ d a => guard g && d.val % 4 == 0 && pair a
  | .gcall g d _ => guard g && duni d
  | .gret g a => guard g && reg a
  | .trap g _ => guard g
  | .eret g _ => guard g
  | .setsr g r a => guard g && setsrReg r && (if wideSReg r then pair a else src a)
  | .setsrAmask g a => guard g && src a
  | .setsrLpc g a => guard g && pair a
  | .dmrbeg g d => guard g && duni d
  | .dmrend g => guard g
  | .rgn g _ => guard g
  | .halt g => guard g
  | .tlbinv g f => guard g && (match f with | .asid a => src a | .page a b => src a && pair b | .all => true)
  | .recall g f => guard g && (match f with | .va a b => src a && pair b | .pa b => pair b)
  | .pollRetry _ | .lwaitWake _ _ | .lineFetchLands _ | .amoPerformed _ _ | .frUpdateMerge _ _
  | .cmcastLanding _ _ | .cmcastTimedPresence _ _ | .barrierArrival _ _ _ | .barrierRelease _ _ _ _ _
  | .embExchange _ _ _ | .commandServiceStart _ _ | .engineUnitLands _ _ _ _ | .credContribution _ _
  | .gateAbort _ _ _ | .compareRecord _ _ | .fetchLine _ _ | .issueGrant _ _ | .longLatencyWriteback _ _
  | .trapEntry _ | .pageWalk _ _ | .kvWalk _ _ | .faultRecord _ _ _ _ | .faultResponse _ _
  | .departureApplied _ _ | .checkpointTaken _ | .checkpointSafe _ _ | .lehrAgeTimeout _ _ | .strikeReport _
  | .rollback _ | .memoryUncorrectable _ _ | .flitCrcError _ _ | .planeFailure _ | .launchSubmit _
  | .teamAdmission _ _ | .timedLaunchStart _ | .teamEnd _ | .taskDeal _ _ | .waveFormation _
  | .stealRequest _ _ | .stealRetry _ | .graphSubmit _ | .nodeCompletion _ _ | .gcondUpdate _ _ _ _
  | .gsigArrival _ _ | .queueDoorbell _ _ _ | .queueEntry _ _ | .hostBar2Access _ _ _ _ _
  | .configWrite _ _ | .collectiveSubmit _ _ _ | .collectiveChunk _ _ _ _ | .egressFlit _ _ _
  | .packageReset _ _ _ | .attestationRequest _ | .keyLoad _ | .powerClamp _ | .thermalLimit _ _
  | .managementAccess _ _ _ | .debugResume _ _ _ | .preemptRequest _ _ | .drainTimeout _ | .saveRequest _
  | .saveSpill _ | .restoreRequest _ _ | .restoreLoad _ | .hostLinkTraining _ _ => true

/-- The steps of the device: they have no word, and no program holds one. -/
def deviceStep : Instr → Bool
  | .pollRetry _ | .lwaitWake _ _ | .lineFetchLands _ | .amoPerformed _ _ | .frUpdateMerge _ _
  | .cmcastLanding _ _ | .cmcastTimedPresence _ _ | .barrierArrival _ _ _ | .barrierRelease _ _ _ _ _
  | .embExchange _ _ _ | .commandServiceStart _ _ | .engineUnitLands _ _ _ _ | .credContribution _ _
  | .gateAbort _ _ _ | .compareRecord _ _ | .fetchLine _ _ | .issueGrant _ _ | .longLatencyWriteback _ _
  | .trapEntry _ | .pageWalk _ _ | .kvWalk _ _ | .faultRecord _ _ _ _ | .faultResponse _ _
  | .departureApplied _ _ | .checkpointTaken _ | .checkpointSafe _ _ | .lehrAgeTimeout _ _ | .strikeReport _
  | .rollback _ | .memoryUncorrectable _ _ | .flitCrcError _ _ | .planeFailure _ | .launchSubmit _
  | .teamAdmission _ _ | .timedLaunchStart _ | .teamEnd _ | .taskDeal _ _ | .waveFormation _
  | .stealRequest _ _ | .stealRetry _ | .graphSubmit _ | .nodeCompletion _ _ | .gcondUpdate _ _ _ _
  | .gsigArrival _ _ | .queueDoorbell _ _ _ | .queueEntry _ _ | .hostBar2Access _ _ _ _ _
  | .configWrite _ _ | .collectiveSubmit _ _ _ | .collectiveChunk _ _ _ _ | .egressFlit _ _ _
  | .packageReset _ _ _ | .attestationRequest _ | .keyLoad _ | .powerClamp _ | .thermalLimit _ _
  | .managementAccess _ _ _ | .debugResume _ _ _ | .preemptRequest _ _ | .drainTimeout _ | .saveRequest _
  | .saveSpill _ | .restoreRequest _ _ | .restoreLoad _ | .hostLinkTraining _ _ => true
  | _ => false

end Sys2Proof.WellFormed
end

