-- ==== Sys2Proof/Decode.lean ====
section
/-!
DEFINITION. Fetch lines (R39-R43) and the decoder of instruction words (R46-R66), total on every word, and after it the
encoder of well-formed instructions, written from the same tables.
-/

namespace Sys2Proof

/-! ## Fetch lines -/

/-- The line word of a fetch line (R40). -/
def FetchLine.word (l : FetchLine) : Word := l.extractLsb' 0 32

/-- Slot i of a fetch line: 12 bytes from byte 4 + 12 i (R39). -/
def FetchLine.slot (l : FetchLine) (i : Nat) : SlotWord := l.extractLsb' (32 + 96 * i) 96

/-- TGT bit i (R40). -/
def FetchLine.tgt (l : FetchLine) (i : Nat) : Bool := decide (i < 5) && l.word.getLsbD i

/-- The reserved bits 25:9 are zero (R40). -/
def FetchLine.reservedOk (l : FetchLine) : Bool := l.word.extractLsb' 9 17 == 0

/-- The parity of the bits of w below n: true when their ones are odd in number. -/
def oddOnes (w : Nat) : Nat → Bool
  | 0 => false
  | n + 1 => w.testBit n != oddOnes w n

/-- All six parities of a fetch line are even (R43). -/
def FetchLine.parityOk (l : FetchLine) : Bool :=
  !oddOnes l.word.toNat 32 &&
  (List.range 5).all fun i => oddOnes (l.slot i).toNat 96 == l.word.getLsbD (26 + i)

/-! ## Instruction words -/

/-- Why a word is no instruction (R66); each raises the illegal-instruction trap. -/
inductive DecodeErr where
  | tooShort | reservedOp | reservedFn | guardNotP0 | lookahead | flag | modBits | wField | unusedOperand
  | operandCode | index | rounding | scopeCode | pathCode | semCode | slotNumber | privBit | sregCode | notAccepted
  deriving DecidableEq, Repr

/-- The fields of an instruction word (R46). -/
structure Raw where
  op : BitVec 8
  fn : BitVec 4
  pg : BitVec 4
  la : BitVec 4
  fl : BitVec 4
  d : BitVec 8
  a : BitVec 8
  b : BitVec 8
  c : BitVec 8
  w : BitVec 40
  deriving DecidableEq, Repr

/-- The fields of a word. -/
def Raw.ofWord (x : SlotWord) : Raw :=
  { op := x.extractLsb' 0 8, fn := x.extractLsb' 8 4, pg := x.extractLsb' 12 4, la := x.extractLsb' 16 4,
    fl := x.extractLsb' 20 4, d := x.extractLsb' 24 8, a := x.extractLsb' 32 8, b := x.extractLsb' 40 8,
    c := x.extractLsb' 48 8, w := x.extractLsb' 56 40 }

/-- The word with these fields. -/
def Raw.toWord (r : Raw) : SlotWord :=
  r.w ++ r.c ++ r.b ++ r.a ++ r.d ++ r.fl ++ r.la ++ r.pg ++ r.fn ++ r.op

/-- The W field of F0 and F1 (R51): MOD and IMM. -/
def Raw.modBits (r : Raw) : BitVec 8 := r.w.extractLsb' 0 8
def Raw.immBits (r : Raw) : BitVec 32 := r.w.extractLsb' 8 32
/-- The W field of F3 (R55). -/
def Raw.off (r : Raw) : BitVec 7 := r.w.extractLsb' 0 7
def Raw.scope3 (r : Raw) : BitVec 4 := r.w.extractLsb' 7 4
def Raw.sem3 (r : Raw) : BitVec 2 := r.w.extractLsb' 11 2
def Raw.rest3 (r : Raw) : BitVec 27 := r.w.extractLsb' 13 27
/-- The W field of F4 (R56). -/
def Raw.tid (r : Raw) : BitVec 12 := r.w.extractLsb' 0 12
def Raw.tag (r : Raw) : BitVec 3 := r.w.extractLsb' 12 3
def Raw.pathA (r : Raw) : BitVec 3 := r.w.extractLsb' 15 3
def Raw.pathB (r : Raw) : BitVec 3 := r.w.extractLsb' 18 3
def Raw.scope4 (r : Raw) : BitVec 4 := r.w.extractLsb' 21 4
def Raw.rm4 (r : Raw) : BitVec 3 := r.w.extractLsb' 25 3
def Raw.rest4 (r : Raw) : BitVec 12 := r.w.extractLsb' 28 12
/-- The W field of F5 (R57). -/
def Raw.num (r : Raw) : BitVec 8 := r.w.extractLsb' 0 8
def Raw.sreg (r : Raw) : BitVec 8 := r.w.extractLsb' 8 8
def Raw.region (r : Raw) : BitVec 16 := r.w.extractLsb' 16 16
def Raw.priv (r : Raw) : BitVec 1 := r.w.extractLsb' 32 1
def Raw.rest5 (r : Raw) : BitVec 7 := r.w.extractLsb' 33 7
/-- The W field of F2 (R54). -/
def Raw.tslot (r : Raw) : BitVec 3 := r.w.extractLsb' 0 3
def Raw.toff (r : Raw) : BitVec 37 := r.w.extractLsb' 3 37

namespace Decode

/-- An instruction, or why there is none. -/
abbrev Res := Except DecodeErr

/-- Refuses by name unless the condition holds. -/
def need (b : Bool) (e : DecodeErr) : Res Unit := if b then .ok () else .error e

/-- A value that a code names, or the refusal. -/
def get {α : Type} (o : Option α) (e : DecodeErr) : Res α :=
  match o with
  | some x => .ok x
  | none => .error e

/-! ### Codes of operands and fields -/

/-- A source operand code (R59). -/
def srcOf (x : BitVec 8) : Option Src :=
  if h : x.toNat < 192 then some (.v ⟨x.toNat, h⟩)
  else if h : x.toNat - 192 < 32 then some (.s ⟨x.toNat - 192, h⟩)
  else if x = 0xF0 then some .z
  else if x = 0xF1 then some (.q 0)
  else if x = 0xF2 then some (.q 1)
  else if x = 0xF3 then some (.q 2)
  else if x = 0xF4 then some (.q 3)
  else if x = 0xF5 then some .lane
  else none

/-- A destination operand code. -/
def dstOf (x : BitVec 8) : Option Dst :=
  match srcOf x with
  | some (.v n) => some (.v n)
  | some (.s n) => some (.s n)
  | some .z => some .z
  | some (.q n) => some (.q n)
  | _ => none

/-- A line-register code. -/
def lineOf (x : BitVec 8) : Option (Fin 16) :=
  if x.extractLsb' 4 4 = 0xE then some (x.extractLsb' 0 4).toFin else none

/-- An index below n (R61). -/
def idxOf (n : Nat) (x : BitVec 8) : Option (Fin n) := if h : x.toNat < n then some ⟨x.toNat, h⟩ else none

/-- A vector-register code. -/
def vecOf (x : BitVec 8) : Option (Fin 192) := idxOf 192 x

/-- A uniform-register code. -/
def uniOf (x : BitVec 8) : Option (Fin 32) :=
  if x.toNat < 192 then none else if h : x.toNat - 192 < 32 then some ⟨x.toNat - 192, h⟩ else none

def rmOf : Nat → Option Rm
  | 0 => some .rn | 1 => some .rz | 2 => some .ru | 3 => some .rd | 4 => some .rna | 5 => some .sr | _ => none

def scopeOf : Nat → Option Scope
  | 0 => some .group | 1 => some .team | 2 => some .core | 3 => some .cluster | 4 => some .bench | 5 => some .die
  | 6 => some .package | 7 => some .fabric | 8 => some .system | _ => none

def pathOf : Nat → Option Path
  | 0 => some .ls | 1 => some .cp | 2 => some .mx | 3 => some .fr | 4 => some .cl | 5 => some .ho | _ => none

def semOf : Nat → Sem
  | 0 => .relaxed | 1 => .acq | 2 => .rel | _ => .acqrel

def sizeOf : Nat → Option Size
  | 0 => some .b | 1 => some .h | 2 => some .w | 3 => some .d | 4 => some .q | _ => none

def farOf : Nat → Option FarOp
  | 0 => some .add | 1 => some .fadd | 2 => some .min | 3 => some .max | 4 => some .and | 5 => some .or
  | 6 => some .xor | 7 => some .xchg | 8 => some .cas | 9 => some .dadd | _ => none

def irelOf : Nat → Option IRel
  | 0 => some .eq | 1 => some .ne | 2 => some .lt | 3 => some .le | 4 => some .gt | 5 => some .ge
  | 6 => some .ult | 7 => some .ule | 8 => some .ugt | 9 => some .uge | _ => none

def frelOf : Nat → Option FRel
  | 0 => some .eq | 1 => some .ne | 2 => some .lt | 3 => some .le | 4 => some .gt | 5 => some .ge
  | 6 => some .num | 7 => some .nan | _ => none

def plopOf : Nat → Option PlopOp
  | 0 => some .and | 1 => some .or | 2 => some .xor | 3 => some .andn | 4 => some .orn | 5 => some .not | _ => none

def shflOf : Nat → Option ShflMode
  | 0 => some .pick | 1 => some .lo | 2 => some .hi | 3 => some .swz | 4 => some .rol | 5 => some .ror | _ => none

def redgOf : Nat → Option RedgOp
  | 0 => some .add | 1 => some .min | 2 => some .max | 3 => some .umin | 4 => some .umax | 5 => some .and
  | 6 => some .or | 7 => some .xor | 8 => some .fadd | 9 => some .fmin | 10 => some .fmax | _ => none

def scanOf : Nat → Option ScanOp
  | 0 => some .add | 1 => some .addx | 2 => some .fadd | 3 => some .faddx | 4 => some .max | 5 => some .min
  | _ => none

def cvtOf : Nat → CvtOp
  | 0 => .f32f64 | 1 => .f64f32 | 2 => .f16f32 | 3 => .f32f16 | 4 => .bf16f32 | 5 => .f32bf16 | 6 => .i32f32
  | 7 => .n32f32 | 8 => .f32i32 | 9 => .f32n32 | 10 => .i64f64 | 11 => .n64f64 | 12 => .f64i64 | 13 => .f64n64
  | 14 => .i32f64 | _ => .f64i32

def pollOf : Nat → Option PollCmp
  | 0 => some .eq | 1 => some .ne | 2 => some .uge | 3 => some .ult | _ => none

def barOf : Nat → Option BarOp
  | 0 => some .none | 1 => some .dadd | 2 => some .iadd | 3 => some .smin | 4 => some .smax | 5 => some .dmin
  | 6 => some .dmax | _ => none

def condOf : Nat → Option CondOp
  | 0 => some .set | 1 => some .or | 2 => some .add | 3 => some .umax | _ => none

def fenceOf : Nat → Option FenceSem
  | 0 => some .acq | 1 => some .rel | 2 => some .acqrel | _ => none

def sparsityOf : Nat → Sparsity
  | 0 => .n8 | 1 => .n12 | 2 => .n16 | _ => .n24

/-- Special-register numbers (R36). -/
def sregOf : Nat → Option SReg
  | 0x00 => some .lane | 0x01 => some .grp | 0x02 => some .teamx | 0x03 => some .teamy | 0x04 => some .teamz
  | 0x05 => some .role | 0x06 => some .core | 0x07 => some .bench | 0x08 => some .dieid | 0x09 => some .pkgid
  | 0x10 => some .clk | 0x11 => some .partw | 0x12 => some .fstat | 0x13 => some .amask | 0x14 => some .lpc
  | 0x15 => some .tcause | 0x16 => some .tadr | 0x17 => some .tlane | 0x18 => some .rgncnt | 0x19 => some .kvroot
  | 0x1A => some .asid | 0x1B => some .gatedepth | _ => none

/-! ### Fields of a word -/

/-- The guard (R48). -/
def guardOf (x : BitVec 4) : Guard := { neg := x.getLsbD 3, p := (x.extractLsb' 0 3).toFin }

def dst (x : BitVec 8) : Res Dst := get (dstOf x) .operandCode
def src (x : BitVec 8) : Res Src := get (srcOf x) .operandCode
def line (x : BitVec 8) : Res (Fin 16) := get (lineOf x) .operandCode
def idx (n : Nat) (x : BitVec 8) : Res (Fin n) := get (idxOf n x) .index
def zero8 (x : BitVec 8) : Res Unit := need (x == 0) .unusedOperand

def noLa (r : Raw) : Res Unit := need (r.la == 0) .lookahead
def noFl (r : Raw) : Res Unit := need (r.fl == 0) .flag
def noFn (r : Raw) : Res Unit := need (r.fn == 0) .reservedFn

/-- FL bit 20 where the instruction has a flag (R50). -/
def flag (r : Raw) : Res Bool := do need (r.fl.extractLsb' 1 3 == 0) .flag; .ok (r.fl.getLsbD 0)

/-- FN 0 or 1. -/
def fnBit (r : Raw) : Res Bool := do need (r.fn.extractLsb' 1 3 == 0) .reservedFn; .ok (r.fn.getLsbD 0)

/-- MOD with a rounding mode (R52). -/
def fmod (r : Raw) : Res FMod := do
  let rm ← get (rmOf (r.modBits.extractLsb' 0 3).toNat) .rounding
  .ok { rm := rm, nega := r.modBits.getLsbD 3, negb := r.modBits.getLsbD 4, negc := r.modBits.getLsbD 5,
        abs := r.modBits.getLsbD 6, sat := r.modBits.getLsbD 7 }

/-- MOD of a special function: NEGA and ABS. -/
def negAbs (r : Raw) : Res (Bool × Bool) := do
  need (r.modBits.extractLsb' 0 3 == 0) .rounding
  need (r.modBits &&& 0xB0 == 0) .modBits
  .ok (r.modBits.getLsbD 3, r.modBits.getLsbD 6)

/-- MOD with nothing but a rounding mode. -/
def rmOnly (r : Raw) : Res Rm := do
  need (r.modBits.extractLsb' 3 5 == 0) .modBits
  get (rmOf (r.modBits.extractLsb' 0 3).toNat) .rounding

def noMod (r : Raw) : Res Unit := need (r.modBits == 0) .modBits
def noImm (r : Raw) : Res Unit := need (r.immBits == 0) .wField

/-- An F0 word with every W bit zero. -/
def noW (r : Raw) : Res Unit := need (r.w == 0) .wField

/-- No MOD, no flag, no lookahead. -/
def plain (r : Raw) : Res Unit := do noMod r; noFl r; noLa r

/-- B, or the immediate in its place (R51, R53). -/
def srcB (r : Raw) : Res Src :=
  if r.b = 0xFE then .ok (.imm r.immBits) else do noImm r; src r.b

/-- The source A, or the immediate with A zero (R115, R116). -/
def srcAI (r : Raw) : Res Src :=
  if r.b = 0xFE then do zero8 r.a; .ok (.imm r.immBits) else do zero8 r.b; noImm r; src r.a

/-- Operands D, A, B of F0/F1. -/
def dab (r : Raw) (mk : Dst → Src → Src → Instr) : Res Instr := do
  zero8 r.c; .ok (mk (← dst r.d) (← src r.a) (← srcB r))

/-- Operands D, A, B, C of F0/F1. -/
def dabc (r : Raw) (mk : Dst → Src → Src → Src → Instr) : Res Instr := do
  .ok (mk (← dst r.d) (← src r.a) (← srcB r) (← src r.c))

/-- Operands D and A of F0. -/
def da (r : Raw) (mk : Dst → Src → Instr) : Res Instr := do
  zero8 r.b; zero8 r.c; noImm r; .ok (mk (← dst r.d) (← src r.a))

/-- A predicate D, and A, B. -/
def pab (r : Raw) (mk : Fin 8 → Src → Src → Instr) : Res Instr := do
  zero8 r.c; .ok (mk (← idx 8 r.d) (← src r.a) (← srcB r))

/-- An F0 word with only the guard. -/
def bare (r : Raw) (mk : Instr) : Res Instr := do
  noFn r; noFl r; noLa r; zero8 r.d; zero8 r.a; zero8 r.b; zero8 r.c; noW r; .ok mk

/-- The W field of F3: which of OFF, SCOPE and SEM may be nonzero. -/
def f3 (r : Raw) (off sc sem : Bool) : Res Unit := do
  need (r.rest3 == 0) .wField
  need (off || r.off == 0) .wField
  need (sc || r.scope3 == 0) .scopeCode
  need (sem || r.sem3 == 0) .semCode

def scope3 (r : Raw) : Res Scope := get (scopeOf r.scope3.toNat) .scopeCode

/-- A line operand (R55). -/
def lop (r : Raw) : Res LOp := do .ok ⟨← line r.a, ← src r.b, r.off⟩

/-- An address operand (R222). -/
def aop (r : Raw) : Res AOp := do .ok ⟨← src r.a, ← src r.b, r.off⟩

/-- A line with no offset: B holds z (R222). -/
def bareLine (r : Raw) : Res (Fin 16) := do need (r.b == 0xF0) .unusedOperand; line r.a

/-- A SEM that is relaxed or the one given (R222). -/
def semOr (r : Raw) (n : Nat) : Res Bool :=
  if r.sem3.toNat = 0 then .ok false else if r.sem3.toNat = n then .ok true else .error .semCode

/-- The W field of F4: which fields may be nonzero. -/
def f4 (r : Raw) (tid tag paths sc rm : Bool) : Res Unit := do
  need (r.rest4 == 0) .wField
  need (tid || r.tid == 0) .wField
  need (tag || r.tag == 0) .wField
  need (paths || (r.pathA == 0 && r.pathB == 0)) .pathCode
  need (sc || r.scope4 == 0) .scopeCode
  need (rm || r.rm4 == 0) .rounding

def scope4 (r : Raw) : Res Scope := get (scopeOf r.scope4.toNat) .scopeCode
def rm4 (r : Raw) : Res Rm := get (rmOf r.rm4.toNat) .rounding

/-- The W field of F5: which fields may be nonzero, and the PRIV bit (R57). -/
def f5 (r : Raw) (num sreg region priv : Bool) : Res Unit := do
  need (r.rest5 == 0) .wField
  need (num || r.num == 0) .wField
  need (sreg || r.sreg == 0) .sregCode
  need (region || r.region == 0) .wField
  need (r.priv == (if priv then 1 else 0)) .privBit

/-! ### The opcodes, by their high digit (R62) -/

/-- 0x00-0x0C (R64, R165-R169, R195-R197). -/
def control (r : Raw) (g : Guard) : Res Instr :=
  match r.op.toNat with
  | 0x00 => do need (r.pg == 0) .unusedOperand; bare r .nop
  | 0x01 => do
    noFn r; noLa r; zero8 r.d; zero8 r.a; zero8 r.b; zero8 r.c
    let u ← flag r
    .ok (.bra g u (← get (if h : r.tslot.toNat < 5 then some ⟨r.tslot.toNat, h⟩ else none) .slotNumber) r.toff)
  | 0x02 => do noFn r; noLa r; zero8 r.d; zero8 r.b; zero8 r.c; noW r; .ok (.brx g (← flag r) (← src r.a))
  | 0x03 => do
    noFn r; noLa r; zero8 r.a; zero8 r.b; zero8 r.c
    let u ← flag r
    .ok (.call g u (← dst r.d)
      (← get (if h : r.tslot.toNat < 5 then some ⟨r.tslot.toNat, h⟩ else none) .slotNumber) r.toff)
  | 0x04 => do noFn r; noLa r; zero8 r.d; zero8 r.b; zero8 r.c; noW r; .ok (.ret g (← flag r) (← src r.a))
  | 0x05 => bare r (.exit g)
  | 0x06 => bare r (.yield g)
  | 0x07 => do
    noLa r; noFl r; f3 r true true true
    .ok (.poll g (← get (pollOf r.fn.toNat) .reservedFn) (← semOr r 1) (← scope3 r) (← dst r.d) (← lop r) (← src r.c))
  | 0x08 => do
    noFn r; noLa r; noFl r; f3 r false false false
    .ok (.lwait g (← dst r.d) (← bareLine r) (← src r.c))
  | 0x09 => do noFn r; noFl r; noLa r; zero8 r.a; zero8 r.b; zero8 r.c; noW r; .ok (.enrol g (← idx 4 r.d))
  | 0x0A => do noFn r; noFl r; noLa r; zero8 r.a; zero8 r.b; zero8 r.c; noW r; .ok (.park g (← idx 4 r.d))
  | 0x0B => do noFn r; noFl r; noLa r; zero8 r.a; zero8 r.b; zero8 r.c; noW r; .ok (.strike g (← idx 4 r.d))
  | 0x0C => do
    noFn r; noFl r; noLa r; zero8 r.d; zero8 r.a; zero8 r.b; zero8 r.c; f5 r true false false false
    .ok (.brk g r.num)
  | _ => .error .reservedOp

/-- 0x10-0x1E (R110-R112). -/
def integer (r : Raw) (g : Guard) : Res Instr :=
  match r.op.toNat with
  | 0x10 => do noMod r; noLa r; dab r (.iadd g (← fnBit r) (← flag r))
  | 0x11 => do noMod r; noLa r; dab r (.isub g (← fnBit r) (← flag r))
  | 0x12 => do noMod r; noLa r; dab r (.imul g (← fnBit r) (← flag r))
  | 0x13 => do plain r; dab r (.imulh g (← fnBit r))
  | 0x14 => do noMod r; noLa r; dabc r (.imad g (← fnBit r) (← flag r))
  | 0x15 => do plain r; dab r (.imin g (← fnBit r))
  | 0x16 => do plain r; dab r (.imax g (← fnBit r))
  | 0x17 => do noMod r; noLa r; noFn r; da r (.iabs g (← flag r))
  | 0x18 => do noMod r; noLa r; dab r (.iadd64 g (← fnBit r) (← flag r))
  | 0x19 => do noMod r; noLa r; dabc r (.imad64 g (← fnBit r) (← flag r))
  | 0x1A => do plain r; dab r (.lea g (r.fn.getLsbD 3) (r.fn.extractLsb' 0 3).toFin)
  | 0x1B => do plain r; noFn r; .ok (.sel g (← dst r.d) (← src r.a) (← srcB r) (← idx 8 r.c))
  | 0x1C => do plain r; pab r (.icmp g (← get (irelOf r.fn.toNat) .reservedFn))
  | 0x1D => do noMod r; dab r (.idiv g r.la.toFin (← fnBit r) (← flag r))
  | 0x1E => do noMod r; noFl r; dab r (.irem g r.la.toFin (← fnBit r))
  | _ => .error .reservedOp

/-- 0x20-0x2F (R113-R117). -/
def bits (r : Raw) (g : Guard) : Res Instr :=
  match r.op.toNat with
  | 0x20 => do plain r; noFn r; dab r (.and g)
  | 0x21 => do plain r; noFn r; dab r (.or g)
  | 0x22 => do plain r; noFn r; dab r (.xor g)
  | 0x23 => do plain r; noFn r; dab r (.shl g)
  | 0x24 => do plain r; noFn r; dab r (.shr g)
  | 0x25 => do plain r; noFn r; dab r (.sar g)
  | 0x26 => do plain r; dab r (.rot g (← fnBit r))
  | 0x27 => do plain r; noFn r; da r (.popc g)
  | 0x28 => do plain r; noFn r; da r (.clz g)
  | 0x29 => do plain r; noFn r; da r (.brev g)
  | 0x2A => do plain r; dab r (.bfe g (← fnBit r))
  | 0x2B => do plain r; noFn r; dabc r (.bfi g)
  | 0x2C => do plain r; zero8 r.c; .ok (.mov g (← fnBit r) (← dst r.d) (← srcAI r))
  | 0x2D => do
    plain r; zero8 r.c; noImm r
    .ok (.plop g (← get (plopOf r.fn.toNat) .reservedFn) (← idx 8 r.d) (← idx 8 r.a) (← idx 8 r.b))
  | 0x2E =>
    match r.fn.toNat with
    | 0 => do plain r; zero8 r.b; zero8 r.c; noImm r; .ok (.pmov g (.mask (← dst r.d) (← idx 8 r.a)))
    | 1 => do plain r; zero8 r.c; .ok (.pmov g (.set (← idx 8 r.d) (← srcAI r)))
    | 2 => do plain r; zero8 r.c; .ok (.pmov g (.nz (← idx 8 r.d) (← srcAI r)))
    | _ => .error .reservedFn
  | 0x2F => do
    noFn r; noFl r; noLa r; zero8 r.a; zero8 r.b; zero8 r.c; f5 r false true false false
    .ok (.movsr g (← dst r.d) (← get (sregOf r.sreg.toNat) .sregCode))
  | _ => .error .reservedOp

/-- 0x30-0x37 (R127-R131, R270-R273). -/
def group (r : Raw) (g : Guard) : Res Instr :=
  match r.op.toNat with
  | 0x30 => do
    plain r; zero8 r.b; zero8 r.c; noImm r
    let a ← idx 8 r.a
    match r.fn.toNat with
    | 0 => .ok (.vote g (.every (← idx 8 r.d)) a)
    | 1 => .ok (.vote g (.some (← idx 8 r.d)) a)
    | 2 => .ok (.vote g (.same (← idx 8 r.d)) a)
    | 3 => .ok (.vote g (.lanes (← dst r.d)) a)
    | 4 => .ok (.vote g (.count (← dst r.d)) a)
    | 5 => .ok (.vote g (.first (← dst r.d)) a)
    | _ => .error .reservedFn
  | 0x31 => do plain r; dab r (.shfl g (← get (shflOf r.fn.toNat) .reservedFn))
  | 0x32 => do noFl r; noLa r; da r (.redg g (← get (redgOf r.fn.toNat) .reservedFn) (← rmOnly r))
  | 0x33 => do
    noFl r; noLa r; zero8 r.b; noImm r
    let op ← get (scanOf (r.fn.extractLsb' 0 3).toNat) .reservedFn
    let seg ← if r.fn.getLsbD 3 then (do .ok (some (← idx 8 r.c))) else (do zero8 r.c; .ok none)
    .ok (.scan g op seg (← rmOnly r) (← dst r.d) (← src r.a))
  | 0x34 => do plain r; noFn r; zero8 r.d; zero8 r.a; zero8 r.c; .ok (.part g (← srcB r))
  | 0x35 => do plain r; dab r (.matchLanes g (← fnBit r))
  | 0x36 => do plain r; noFn r; .ok (.compact g (← dst r.d) (← src r.a) (← srcB r) (← idx 8 r.c))
  | 0x37 => do plain r; noFn r; zero8 r.c; noImm r; .ok (.regrp g (← dst r.d) (← src r.a) (← src r.b))
  | _ => .error .reservedOp

/-- 0x40-0x4A (R118-R120). -/
def single (r : Raw) (g : Guard) : Res Instr :=
  match r.op.toNat with
  | 0x40 => do noFl r; noLa r; noFn r; dab r (.fadd g (← fmod r))
  | 0x41 => do noFl r; noLa r; noFn r; dab r (.fmul g (← fmod r))
  | 0x42 => do noFl r; noLa r; noFn r; dabc r (.ffma g (← fmod r))
  | 0x43 => do noFl r; noLa r; noFn r; dab r (.fmin g (← fmod r))
  | 0x44 => do noFl r; noLa r; noFn r; dab r (.fmax g (← fmod r))
  | 0x45 => do noFl r; noLa r; pab r (.fcmp g (← get (frelOf r.fn.toNat) .reservedFn) (← fmod r))
  | 0x46 => do noFl r; noLa r; noFn r; da r (.frnd g (← fmod r))
  | 0x48 => do noFl r; noLa r; dab r (.hadd2 g (← fnBit r) (← fmod r))
  | 0x49 => do noFl r; noLa r; dab r (.hmul2 g (← fnBit r) (← fmod r))
  | 0x4A => do noFl r; noLa r; dabc r (.hfma2 g (← fnBit r) (← fmod r))
  | _ => .error .reservedOp

/-- 0x50-0x56 (R118-R121). -/
def double (r : Raw) (g : Guard) : Res Instr :=
  match r.op.toNat with
  | 0x50 => do noFl r; noLa r; noFn r; dab r (.dadd g (← fmod r))
  | 0x51 => do noFl r; noLa r; noFn r; dab r (.dmul g (← fmod r))
  | 0x52 => do noFl r; noLa r; noFn r; dabc r (.dfma g (← fmod r))
  | 0x53 => do noFl r; noLa r; noFn r; dab r (.dmin g (← fmod r))
  | 0x54 => do noFl r; noLa r; noFn r; dab r (.dmax g (← fmod r))
  | 0x55 => do noFl r; noLa r; pab r (.dcmp g (← get (frelOf r.fn.toNat) .reservedFn) (← fmod r))
  | 0x56 => do noFl r; noLa r; da r (.fcvt g (cvtOf r.fn.toNat) (← fmod r))
  | _ => .error .reservedOp

/-- A special function of one operand (R122). -/
def sfu (r : Raw) (mk : Fin 16 → Bool → Bool → Dst → Src → Instr) : Res Instr := do
  noFl r; noFn r
  let m ← negAbs r
  da r (mk r.la.toFin m.1 m.2)

/-- 0x60-0x6B (R122-R125). -/
def special (r : Raw) (g : Guard) : Res Instr :=
  match r.op.toNat with
  | 0x60 => sfu r (.rcp g)
  | 0x61 => sfu r (.rsq g)
  | 0x62 => sfu r (.sqrt g)
  | 0x63 => sfu r (.ex2 g)
  | 0x64 => sfu r (.lg2 g)
  | 0x65 => sfu r (.sin g)
  | 0x66 => sfu r (.cos g)
  | 0x67 => sfu r (.tanh g)
  | 0x68 => do
    noFl r; noFn r; noMod r; noImm r
    .ok (.tblev g r.la.toFin (← dst r.d) (← src r.a) (← src r.b) (← src r.c))
  | 0x69 => bare r (.tblsw g)
  | 0x6A => sfu r (.drcp g)
  | 0x6B => sfu r (.dsqrt g)
  | _ => .error .reservedOp

/-- 0x70-0x78 (R133-R139). -/
def narrow (r : Raw) (g : Guard) : Res Instr :=
  match r.op.toNat with
  | 0x70 => do
    noLa r; noFl r; zero8 r.c; f4 r true false false false true
    .ok (.qnt g (← fnBit r) (← rm4 r) (← dst r.d) (← src r.a) (← src r.b) r.tid)
  | 0x71 => do
    noLa r; noFl r; noFn r; zero8 r.c; f4 r true false false false false
    .ok (.dqnt g (← dst r.d) (← src r.a) (← src r.b) r.tid)
  | 0x72 => do
    noLa r; noFl r; noFn r; zero8 r.c; f4 r true false false false false
    .ok (.bscale g (← dst r.d) (← src r.a) (← src r.b) r.tid)
  | 0x73 => do
    noLa r; noFl r; zero8 r.b; zero8 r.c; f4 r true false false false true
    .ok (.cvtf g (← fnBit r) (← rm4 r) (← dst r.d) (← src r.a) r.tid)
  | 0x74 => do plain r; noFn r; da r (.pack6 g)
  | 0x75 => do plain r; da r (.unpk6 g (← fnBit r))
  | 0x76 => do plain r; noFn r; da r (.pack4 g)
  | 0x77 => do plain r; da r (.unpk4 g (← fnBit r))
  | 0x78 => do
    noLa r; noFl r; noFn r; zero8 r.c; f4 r true false false false false
    .ok (.smooth g (← dst r.d) (← src r.a) (← src r.b) r.tid)
  | _ => .error .reservedOp

/-- 0x80 (R222, R227). -/
def opening (r : Raw) (g : Guard) : Res Instr :=
  match r.fn.toNat with
  | 3 => do
    noLa r; noFl r; zero8 r.d; zero8 r.c; f3 r false false false; .ok (.openReopen g (← bareLine r))
  | n => do
    noLa r; f3 r true false false
    let m ← get (match n with | 0 => some OpenMode.read | 1 => some .write | 2 => some .rw | _ => none) .reservedFn
    .ok (.openLine g m (← flag r) (← idx 8 r.d) (← lop r) (← src r.c))

/-- FN of LLK and SUL: 2 for a word, 3 for a double word (R222). -/
def wordOrDouble (r : Raw) : Res Bool :=
  match r.fn.toNat with
  | 2 => .ok false
  | 3 => .ok true
  | _ => .error .reservedFn

/-- 0x80-0x8D (R222, R277). -/
def lineMem (r : Raw) (g : Guard) : Res Instr :=
  match r.op.toNat with
  | 0x80 => opening r g
  | 0x81 => do noLa r; noFn r; zero8 r.c; f3 r true false false; .ok (.opens g (← flag r) (← idx 8 r.d) (← lop r))
  | 0x82 => do
    noLa r; noFl r; noFn r; zero8 r.d; zero8 r.c; f3 r false false false; .ok (.close g (← bareLine r))
  | 0x83 => do
    noFl r; zero8 r.c; f3 r true true true
    .ok (.ld g r.la.toFin (← get (sizeOf r.fn.toNat) .reservedFn) (← semOr r 1) (← scope3 r) (← dst r.d) (← lop r))
  | 0x84 => do
    noLa r; noFl r; zero8 r.d; f3 r true true true
    .ok (.st g (← get (sizeOf r.fn.toNat) .reservedFn) (← semOr r 2) (← scope3 r) (← lop r) (← src r.c))
  | 0x85 => do
    noLa r; noFl r; noFn r; zero8 r.d; zero8 r.c; f3 r false false false; .ok (.flush g (← bareLine r))
  | 0x86 => do
    noFl r; noFn r; zero8 r.c; f3 r false false false; .ok (.linfo g r.la.toFin (← dst r.d) (← bareLine r))
  | 0x87 => do
    noFl r; zero8 r.c; f3 r true false false; .ok (.llk g r.la.toFin (← wordOrDouble r) (← dst r.d) (← lop r))
  | 0x88 => do
    noLa r; noFl r; zero8 r.d; f3 r true false false; .ok (.sul g (← wordOrDouble r) (← lop r) (← src r.c))
  | 0x89 => do
    noFl r; f3 r true true true
    .ok (.amo g r.la.toFin (← get (farOf r.fn.toNat) .reservedFn) (semOf r.sem3.toNat) (← scope3 r) (← dst r.d)
      (← aop r) (← src r.c))
  | 0x8A => do
    noLa r; noFl r; zero8 r.d; f3 r true true true
    .ok (.red g (← get (farOf r.fn.toNat) .reservedFn) (← semOr r 2) (← scope3 r) (← aop r) (← src r.c))
  | 0x8B => do
    noLa r; noFl r; zero8 r.d; f3 r true true true
    .ok (.scat g (← get (farOf r.fn.toNat) .reservedFn) (← semOr r 2) (← scope3 r) (← aop r) (← src r.c))
  | 0x8C => do
    noLa r; noFl r; f3 r true false false
    let t ← if (← fnBit r) then (do .ok (some (← get (uniOf r.d) .operandCode))) else (do zero8 r.d; .ok none)
    .ok (.cmcast g t (← lop r) (← src r.c))
  | 0x8D => do
    noLa r; noFl r; zero8 r.d; f3 r true true true
    .ok (.mst g (← get (sizeOf r.fn.toNat) .reservedFn) (← semOr r 2) (← scope3 r) (← lop r) (← src r.c))
  | _ => .error .reservedOp

/-- Fences, barriers, stage barriers and clusters: 0x90-0x9B (R239, R242, R245-R247). -/
def ordering (r : Raw) (g : Guard) : Res Instr :=
  match r.op.toNat with
  | 0x90 => do
    noLa r; noFl r; zero8 r.d; zero8 r.a; zero8 r.b; zero8 r.c; f4 r false false true true false
    need (r.pathB == 0) .pathCode
    .ok (.fence g (← get (fenceOf r.fn.toNat) .reservedFn) (← get (pathOf r.pathA.toNat) .pathCode) (← scope4 r))
  | 0x91 => do
    noFn r; noLa r; noFl r; zero8 r.d; zero8 r.a; zero8 r.b; zero8 r.c; f4 r false false true true false
    .ok (.xfence g (← get (pathOf r.pathA.toNat) .pathCode) (← get (pathOf r.pathB.toNat) .pathCode) (← scope4 r))
  | 0x92 => bare r (.afence g)
  | 0x93 => do
    noFn r; noLa r; noFl r; zero8 r.d; zero8 r.a; zero8 r.b; zero8 r.c; f4 r false false false true false
    .ok (.bar g (← scope4 r))
  | 0x94 => do
    noLa r; noFl r; zero8 r.d; zero8 r.b; zero8 r.c; f4 r false false false true false
    .ok (.bara g (← get (barOf r.fn.toNat) .reservedFn) (← scope4 r) (← src r.a))
  | 0x95 => do
    noFn r; noLa r; noFl r; zero8 r.a; zero8 r.b; zero8 r.c; f4 r false false false true false
    .ok (.barw g (← scope4 r) (← dst r.d))
  | 0x96 => do noFn r; noLa r; noFl r; zero8 r.d; f3 r true false false; .ok (.sbinit g (← lop r) (← src r.c))
  | 0x97 => do noFn r; noLa r; noFl r; zero8 r.d; f3 r true false false; .ok (.sbexp g (← lop r) (← src r.c))
  | 0x98 => do noFn r; noLa r; noFl r; zero8 r.d; f3 r true false false; .ok (.sbarv g (← lop r) (← src r.c))
  | 0x99 => do
    noFn r; noLa r; noFl r; f3 r true false false; .ok (.sbwait g (← dst r.d) (← lop r) (← src r.c))
  | 0x9A => do
    noFn r; noLa r; noFl r; zero8 r.c; noW r; .ok (.cjoin g (← dst r.d) (← src r.a) (← src r.b))
  | 0x9B => bare r (.cleave g)
  | _ => .error .reservedOp

/-- 0xA0-0xA5 (R256-R268). -/
def engine (r : Raw) (g : Guard) : Res Instr :=
  match r.op.toNat with
  | 0xA0 => do
    noLa r; noFl r; zero8 r.d; f4 r false true false false false
    .ok (.cpy g (← fnBit r) r.tag.toFin (← src r.a) (← src r.b) (← src r.c))
  | 0xA1 => do
    noFn r; noLa r; noFl r; zero8 r.d; zero8 r.a; zero8 r.b; zero8 r.c; f4 r false true false false false
    .ok (.cpwait g r.tag.toFin)
  | 0xA2 => do
    noFn r; noLa r; noFl r; zero8 r.b; f4 r false false false false false
    .ok (.kick g (← dst r.d) (← src r.a) (← src r.c))
  | 0xA3 => do
    noFn r; noLa r; noFl r; f4 r true false false false false
    .ok (.gthr g (← dst r.d) (← src r.a) (← src r.b) (← src r.c) r.tid)
  | 0xA4 => do
    noFn r; noLa r; noFl r; zero8 r.b; zero8 r.c; f4 r true false false false false
    .ok (.emb g (← dst r.d) (← src r.a) r.tid)
  | 0xA5 =>
    match r.fn.toNat with
    | 0 => do
      noFl r; zero8 r.a; zero8 r.b; zero8 r.c; f4 r false true false false false
      .ok (.cpstBt g r.la.toFin r.tag.toFin (← dst r.d))
    | 1 => do
      noFl r; zero8 r.b; zero8 r.c; f4 r false false false false false
      .ok (.cpstTkt g r.la.toFin (← dst r.d) (← src r.a))
    | _ => .error .reservedFn
  | _ => .error .reservedOp

/-- MACC by its FN (R149). -/
def macc (r : Raw) (g : Guard) : Res Instr := do
  noFl r; zero8 r.c; f4 r false false false false false
  match r.fn.toNat with
  | 0 => do zero8 r.a; zero8 r.b; .ok (.maccZero g r.la.toFin (← idx 8 r.d))
  | 1 => do zero8 r.a; zero8 r.b; .ok (.maccInit g r.la.toFin (← idx 8 r.d))
  | 2 => do zero8 r.b; .ok (.maccMov g r.la.toFin (← idx 8 r.d) (← idx 8 r.a))
  | 3 => .ok (.maccRd g r.la.toFin (← idx 192 r.d) (← idx 8 r.a) (← src r.b))
  | 4 => .ok (.maccWr g r.la.toFin (← idx 8 r.d) (← idx 192 r.a) (← src r.b))
  | 5 => do zero8 r.b; .ok (.maccRdst g r.la.toFin (← idx 192 r.d) (← idx 8 r.a))
  | 6 => do zero8 r.b; .ok (.maccWrst g r.la.toFin (← idx 8 r.d) (← idx 192 r.a))
  | 7 => do zero8 r.a; zero8 r.b; .ok (.maccDecl g r.la.toFin (← idx 4 r.d))
  | _ => .error .reservedFn

/-- 0xB0-0xB7 (R140-R155). -/
def matrix (r : Raw) (g : Guard) : Res Instr :=
  match r.op.toNat with
  | 0xB0 => do
    need (r.fn.extractLsb' 2 2 == 0) .reservedFn; f4 r true false false false false
    let fl ← flag r
    .ok (.mma g r.la.toFin fl (r.fn.extractLsb' 0 2).toFin (← idx 8 r.d) (← idx 192 r.a)
      (← get (uniOf r.b) .operandCode) (← get (uniOf r.c) .operandCode) r.tid)
  | 0xB1 => do
    f4 r true false false false false
    let fl ← flag r
    .ok (.mmas g r.la.toFin fl (r.fn.extractLsb' 0 2).toFin (sparsityOf (r.fn.extractLsb' 2 2).toNat) (← idx 8 r.d)
      (← idx 192 r.a) (← get (uniOf r.b) .operandCode) (← get (uniOf r.c) .operandCode) r.tid)
  | 0xB2 => macc r g
  | 0xB3 => bare r (.mrel g)
  | 0xB4 => do
    noFn r; noFl r; zero8 r.b; zero8 r.c; noW r; .ok (.smax g r.la.toFin (← idx 8 r.d) (← idx 8 r.a))
  | 0xB5 => do
    noFl r; zero8 r.b; zero8 r.c; f4 r true false false false false
    let q ← fnBit r
    need (q || r.tid == 0) .wField
    .ok (.sexp g r.la.toFin (if q then some r.tid else none) (← idx 8 r.d) (← idx 8 r.a))
  | 0xB6 => do
    noFn r; noFl r; zero8 r.b; zero8 r.c; noW r; .ok (.smerge g r.la.toFin (← idx 8 r.d) (← idx 8 r.a))
  | 0xB7 => do
    noFn r; noFl r; zero8 r.a; zero8 r.b; zero8 r.c; noW r; .ok (.cred g r.la.toFin (← idx 8 r.d))
  | _ => .error .reservedOp

/-- 0xC0-0xC2 (R185, R193, R194). -/
def task (r : Raw) (g : Guard) : Res Instr :=
  match r.op.toNat with
  | 0xC0 => do noFn r; noFl r; noLa r; zero8 r.d; zero8 r.b; zero8 r.c; noW r; .ok (.tdone g (← src r.a))
  | 0xC1 => do
    noFl r; noLa r; zero8 r.d; zero8 r.b; zero8 r.c; f5 r true false false false
    .ok (.gcond g (← get (condOf r.fn.toNat) .reservedFn) r.num (← src r.a))
  | 0xC2 => do
    noFn r; noFl r; noLa r; zero8 r.d; zero8 r.a; zero8 r.b; zero8 r.c; f5 r true false false false
    .ok (.gsig g r.num)
  | _ => .error .reservedOp

/-- 0xD0-0xD4 (R267, R304, R306). -/
def keyValue (r : Raw) (g : Guard) : Res Instr :=
  match r.op.toNat with
  | 0xD0 => do
    noLa r; f3 r false false false
    .ok (.kvopen g (← fnBit r) (← flag r) (← idx 8 r.d) (← bareLine r) (← src r.c))
  | 0xD1 => do
    noFn r; noLa r; noFl r; f4 r true false false false false
    .ok (.kvfill g (← dst r.d) (← src r.a) (← src r.b) (← src r.c) r.tid)
  | 0xD2 => do
    noFn r; noFl r; zero8 r.c; f5 r false false false true
    .ok (.kvmap g r.la.toFin (← idx 192 r.d) (← src r.a) (← src r.b))
  | 0xD3 => do
    noFn r; noFl r; zero8 r.c; f5 r false false false true
    .ok (.kvfork g r.la.toFin (← idx 192 r.d) (← src r.a) (← src r.b))
  | 0xD4 => do
    noFn r; noFl r; zero8 r.b; zero8 r.c; f5 r false false false true
    .ok (.kvdrop g r.la.toFin (← idx 192 r.d) (← src r.a))
  | _ => .error .reservedOp

/-- SETSR writes this register only from privileged code (R36, R57). -/
def privSReg : SReg → Bool
  | .fstat => false
  | _ => true

/-- SETSR by its register (R324). -/
def setsr (r : Raw) (g : Guard) : Res Instr := do
  noFn r; noFl r; noLa r; zero8 r.d; zero8 r.b; zero8 r.c
  let sr ← get (sregOf r.sreg.toNat) .sregCode
  f5 r false true false (privSReg sr)
  match sr with
  | .amask => .ok (.setsrAmask g (← src r.a))
  | .lpc => .ok (.setsrLpc g (← src r.a))
  | x => .ok (.setsr g x (← src r.a))

/-- 0xE0-0xEA (14, 16, 17). -/
def system (r : Raw) (g : Guard) : Res Instr :=
  match r.op.toNat with
  | 0xE0 => do
    noFn r; noFl r; noLa r; zero8 r.a; zero8 r.b; zero8 r.c; f5 r true false false false
    .ok (.gcall g (← dst r.d) r.num)
  | 0xE1 => do
    noFn r; noFl r; noLa r; zero8 r.d; zero8 r.b; zero8 r.c; f5 r false false false true
    .ok (.gret g (← src r.a))
  | 0xE2 => do
    noFn r; noFl r; noLa r; zero8 r.d; zero8 r.a; zero8 r.b; zero8 r.c; f5 r true false false false
    .ok (.trap g r.num)
  | 0xE3 => do
    noFn r; noLa r; zero8 r.d; zero8 r.a; zero8 r.b; zero8 r.c; f5 r false false false true
    .ok (.eret g (← flag r))
  | 0xE4 => setsr r g
  | 0xE5 => do
    noFn r; noFl r; noLa r; zero8 r.a; zero8 r.b; zero8 r.c; f5 r false false false false
    .ok (.dmrbeg g (← dst r.d))
  | 0xE6 => bare r (.dmrend g)
  | 0xE7 => do
    noFn r; noFl r; noLa r; zero8 r.d; zero8 r.a; zero8 r.b; zero8 r.c; f5 r false false true false
    .ok (.rgn g r.region)
  | 0xE8 => do
    noFn r; noFl r; noLa r; zero8 r.d; zero8 r.a; zero8 r.b; zero8 r.c; f5 r false false false true
    .ok (.halt g)
  | 0xE9 => do
    noFl r; noLa r; zero8 r.d; zero8 r.c; f5 r false false false true
    match r.fn.toNat with
    | 0 => do zero8 r.b; .ok (.tlbinv g (.asid (← src r.a)))
    | 1 => .ok (.tlbinv g (.page (← src r.a) (← src r.b)))
    | 2 => do zero8 r.a; zero8 r.b; .ok (.tlbinv g .all)
    | _ => .error .reservedFn
  | 0xEA => do
    noFl r; noLa r; zero8 r.d; zero8 r.c; f5 r false false false true
    match r.fn.toNat with
    | 0 => .ok (.recall g (.va (← src r.a) (← src r.b)))
    | 1 => do zero8 r.a; .ok (.recall g (.pa (← src r.b)))
    | _ => .error .reservedFn
  | _ => .error .reservedOp

/-- The fields as an instruction, before its own rules on operands. -/
def parse (r : Raw) : Res Instr :=
  let g := guardOf r.pg
  match (r.op.extractLsb' 4 4).toNat with
  | 0x0 => control r g
  | 0x1 => integer r g
  | 0x2 => bits r g
  | 0x3 => group r g
  | 0x4 => single r g
  | 0x5 => double r g
  | 0x6 => special r g
  | 0x7 => narrow r g
  | 0x8 => lineMem r g
  | 0x9 => ordering r g
  | 0xA => engine r g
  | 0xB => matrix r g
  | 0xC => task r g
  | 0xD => keyValue r g
  | 0xE => system r g
  | _ => .error .reservedOp

end Decode

/-- The instruction of a word (R46-R66), or why the word is none. -/
def decode (x : SlotWord) : Except DecodeErr Instr := do
  let i ← Decode.parse (Raw.ofWord x)
  Decode.need (WellFormed.wf i) .notAccepted
  .ok i

/-- The value of bytes, lowest first (R5). -/
def leNat : List Byte → Nat
  | [] => 0
  | b :: bs => b.toNat + 256 * leNat bs

/-- The n bytes of a value, lowest first (R5). -/
def leBytes : Nat → Nat → List Byte
  | 0, _ => []
  | n + 1, x => BitVec.ofNat 8 x :: leBytes n (x / 256)

/-- The instruction that the first 12 bytes of a slot hold. -/
def decodeBytes (bs : List Byte) : Except DecodeErr Instr :=
  if bs.length < 12 then .error .tooShort else decode (BitVec.ofNat 96 (leNat (bs.take 12)))

/-- The decoder on a word of the opcode table. -/
def decodeTableWord (nbits w : Nat) : Option Instr :=
  match decodeBytes (leBytes 12 (w % 2 ^ nbits)) with
  | .ok i => some i
  | .error _ => none

/-! ## The encoder -/

namespace Encode

/-- Operand codes (R59). -/
def src : Src → BitVec 8
  | .v n => BitVec.ofNat 8 n.val
  | .s n => BitVec.ofNat 8 (192 + n.val)
  | .z => 0xF0
  | .q n => BitVec.ofNat 8 (0xF1 + n.val)
  | .lane => 0xF5
  | .imm _ => 0xFE

def dst : Dst → BitVec 8
  | .v n => BitVec.ofNat 8 n.val
  | .s n => BitVec.ofNat 8 (192 + n.val)
  | .z => 0xF0
  | .q n => BitVec.ofNat 8 (0xF1 + n.val)

def ln (n : Fin 16) : BitVec 8 := BitVec.ofNat 8 (0xE0 + n.val)
def idx {n : Nat} (i : Fin n) : BitVec 8 := BitVec.ofNat 8 i.val
def vec (n : Fin 192) : BitVec 8 := BitVec.ofNat 8 n.val
def uni (n : Fin 32) : BitVec 8 := BitVec.ofNat 8 (192 + n.val)

/-- The immediate of B, zero in F0. -/
def imm : Src → Word
  | .imm w => w
  | _ => 0

def bit (b : Bool) : BitVec 4 := if b then 1 else 0
def bit1 (b : Bool) : BitVec 1 := if b then 1 else 0
def guard (g : Guard) : BitVec 4 := bit1 g.neg ++ (BitVec.ofFin g.p : BitVec 3)

def rm : Rm → BitVec 3
  | .rn => 0 | .rz => 1 | .ru => 2 | .rd => 3 | .rna => 4 | .sr => 5

def scope : Scope → BitVec 4
  | .group => 0 | .team => 1 | .core => 2 | .cluster => 3 | .bench => 4 | .die => 5 | .package => 6 | .fabric => 7
  | .system => 8

def path : Path → BitVec 3
  | .ls => 0 | .cp => 1 | .mx => 2 | .fr => 3 | .cl => 4 | .ho => 5

def sem : Sem → BitVec 2
  | .relaxed => 0 | .acq => 1 | .rel => 2 | .acqrel => 3

def size : Size → BitVec 4
  | .b => 0 | .h => 1 | .w => 2 | .d => 3 | .q => 4

def far : FarOp → BitVec 4
  | .add => 0 | .fadd => 1 | .min => 2 | .max => 3 | .and => 4 | .or => 5 | .xor => 6 | .xchg => 7 | .cas => 8
  | .dadd => 9

def irel : IRel → BitVec 4
  | .eq => 0 | .ne => 1 | .lt => 2 | .le => 3 | .gt => 4 | .ge => 5 | .ult => 6 | .ule => 7 | .ugt => 8 | .uge => 9

def frel : FRel → BitVec 4
  | .eq => 0 | .ne => 1 | .lt => 2 | .le => 3 | .gt => 4 | .ge => 5 | .num => 6 | .nan => 7

def plop : PlopOp → BitVec 4
  | .and => 0 | .or => 1 | .xor => 2 | .andn => 3 | .orn => 4 | .not => 5

def shfl : ShflMode → BitVec 4
  | .pick => 0 | .lo => 1 | .hi => 2 | .swz => 3 | .rol => 4 | .ror => 5

def redg : RedgOp → BitVec 4
  | .add => 0 | .min => 1 | .max => 2 | .umin => 3 | .umax => 4 | .and => 5 | .or => 6 | .xor => 7 | .fadd => 8
  | .fmin => 9 | .fmax => 10

def scan : ScanOp → BitVec 3
  | .add => 0 | .addx => 1 | .fadd => 2 | .faddx => 3 | .max => 4 | .min => 5

def cvt : CvtOp → BitVec 4
  | .f32f64 => 0 | .f64f32 => 1 | .f16f32 => 2 | .f32f16 => 3 | .bf16f32 => 4 | .f32bf16 => 5 | .i32f32 => 6
  | .n32f32 => 7 | .f32i32 => 8 | .f32n32 => 9 | .i64f64 => 10 | .n64f64 => 11 | .f64i64 => 12 | .f64n64 => 13
  | .i32f64 => 14 | .f64i32 => 15

def poll : PollCmp → BitVec 4
  | .eq => 0 | .ne => 1 | .uge => 2 | .ult => 3

def bar : BarOp → BitVec 4
  | .none => 0 | .dadd => 1 | .iadd => 2 | .smin => 3 | .smax => 4 | .dmin => 5 | .dmax => 6

def cond : CondOp → BitVec 4
  | .set => 0 | .or => 1 | .add => 2 | .umax => 3

def fenceSem : FenceSem → BitVec 4
  | .acq => 0 | .rel => 1 | .acqrel => 2

def sparsity : Sparsity → BitVec 2
  | .n8 => 0 | .n12 => 1 | .n16 => 2 | .n24 => 3

def sreg : SReg → BitVec 8
  | .lane => 0x00 | .grp => 0x01 | .teamx => 0x02 | .teamy => 0x03 | .teamz => 0x04 | .role => 0x05 | .core => 0x06
  | .bench => 0x07 | .dieid => 0x08 | .pkgid => 0x09 | .clk => 0x10 | .partw => 0x11 | .fstat => 0x12
  | .amask => 0x13 | .lpc => 0x14 | .tcause => 0x15 | .tadr => 0x16 | .tlane => 0x17 | .rgncnt => 0x18
  | .kvroot => 0x19 | .asid => 0x1A | .gatedepth => 0x1B

/-- MOD (R52). -/
def fmod (m : FMod) : BitVec 8 :=
  bit1 m.sat ++ bit1 m.abs ++ bit1 m.negc ++ bit1 m.negb ++ bit1 m.nega ++ rm m.rm

/-- MOD of a special function. -/
def negAbs (neg abs : Bool) : BitVec 8 := 0#1 ++ bit1 abs ++ 0#2 ++ bit1 neg ++ 0#3

/-- W fields by format (R51-R57). -/
def w01 (m : BitVec 8) (i : Word) : BitVec 40 := i ++ m
def w2 (slot : Fin 5) (toff : BitVec 37) : BitVec 40 := toff ++ BitVec.ofNat 3 slot.val
def w3 (off : BitVec 7) (sc : BitVec 4) (sm : BitVec 2) : BitVec 40 := 0#27 ++ sm ++ sc ++ off
def w4 (tid : BitVec 12) (tag pa pb : BitVec 3) (sc : BitVec 4) (r : BitVec 3) : BitVec 40 :=
  0#12 ++ r ++ sc ++ pb ++ pa ++ tag ++ tid
def w5 (num sr : BitVec 8) (region : BitVec 16) (priv : BitVec 1) : BitVec 40 := 0#7 ++ priv ++ region ++ sr ++ num

/-- A word by its fields: OP, FN, guard, LA, FL, D, A, B, C, W. -/
def mk (op : BitVec 8) (fn : BitVec 4) (g : Guard) (la : Fin 16) (fl : BitVec 4) (d a b c : BitVec 8) (w : BitVec 40) :
    Option Raw :=
  some { op := op, fn := fn, pg := guard g, la := BitVec.ofFin la, fl := fl, d := d, a := a, b := b, c := c, w := w }

/-- F0/F1 forms. -/
def dab (op : BitVec 8) (fn : BitVec 4) (g : Guard) (la : Fin 16) (fl : BitVec 4) (m : BitVec 8) (d : Dst) (a b : Src) :=
  mk op fn g la fl (dst d) (src a) (src b) 0 (w01 m (imm b))
def dabc (op : BitVec 8) (fn : BitVec 4) (g : Guard) (fl : BitVec 4) (m : BitVec 8) (d : Dst) (a b c : Src) :=
  mk op fn g 0 fl (dst d) (src a) (src b) (src c) (w01 m (imm b))
def da (op : BitVec 8) (fn : BitVec 4) (g : Guard) (la : Fin 16) (fl : BitVec 4) (m : BitVec 8) (d : Dst) (a : Src) :=
  mk op fn g la fl (dst d) (src a) 0 0 (w01 m 0)
def pab (op : BitVec 8) (fn : BitVec 4) (g : Guard) (m : BitVec 8) (d : Fin 8) (a b : Src) :=
  mk op fn g 0 0 (idx d) (src a) (src b) 0 (w01 m (imm b))

/-- A source A that an immediate replaces, with A zero then (R115). -/
def aOr : Src → BitVec 8
  | .imm _ => 0
  | o => src o
def bOr : Src → BitVec 8
  | .imm _ => 0xFE
  | _ => 0
def srcAI (op : BitVec 8) (fn : BitVec 4) (g : Guard) (d : BitVec 8) (a : Src) :=
  mk op fn g 0 0 d (aOr a) (bOr a) 0 (w01 0 (imm a))

/-- The guard alone. -/
def bare (op : BitVec 8) (g : Guard) := mk op 0 g 0 0 0 0 0 0 0

/-- F3 forms on a line operand and on an address operand. -/
def f3 (op : BitVec 8) (fn : BitVec 4) (g : Guard) (la : Fin 16) (fl : BitVec 4) (d : BitVec 8) (l : LOp) (c : BitVec 8)
    (sc : Scope) (sm : BitVec 2) := mk op fn g la fl d (ln l.ln) (src l.b) c (w3 l.off (scope sc) sm)
def f3a (op : BitVec 8) (fn : BitVec 4) (g : Guard) (la : Fin 16) (d : BitVec 8) (a : AOp) (c : BitVec 8)
    (sc : Scope) (sm : BitVec 2) := mk op fn g la 0 d (src a.a) (src a.b) c (w3 a.off (scope sc) sm)
/-- An F3 word that names a line with no offset. -/
def f3l (op : BitVec 8) (fn : BitVec 4) (g : Guard) (la : Fin 16) (fl : BitVec 4) (d : BitVec 8) (l : Fin 16)
    (c : BitVec 8) := mk op fn g la fl d (ln l) 0xF0 c 0

/-- SEM of an instruction with one release or acquire form. -/
def semIf (b : Bool) (n : BitVec 2) : BitVec 2 := if b then n else 0

/-- The fields of an instruction's word; a step of the device has none. -/
def raw : Instr → Option Raw
  | .nop => mk 0x00 0 ⟨false, 0⟩ 0 0 0 0 0 0 0
  | .bra g u slot toff => mk 0x01 0 g 0 (bit u) 0 0 0 0 (w2 slot toff)
  | .brx g u a => mk 0x02 0 g 0 (bit u) 0 (src a) 0 0 0
  | .call g u d slot toff => mk 0x03 0 g 0 (bit u) (dst d) 0 0 0 (w2 slot toff)
  | .ret g u a => mk 0x04 0 g 0 (bit u) 0 (src a) 0 0 0
  | .exit g => bare 0x05 g
  | .yield g => bare 0x06 g
  | .poll g cmp acq sc d l c => f3 0x07 (poll cmp) g 0 0 (dst d) l (src c) sc (semIf acq 1)
  | .lwait g d l c => f3l 0x08 0 g 0 0 (dst d) l (src c)
  | .enrol g rj => mk 0x09 0 g 0 0 (idx rj) 0 0 0 0
  | .park g rj => mk 0x0A 0 g 0 0 (idx rj) 0 0 0 0
  | .strike g rj => mk 0x0B 0 g 0 0 (idx rj) 0 0 0 0
  | .brk g num => mk 0x0C 0 g 0 0 0 0 0 0 (w5 num 0 0 0)
  | .iadd g uns sat d a b => dab 0x10 (bit uns) g 0 (bit sat) 0 d a b
  | .isub g uns sat d a b => dab 0x11 (bit uns) g 0 (bit sat) 0 d a b
  | .imul g uns sat d a b => dab 0x12 (bit uns) g 0 (bit sat) 0 d a b
  | .imulh g uns d a b => dab 0x13 (bit uns) g 0 0 0 d a b
  | .imad g uns sat d a b c => dabc 0x14 (bit uns) g (bit sat) 0 d a b c
  | .imin g uns d a b => dab 0x15 (bit uns) g 0 0 0 d a b
  | .imax g uns d a b => dab 0x16 (bit uns) g 0 0 0 d a b
  | .iabs g sat d a => da 0x17 0 g 0 (bit sat) 0 d a
  | .iadd64 g uns sat d a b => dab 0x18 (bit uns) g 0 (bit sat) 0 d a b
  | .imad64 g uns sat d a b c => dabc 0x19 (bit uns) g (bit sat) 0 d a b c
  | .lea g zext sh d a b => dab 0x1A (bit1 zext ++ (BitVec.ofFin sh : BitVec 3)) g 0 0 0 d a b
  | .sel g d a b c => mk 0x1B 0 g 0 0 (dst d) (src a) (src b) (idx c) (w01 0 (imm b))
  | .icmp g rel d a b => pab 0x1C (irel rel) g 0 d a b
  | .idiv g la uns sat d a b => dab 0x1D (bit uns) g la (bit sat) 0 d a b
  | .irem g la uns d a b => dab 0x1E (bit uns) g la 0 0 d a b
  | .and g d a b => dab 0x20 0 g 0 0 0 d a b
  | .or g d a b => dab 0x21 0 g 0 0 0 d a b
  | .xor g d a b => dab 0x22 0 g 0 0 0 d a b
  | .shl g d a b => dab 0x23 0 g 0 0 0 d a b
  | .shr g d a b => dab 0x24 0 g 0 0 0 d a b
  | .sar g d a b => dab 0x25 0 g 0 0 0 d a b
  | .rot g right d a b => dab 0x26 (bit right) g 0 0 0 d a b
  | .popc g d a => da 0x27 0 g 0 0 0 d a
  | .clz g d a => da 0x28 0 g 0 0 0 d a
  | .brev g d a => da 0x29 0 g 0 0 0 d a
  | .bfe g uns d a b => dab 0x2A (bit uns) g 0 0 0 d a b
  | .bfi g d a b c => dabc 0x2B 0 g 0 0 d a b c
  | .mov g wide d a => srcAI 0x2C (bit wide) g (dst d) a
  | .plop g op d a b => mk 0x2D (plop op) g 0 0 (idx d) (idx a) (idx b) 0 0
  | .pmov g (.mask d p) => mk 0x2E 0 g 0 0 (dst d) (idx p) 0 0 0
  | .pmov g (.set p a) => srcAI 0x2E 1 g (idx p) a
  | .pmov g (.nz p a) => srcAI 0x2E 2 g (idx p) a
  | .movsr g d sr => mk 0x2F 0 g 0 0 (dst d) 0 0 0 (w5 0 (sreg sr) 0 0)
  | .vote g (.every d) a => mk 0x30 0 g 0 0 (idx d) (idx a) 0 0 0
  | .vote g (.some d) a => mk 0x30 1 g 0 0 (idx d) (idx a) 0 0 0
  | .vote g (.same d) a => mk 0x30 2 g 0 0 (idx d) (idx a) 0 0 0
  | .vote g (.lanes d) a => mk 0x30 3 g 0 0 (dst d) (idx a) 0 0 0
  | .vote g (.count d) a => mk 0x30 4 g 0 0 (dst d) (idx a) 0 0 0
  | .vote g (.first d) a => mk 0x30 5 g 0 0 (dst d) (idx a) 0 0 0
  | .shfl g mode d a b => dab 0x31 (shfl mode) g 0 0 0 d a b
  | .redg g op r d a => da 0x32 (redg op) g 0 0 (0#5 ++ rm r) d a
  | .scan g op none r d a => mk 0x33 (0#1 ++ scan op) g 0 0 (dst d) (src a) 0 0 (w01 (0#5 ++ rm r) 0)
  | .scan g op (some p) r d a => mk 0x33 (1#1 ++ scan op) g 0 0 (dst d) (src a) 0 (idx p) (w01 (0#5 ++ rm r) 0)
  | .part g b => mk 0x34 0 g 0 0 0 0 (src b) 0 (w01 0 (imm b))
  | .matchLanes g wide d a b => dab 0x35 (bit wide) g 0 0 0 d a b
  | .compact g d a b c => mk 0x36 0 g 0 0 (dst d) (src a) (src b) (idx c) (w01 0 (imm b))
  | .regrp g d a b => mk 0x37 0 g 0 0 (dst d) (src a) (src b) 0 0
  | .fadd g m d a b => dab 0x40 0 g 0 0 (fmod m) d a b
  | .fmul g m d a b => dab 0x41 0 g 0 0 (fmod m) d a b
  | .ffma g m d a b c => dabc 0x42 0 g 0 (fmod m) d a b c
  | .fmin g m d a b => dab 0x43 0 g 0 0 (fmod m) d a b
  | .fmax g m d a b => dab 0x44 0 g 0 0 (fmod m) d a b
  | .fcmp g rel m d a b => pab 0x45 (frel rel) g (fmod m) d a b
  | .frnd g m d a => da 0x46 0 g 0 0 (fmod m) d a
  | .hadd2 g bf m d a b => dab 0x48 (bit bf) g 0 0 (fmod m) d a b
  | .hmul2 g bf m d a b => dab 0x49 (bit bf) g 0 0 (fmod m) d a b
  | .hfma2 g bf m d a b c => dabc 0x4A (bit bf) g 0 (fmod m) d a b c
  | .dadd g m d a b => dab 0x50 0 g 0 0 (fmod m) d a b
  | .dmul g m d a b => dab 0x51 0 g 0 0 (fmod m) d a b
  | .dfma g m d a b c => dabc 0x52 0 g 0 (fmod m) d a b c
  | .dmin g m d a b => dab 0x53 0 g 0 0 (fmod m) d a b
  | .dmax g m d a b => dab 0x54 0 g 0 0 (fmod m) d a b
  | .dcmp g rel m d a b => pab 0x55 (frel rel) g (fmod m) d a b
  | .fcvt g op m d a => da 0x56 (cvt op) g 0 0 (fmod m) d a
  | .rcp g la neg abs d a => da 0x60 0 g la 0 (negAbs neg abs) d a
  | .rsq g la neg abs d a => da 0x61 0 g la 0 (negAbs neg abs) d a
  | .sqrt g la neg abs d a => da 0x62 0 g la 0 (negAbs neg abs) d a
  | .ex2 g la neg abs d a => da 0x63 0 g la 0 (negAbs neg abs) d a
  | .lg2 g la neg abs d a => da 0x64 0 g la 0 (negAbs neg abs) d a
  | .sin g la neg abs d a => da 0x65 0 g la 0 (negAbs neg abs) d a
  | .cos g la neg abs d a => da 0x66 0 g la 0 (negAbs neg abs) d a
  | .tanh g la neg abs d a => da 0x67 0 g la 0 (negAbs neg abs) d a
  | .tblev g la d a b c => mk 0x68 0 g la 0 (dst d) (src a) (src b) (src c) 0
  | .tblsw g => bare 0x69 g
  | .drcp g la neg abs d a => da 0x6A 0 g la 0 (negAbs neg abs) d a
  | .dsqrt g la neg abs d a => da 0x6B 0 g la 0 (negAbs neg abs) d a
  | .qnt g cl r d a b tid => mk 0x70 (bit cl) g 0 0 (dst d) (src a) (src b) 0 (w4 tid 0 0 0 0 (rm r))
  | .dqnt g d a b tid => mk 0x71 0 g 0 0 (dst d) (src a) (src b) 0 (w4 tid 0 0 0 0 0)
  | .bscale g d a b tid => mk 0x72 0 g 0 0 (dst d) (src a) (src b) 0 (w4 tid 0 0 0 0 0)
  | .cvtf g frm r d a tid => mk 0x73 (bit frm) g 0 0 (dst d) (src a) 0 0 (w4 tid 0 0 0 0 (rm r))
  | .pack6 g d a => da 0x74 0 g 0 0 0 d a
  | .unpk6 g sgn d a => da 0x75 (bit sgn) g 0 0 0 d a
  | .pack4 g d a => da 0x76 0 g 0 0 0 d a
  | .unpk4 g sgn d a => da 0x77 (bit sgn) g 0 0 0 d a
  | .smooth g d a b tid => mk 0x78 0 g 0 0 (dst d) (src a) (src b) 0 (w4 tid 0 0 0 0 0)
  | .openLine g m u d l c =>
    f3 0x80 (match m with | .read => 0 | .write => 1 | .rw => 2) g 0 (bit u) (idx d) l (src c) .group 0
  | .openReopen g l => f3l 0x80 3 g 0 0 0 l 0
  | .opens g u d l => f3 0x81 0 g 0 (bit u) (idx d) l 0 .group 0
  | .close g l => f3l 0x82 0 g 0 0 0 l 0
  | .ld g la z acq sc d l => f3 0x83 (size z) g la 0 (dst d) l 0 sc (semIf acq 1)
  | .st g z rel sc l c => f3 0x84 (size z) g 0 0 0 l (src c) sc (semIf rel 2)
  | .flush g l => f3l 0x85 0 g 0 0 0 l 0
  | .linfo g la d l => f3l 0x86 0 g la 0 (dst d) l 0
  | .llk g la wide d l => f3 0x87 (if wide then 3 else 2) g la 0 (dst d) l 0 .group 0
  | .sul g wide l c => f3 0x88 (if wide then 3 else 2) g 0 0 0 l (src c) .group 0
  | .amo g la op sm sc d a c => f3a 0x89 (far op) g la (dst d) a (src c) sc (sem sm)
  | .red g op rel sc a c => f3a 0x8A (far op) g 0 0 a (src c) sc (semIf rel 2)
  | .scat g op rel sc a c => f3a 0x8B (far op) g 0 0 a (src c) sc (semIf rel 2)
  | .cmcast g none l c => f3 0x8C 0 g 0 0 0 l (src c) .group 0
  | .cmcast g (some t) l c => f3 0x8C 1 g 0 0 (uni t) l (src c) .group 0
  | .mst g z rel sc l c => f3 0x8D (size z) g 0 0 0 l (src c) sc (semIf rel 2)
  | .fence g sm p sc => mk 0x90 (fenceSem sm) g 0 0 0 0 0 0 (w4 0 0 (path p) 0 (scope sc) 0)
  | .xfence g pa pb sc => mk 0x91 0 g 0 0 0 0 0 0 (w4 0 0 (path pa) (path pb) (scope sc) 0)
  | .afence g => bare 0x92 g
  | .bar g sc => mk 0x93 0 g 0 0 0 0 0 0 (w4 0 0 0 0 (scope sc) 0)
  | .bara g op sc a => mk 0x94 (bar op) g 0 0 0 (src a) 0 0 (w4 0 0 0 0 (scope sc) 0)
  | .barw g sc d => mk 0x95 0 g 0 0 (dst d) 0 0 0 (w4 0 0 0 0 (scope sc) 0)
  | .sbinit g l c => f3 0x96 0 g 0 0 0 l (src c) .group 0
  | .sbexp g l c => f3 0x97 0 g 0 0 0 l (src c) .group 0
  | .sbarv g l c => f3 0x98 0 g 0 0 0 l (src c) .group 0
  | .sbwait g d l c => f3 0x99 0 g 0 0 (dst d) l (src c) .group 0
  | .cjoin g d a b => mk 0x9A 0 g 0 0 (dst d) (src a) (src b) 0 0
  | .cleave g => bare 0x9B g
  | .cpy g tg tag a b c => mk 0xA0 (bit tg) g 0 0 0 (src a) (src b) (src c) (w4 0 (BitVec.ofFin tag) 0 0 0 0)
  | .cpwait g tag => mk 0xA1 0 g 0 0 0 0 0 0 (w4 0 (BitVec.ofFin tag) 0 0 0 0)
  | .kick g d a c => mk 0xA2 0 g 0 0 (dst d) (src a) 0 (src c) 0
  | .gthr g d a b c tid => mk 0xA3 0 g 0 0 (dst d) (src a) (src b) (src c) (w4 tid 0 0 0 0 0)
  | .emb g d a tid => mk 0xA4 0 g 0 0 (dst d) (src a) 0 0 (w4 tid 0 0 0 0 0)
  | .cpstBt g la tag d => mk 0xA5 0 g la 0 (dst d) 0 0 0 (w4 0 (BitVec.ofFin tag) 0 0 0 0)
  | .cpstTkt g la d a => mk 0xA5 1 g la 0 (dst d) (src a) 0 0 0
  | .mma g la r cv d a b c tid =>
    mk 0xB0 (0#2 ++ (BitVec.ofFin cv : BitVec 2)) g la (bit r) (idx d) (vec a) (uni b) (uni c) (w4 tid 0 0 0 0 0)
  | .mmas g la r cv n d a b c tid =>
    mk 0xB1 (sparsity n ++ (BitVec.ofFin cv : BitVec 2)) g la (bit r) (idx d) (vec a) (uni b) (uni c) (w4 tid 0 0 0 0 0)
  | .maccZero g la d => mk 0xB2 0 g la 0 (idx d) 0 0 0 0
  | .maccInit g la d => mk 0xB2 1 g la 0 (idx d) 0 0 0 0
  | .maccMov g la d a => mk 0xB2 2 g la 0 (idx d) (idx a) 0 0 0
  | .maccRd g la d a b => mk 0xB2 3 g la 0 (vec d) (idx a) (src b) 0 0
  | .maccWr g la d a b => mk 0xB2 4 g la 0 (idx d) (vec a) (src b) 0 0
  | .maccRdst g la d a => mk 0xB2 5 g la 0 (vec d) (idx a) 0 0 0
  | .maccWrst g la d a => mk 0xB2 6 g la 0 (idx d) (vec a) 0 0 0
  | .maccDecl g la d => mk 0xB2 7 g la 0 (idx d) 0 0 0 0
  | .mrel g => bare 0xB3 g
  | .smax g la d a => mk 0xB4 0 g la 0 (idx d) (idx a) 0 0 0
  | .sexp g la none d a => mk 0xB5 0 g la 0 (idx d) (idx a) 0 0 0
  | .sexp g la (some t) d a => mk 0xB5 1 g la 0 (idx d) (idx a) 0 0 (w4 t 0 0 0 0 0)
  | .smerge g la d a => mk 0xB6 0 g la 0 (idx d) (idx a) 0 0 0
  | .cred g la d => mk 0xB7 0 g la 0 (idx d) 0 0 0 0
  | .tdone g a => mk 0xC0 0 g 0 0 0 (src a) 0 0 0
  | .gcond g op num a => mk 0xC1 (cond op) g 0 0 0 (src a) 0 0 (w5 num 0 0 0)
  | .gsig g num => mk 0xC2 0 g 0 0 0 0 0 0 (w5 num 0 0 0)
  | .kvopen g rw u d l c => f3l 0xD0 (bit rw) g 0 (bit u) (idx d) l (src c)
  | .kvfill g d a b c tid => mk 0xD1 0 g 0 0 (dst d) (src a) (src b) (src c) (w4 tid 0 0 0 0 0)
  | .kvmap g la d a b => mk 0xD2 0 g la 0 (vec d) (src a) (src b) 0 (w5 0 0 0 1)
  | .kvfork g la d a b => mk 0xD3 0 g la 0 (vec d) (src a) (src b) 0 (w5 0 0 0 1)
  | .kvdrop g la d a => mk 0xD4 0 g la 0 (vec d) (src a) 0 0 (w5 0 0 0 1)
  | .gcall g d num => mk 0xE0 0 g 0 0 (dst d) 0 0 0 (w5 num 0 0 0)
  | .gret g a => mk 0xE1 0 g 0 0 0 (src a) 0 0 (w5 0 0 0 1)
  | .trap g num => mk 0xE2 0 g 0 0 0 0 0 0 (w5 num 0 0 0)
  | .eret g r => mk 0xE3 0 g 0 (bit r) 0 0 0 0 (w5 0 0 0 1)
  | .setsr g sr a => mk 0xE4 0 g 0 0 0 (src a) 0 0 (w5 0 (sreg sr) 0 (bit1 (Decode.privSReg sr)))
  | .setsrAmask g a => mk 0xE4 0 g 0 0 0 (src a) 0 0 (w5 0 0x13 0 1)
  | .setsrLpc g a => mk 0xE4 0 g 0 0 0 (src a) 0 0 (w5 0 0x14 0 1)
  | .dmrbeg g d => mk 0xE5 0 g 0 0 (dst d) 0 0 0 0
  | .dmrend g => bare 0xE6 g
  | .rgn g region => mk 0xE7 0 g 0 0 0 0 0 0 (w5 0 0 region 0)
  | .halt g => mk 0xE8 0 g 0 0 0 0 0 0 (w5 0 0 0 1)
  | .tlbinv g (.asid a) => mk 0xE9 0 g 0 0 0 (src a) 0 0 (w5 0 0 0 1)
  | .tlbinv g (.page a b) => mk 0xE9 1 g 0 0 0 (src a) (src b) 0 (w5 0 0 0 1)
  | .tlbinv g .all => mk 0xE9 2 g 0 0 0 0 0 0 (w5 0 0 0 1)
  | .recall g (.va a b) => mk 0xEA 0 g 0 0 0 (src a) (src b) 0 (w5 0 0 0 1)
  | .recall g (.pa b) => mk 0xEA 1 g 0 0 0 0 (src b) 0 (w5 0 0 0 1)
  | .pollRetry _ | .lwaitWake _ _ | .lineFetchLands _ | .amoPerformed _ _ | .frUpdateMerge _ _
  | .cmcastLanding _ _ | .cmcastTimedPresence _ _ | .barrierArrival _ _ _ | .barrierRelease _ _ _ _ _
  | .embExchange _ _ _ | .commandServiceStart _ _ | .engineUnitLands _ _ _ _ | .credContribution _ _
  | .gateAbort _ _ _ | .compareRecord _ _ | .fetchLine _ _ | .issueGrant _ _ | .longLatencyWriteback _ _
  | .trapEntry _ | .pageWalk _ _ | .kvWalk _ _ | .faultRecord _ _ _ _ | .faultResponse _ _
  | .departureApplied _ _ | .checkpointTaken _ | .checkpointSafe _ _ | .lehrAgeTimeout _ _ | .strikeReport _
  | .rollback _ | .memoryUncorrectable _ _ | .flitCrcError _ _ | .planeFailure _ | .launchSubmit _
  | .teamAdmission _ _ | .timedLaunchStart _ | .teamEnd _ | .taskDeal _ _ | .waveFormation _
  | .stealRequest _ _ | .stealRetry _ | .graphSubmit _ | .nodeCompletion _ _ | .gcondUpdate _ _ _ _
  | .gsigArrival _ _ | .queueDoorbell _ _ _ | .queueEntry _ _ | .hostBar2Access _ _ _ _ _
  | .configWrite _ _ | .collectiveSubmit _ _ _ | .collectiveChunk _ _ _ _ | .egressFlit _ _ _
  | .packageReset _ _ _ | .attestationRequest _ | .keyLoad _ | .powerClamp _ | .thermalLimit _ _
  | .managementAccess _ _ _ | .debugResume _ _ _ | .preemptRequest _ _ | .drainTimeout _ | .saveRequest _
  | .saveSpill _ | .restoreRequest _ _ | .restoreLoad _ | .hostLinkTraining _ _ => none

end Encode

/-- The word of a well-formed instruction (R46-R66); a step of the device has none. -/
def encode (i : Instr) : Option SlotWord := (Encode.raw i).map Raw.toWord

end Sys2Proof
end

