-- ==== Sys2Proof/Machine/Fp.lean ====
section
/-!
DEFINITION. Floating-point values as exact dyadic numbers, the rounding of R95 and the helpers of R106 (04 R88-R107), the
narrow formats and block scales (R91-R99).
-/

namespace Sys2Proof.Machine

/-- The five flags of FSTAT (R103): NV, DZ, OF, UF, NX from bit 0. -/
abbrev Flags := BitVec 5

def Flags.nv : Flags := 1
def Flags.dz : Flags := 2
def Flags.of : Flags := 4
def Flags.uf : Flags := 8
def Flags.nx : Flags := 16
def Flags.when (b : Bool) (f : Flags) : Flags := if b then f else 0

/-- An exact value: (-1)^neg * m * 2^e, an infinity, or a NaN that is signalling when sig. -/
inductive FVal where
  | nan (sig : Bool)
  | inf (neg : Bool)
  | fin (neg : Bool) (m : Nat) (e : Int)
  deriving DecidableEq, Repr

/-- An interchange format: exponent bits and fraction bits (R88). -/
structure Fmt where
  eb : Nat
  mb : Nat
  deriving DecidableEq, Repr

def f64 : Fmt := ⟨11, 52⟩
def f32 : Fmt := ⟨8, 23⟩
def f16 : Fmt := ⟨5, 10⟩
def bf16 : Fmt := ⟨8, 7⟩

/-- Bits of a format. -/
def Fmt.width (f : Fmt) : Nat := 1 + f.eb + f.mb
def Fmt.bias (f : Fmt) : Nat := 2 ^ (f.eb - 1) - 1
/-- The exponent of the subnormal step. -/
def Fmt.emin (f : Fmt) : Int := 1 - (f.bias : Int) - f.mb
def Fmt.infBits (f : Fmt) : Nat := (2 ^ f.eb - 1) * 2 ^ f.mb
def Fmt.signBit (f : Fmt) : Nat := 2 ^ (f.eb + f.mb)
/-- The canonical NaN (R88). -/
def Fmt.qnan (f : Fmt) : Nat := f.infBits + 2 ^ (f.mb - 1)
/-- The largest finite value, without its sign. -/
def Fmt.maxBits (f : Fmt) : Nat := f.infBits - 1

/-- The value of bits in a format (R88, R89). -/
def Fmt.value (f : Fmt) (x : Nat) : FVal :=
  let neg := x.testBit (f.eb + f.mb)
  let e := x / 2 ^ f.mb % 2 ^ f.eb
  let m := x % 2 ^ f.mb
  if e = 2 ^ f.eb - 1 then
    if m = 0 then .inf neg else .nan (!m.testBit (f.mb - 1))
  else if e = 0 then .fin neg m f.emin
  else .fin neg (2 ^ f.mb + m) (f.emin + (e - 1 : Nat))

def FVal.isNan : FVal → Bool
  | .nan _ => true
  | _ => false

def FVal.isSig : FVal → Bool
  | .nan s => s
  | _ => false

def FVal.isInf : FVal → Bool
  | .inf _ => true
  | _ => false

def FVal.isZero : FVal → Bool
  | .fin _ 0 _ => true
  | _ => false

def FVal.sign : FVal → Bool
  | .nan _ => false
  | .inf n => n
  | .fin n _ _ => n

def FVal.abs : FVal → FVal
  | .nan s => .nan s
  | .inf _ => .inf false
  | .fin _ m e => .fin false m e

def FVal.negate : FVal → FVal
  | .nan s => .nan s
  | .inf n => .inf (!n)
  | .fin n m e => .fin (!n) m e

/-- An integer as a value. -/
def FVal.ofInt (x : Int) : FVal := .fin (decide (x < 0)) x.natAbs 0

/-- m * 2^k for k of either sign, rounded down. -/
def shiftBy (m : Nat) (k : Int) : Nat := if 0 ≤ k then m * 2 ^ k.toNat else m / 2 ^ (-k).toNat

/-- The value of a finite number in units of 2^e, where e is at most its own exponent. -/
def FVal.units (e : Int) : FVal → Int
  | .fin n m x => let k : Int := (m * 2 ^ (x - e).toNat : Nat); if n then -k else k
  | _ => 0

/-- The least exponent of the nonzero terms. -/
def minExp : List FVal → Option Int
  | [] => none
  | .fin _ m e :: ts =>
    if m = 0 then minExp ts
    else match minExp ts with
      | none => some e
      | some x => some (min e x)
  | _ :: ts => minExp ts

/-- The exact product; the flag is that of 0 times infinity (R106). -/
def exactMul (a b : FVal) : FVal × Flags :=
  match a, b with
  | .nan s, .nan t => (.nan (s || t), 0)
  | .nan s, _ => (.nan s, 0)
  | _, .nan t => (.nan t, 0)
  | .inf n, .inf k => (.inf (n != k), 0)
  | .inf n, .fin k m _ => if m = 0 then (.nan false, Flags.nv) else (.inf (n != k), 0)
  | .fin n m _, .inf k => if m = 0 then (.nan false, Flags.nv) else (.inf (n != k), 0)
  | .fin n m x, .fin k l y => (.fin (n != k) (m * l) (x + y), 0)

/-- The exact sum of R106; rd when the rounding that follows is RD. -/
def exactSum (rd : Bool) (ts : List FVal) : FVal × Flags :=
  let both := ts.any (fun t => t == .inf false) && ts.any (fun t => t == .inf true)
  let nv := Flags.when (both || ts.any FVal.isSig) Flags.nv
  if both || ts.any FVal.isNan then (.nan false, nv)
  else match ts.find? FVal.isInf with
    | some t => (t, nv)
    | none =>
      match minExp ts with
      | none =>
        let neg := (!ts.isEmpty && ts.all FVal.sign) || (rd && !ts.all (fun t => !t.sign))
        (.fin neg 0 0, nv)
      | some e =>
        let s := (ts.map (FVal.units e)).sum
        if s = 0 then (.fin rd 0 0, nv) else (.fin (decide (s < 0)) s.natAbs e, nv)

/-- Which of two neighbours rounding takes: whether to step the magnitude up. `lsb` is the lower neighbour's last bit,
`num / den` the fraction of the step above it, `more` that a further positive part lies below that. -/
def roundUp (rm : Rm) (r : Nat) (neg : Bool) (lsb : Bool) (num den : Nat) (more : Bool) : Bool :=
  let exact := num = 0 ∧ more = false
  if exact then false
  else match rm with
    | .rn => decide (den < 2 * num) || (decide (2 * num = den) && (more || lsb))
    | .rz => false
    | .ru => !neg
    | .rd => neg
    | .rna => decide (den ≤ 2 * num)
    | .sr => if neg then !decide (r < (den - num) * 2 ^ 24 / den) else decide (r < num * 2 ^ 24 / den)

/-- A magnitude in units of 2^q, and whether it differs from the exact one. -/
structure Rounded where
  n : Nat
  q : Int
  inexact : Bool

/-- Rounds m * 2^e (with a further positive part when `more`) to a multiple of 2^q. A tie goes to the even multiple; in a format
without fraction bits, where two neighbouring powers of two both have an odd significand, that is the larger one (R95 names none;
DESIGN CHOICE, log 41). -/
def roundAt (rm : Rm) (r : Nat) (neg : Bool) (m : Nat) (e q : Int) (more : Bool) : Rounded :=
  if q ≤ e then
    let n := m * 2 ^ (e - q).toNat
    ⟨if roundUp rm r neg (n.testBit 0) 0 1 more then n + 1 else n, q, more⟩
  else
    let den := 2 ^ (q - e).toNat
    let n := m / den
    let num := m % den
    ⟨if roundUp rm r neg (n.testBit 0) num den more then n + 1 else n, q, decide (num ≠ 0) || more⟩

/-- The number of bits of a magnitude. -/
def bitLen (m : Nat) : Nat := if m = 0 then 0 else Nat.log2 m + 1

/-- Whether rounding to precision p with an unbounded exponent range stays below 2^x (R90). -/
def tiny (rm : Rm) (r : Nat) (neg : Bool) (m : Nat) (e : Int) (p : Nat) (x : Int) (more : Bool) : Bool :=
  let q := e + bitLen m - p
  let y := roundAt rm r neg m e q more
  decide ((bitLen y.n : Int) + y.q ≤ x)

/-- Overflow sends this mode and sign to infinity (R95). -/
def toInf (rm : Rm) (neg : Bool) : Bool :=
  match rm with
  | .rn | .rna | .sr => true
  | .rz => false
  | .ru => !neg
  | .rd => neg

/-- Rounds a finite value to a format (R90, R95): the bits and the flags. -/
def roundFin (f : Fmt) (rm : Rm) (sat : Bool) (neg : Bool) (m : Nat) (e : Int) (more : Bool) : Nat × Flags :=
  let sb := if neg then f.signBit else 0
  if m = 0 ∧ more = false then (sb, 0)
  else
    let q := max f.emin (e + bitLen m - (f.mb + 1))
    let y := roundAt rm 0 neg m e q more
    let bits := (q - f.emin).toNat * 2 ^ f.mb + y.n
    if f.infBits ≤ bits then
      (sb + (if toInf rm neg && !sat then f.infBits else f.maxBits), Flags.of ||| Flags.nx)
    else
      let uf := y.inexact && tiny rm 0 neg m e (f.mb + 1) (f.emin + f.mb) more
      (sb + bits, Flags.when y.inexact Flags.nx ||| Flags.when uf Flags.uf)

/-- roundFP64, roundFP32, roundF16 and roundBF16 (R106): the bits and the flags. -/
def roundTo (f : Fmt) (rm : Rm) (sat : Bool) : FVal → Nat × Flags
  | .nan s => (f.qnan, Flags.when s Flags.nv)
  | .inf n => ((if n then f.signBit else 0) + f.infBits, 0)
  | .fin n m e => roundFin f rm sat n m e false

/-- Rounds after an operation that has raised flags of its own. -/
def roundWith (f : Fmt) (rm : Rm) (sat : Bool) (x : FVal × Flags) : Nat × Flags :=
  let y := roundTo f rm sat x.1
  (y.1, y.2 ||| x.2)

/-! ## Operations on bits -/

/-- ABS then negation of a source (R52, R89). -/
def Fmt.modSrc (f : Fmt) (abs neg : Bool) (x : Nat) : Nat :=
  let y := if abs then x % f.signBit else x
  if neg then y ^^^ f.signBit else y

def isRd : Rm → Bool
  | .rd => true
  | _ => false

/-- The sum of two bit patterns, rounded (R118). -/
def fpAdd (f : Fmt) (rm : Rm) (sat : Bool) (a b : Nat) : Nat × Flags :=
  roundWith f rm sat (exactSum (isRd rm) [f.value a, f.value b])

/-- NV of a signalling NaN among operands. -/
def sigFlags (xs : List FVal) : Flags := Flags.when (xs.any FVal.isSig) Flags.nv

/-- The product, rounded (R118). -/
def fpMul (f : Fmt) (rm : Rm) (sat : Bool) (a b : Nat) : Nat × Flags :=
  let p := exactMul (f.value a) (f.value b)
  roundWith f rm sat p

/-- a * b + c with one rounding (R118). -/
def fpFma (f : Fmt) (rm : Rm) (sat : Bool) (a b c : Nat) : Nat × Flags :=
  let p := exactMul (f.value a) (f.value b)
  let s := exactSum (isRd rm) [p.1, f.value c]
  roundWith f rm sat (s.1, s.2 ||| p.2)

/-- The exact quotient of finite values, b nonzero, with extra bits: magnitude, exponent, whether more follows. -/
def quotient (prec : Nat) (m : Nat) (e : Int) (l : Nat) (k : Int) : Nat × Int × Bool :=
  let sh := prec + bitLen l
  ((m * 2 ^ sh) / l, e - k - sh, decide ((m * 2 ^ sh) % l ≠ 0))

/-- a / b rounded once, by the IEEE rules of R89, R95 and R103. -/
def fpDiv (f : Fmt) (rm : Rm) (a b : FVal) : Nat × Flags :=
  match a, b with
  | .nan s, .nan t => (f.qnan, Flags.when (s || t) Flags.nv)
  | .nan s, _ => (f.qnan, Flags.when s Flags.nv)
  | _, .nan t => (f.qnan, Flags.when t Flags.nv)
  | .inf _, .inf _ => (f.qnan, Flags.nv)
  | .inf n, .fin k _ _ => roundTo f rm false (.inf (n != k))
  | .fin n _ _, .inf k => roundTo f rm false (.fin (n != k) 0 0)
  | .fin n m e, .fin k l x =>
    if l = 0 then
      if m = 0 then (f.qnan, Flags.nv)
      else ((roundTo f rm false (.inf (n != k))).1, Flags.dz)
    else
      let q := quotient (f.mb + 4) m e l x
      roundFin f rm false (n != k) q.1 q.2.1 q.2.2

/-- Compares finite or infinite values: negative, zero or positive difference. -/
def FVal.cmp (a b : FVal) : Int :=
  match a, b with
  | .nan _, _ => 0
  | _, .nan _ => 0
  | .inf n, .inf k => if n = k then 0 else if n then -1 else 1
  | .inf n, .fin _ _ _ => if n then -1 else 1
  | .fin _ _ _, .inf k => if k then 1 else -1
  | a, b =>
    match minExp [a, b] with
    | none => 0
    | some e => FVal.units e a - FVal.units e b

/-- The relations of FCMP and DCMP, and their flag (R120). -/
def fpCmp (f : Fmt) (rel : FRel) (x y : Nat) : Bool × Flags :=
  let a := f.value x
  let b := f.value y
  let anyNan := a.isNan || b.isNan
  let sig := a.isSig || b.isSig
  let c := FVal.cmp a b
  match rel with
  | .eq => (!anyNan && decide (c = 0), Flags.when sig Flags.nv)
  | .ne => (anyNan || decide (c ≠ 0), Flags.when sig Flags.nv)
  | .lt => (!anyNan && decide (c < 0), Flags.when anyNan Flags.nv)
  | .le => (!anyNan && decide (c ≤ 0), Flags.when anyNan Flags.nv)
  | .gt => (!anyNan && decide (0 < c), Flags.when anyNan Flags.nv)
  | .ge => (!anyNan && decide (0 ≤ c), Flags.when anyNan Flags.nv)
  | .num => (!anyNan, Flags.when sig Flags.nv)
  | .nan => (anyNan, Flags.when sig Flags.nv)

/-- Whether a is less than b with -0 below +0 (R119). -/
def fpLess (a b : FVal) : Bool :=
  let c := FVal.cmp a b
  decide (c < 0) || (decide (c = 0) && a.isZero && b.isZero && a.sign && !b.sign)

/-- FMIN and FMAX (R119). -/
def fpMinMax (f : Fmt) (max : Bool) (x y : Nat) : Nat × Flags :=
  let a := f.value x
  let b := f.value y
  let fl := Flags.when (a.isSig || b.isSig) Flags.nv
  if a.isNan && b.isNan then (f.qnan, fl)
  else if a.isNan then (y, fl)
  else if b.isNan then (x, fl)
  else if max then (if fpLess a b then y else x, fl) else (if fpLess b a then y else x, fl)

/-- A value rounded to an integer on the grid of all integers; infinities and NaN have none (R121). -/
def FVal.toInt (rm : Rm) : FVal → Option (Int × Bool)
  | .fin n m e =>
    let y := roundAt rm 0 n m e 0 false
    some (if n then -(y.n : Int) else y.n, y.inexact)
  | _ => none

/-- FRND: an integral value of the format (R118). -/
def fpRound (f : Fmt) (rm : Rm) (x : Nat) : Nat × Flags :=
  match f.value x with
  | .nan s => (f.qnan, Flags.when s Flags.nv)
  | .inf _ => (x, 0)
  | .fin n m e =>
    let y := roundAt rm 0 n m e 0 false
    ((roundFin f rm false n y.n 0 false).1, 0)

/-- Conversion to an integer in lo to hi, saturated (R121): the integer and the flags. -/
def fpToInt (rm : Rm) (lo hi : Int) (a : FVal) : Int × Flags :=
  match a with
  | .nan _ => (0, Flags.nv)
  | .inf n => (if n then lo else hi, Flags.nv)
  | .fin n m e =>
    match FVal.toInt rm (.fin n m e) with
    | none => (0, Flags.nv)
    | some (y, inexact) =>
      if hi < y then (hi, Flags.nv) else if y < lo then (lo, Flags.nv) else (y, Flags.when inexact Flags.nx)

/-! ## Narrow formats -/

/-- A narrow-format descriptor (R91). -/
structure NFmt where
  sgn : Nat
  expw : Nat
  width : Nat
  bias : Int
  spec : Nat
  rsvd : Nat
  deriving DecidableEq, Repr

/-- The fields of a 24-bit descriptor. -/
def NFmt.of (x : Nat) : NFmt :=
  let b := x / 256 % 256
  { sgn := x % 2, expw := x / 2 % 8, width := x / 16 % 16, bias := if b < 128 then (b : Int) else (b : Int) - 256,
    spec := x / 65536 % 4, rsvd := x / 262144 % 64 }

def NFmt.man (f : NFmt) : Nat := f.width - f.sgn - f.expw
def NFmt.e1 (f : NFmt) : Nat := 2 ^ f.expw - 1

/-- Whether a descriptor is valid (R92). -/
def NFmt.valid (f : NFmt) : Bool :=
  decide (f.sgn + f.expw ≤ f.width) && decide (2 ≤ f.width) && decide (f.width ≤ 8) && f.rsvd == 0 &&
  (f.expw != 0 || f.spec == 0) &&
  (match f.spec with
   | 0 => true
   | 1 => decide (1 ≤ f.expw) && decide (2 ≤ f.expw + f.man)
   | 2 => decide (2 ≤ f.expw) && decide (1 ≤ f.man)
   | _ => false)

/-- narrowValue: the value of a code (R93). Every narrow NaN is quiet: R89 and R137 speak of signalling NaNs, and the spec says of no
narrow code that it is one (DEDUCED, log 48). -/
def NFmt.value (f : NFmt) (code : Nat) : FVal :=
  let c := code % 2 ^ f.width
  if f.expw = 0 then
    if f.sgn = 1 ∧ 2 ^ (f.width - 1) ≤ c then .fin true (2 ^ f.width - c) (-f.bias) else .fin false c (-f.bias)
  else
    let s := f.sgn = 1 ∧ 2 ^ (f.width - 1) ≤ c
    let m := c % 2 ^ f.man
    let e := c / 2 ^ f.man % 2 ^ f.expw
    if f.spec = 1 ∧ e = f.e1 ∧ m = 2 ^ f.man - 1 then .nan false
    else if f.spec = 2 ∧ e = f.e1 then if m = 0 then .inf (decide s) else .nan false
    else if e = 0 then .fin (decide s) m (1 - f.bias - f.man)
    else .fin (decide s) (2 ^ f.man + m) (e - f.bias - f.man)

/-- The code of the largest finite magnitude, without its sign (R93). -/
def NFmt.maxCode (f : NFmt) : Nat :=
  if f.expw = 0 then (if f.sgn = 1 then 2 ^ (f.width - 1) - 1 else 2 ^ f.width - 1)
  else match f.spec with
    | 0 => 2 ^ (f.expw + f.man) - 1
    | 1 => 2 ^ (f.expw + f.man) - 2
    | _ => f.e1 * 2 ^ f.man - 1

def NFmt.fmax (f : NFmt) : FVal := f.value f.maxCode

/-- The code with sign 0 and every other bit one. -/
def NFmt.qnan (f : NFmt) : Nat := 2 ^ (f.width - f.sgn) - 1

/-- A signed code from a magnitude code: two's complement in a fixed-point format. -/
def NFmt.signed (f : NFmt) (neg : Bool) (mag : Nat) : Nat :=
  if !neg || f.sgn = 0 then mag
  else if f.expw = 0 then (2 ^ f.width - mag) % 2 ^ f.width
  else 2 ^ (f.width - 1) + mag

/-- The finite case of R96: rounding on the format's grid; r is the stochastic draw. A fixed-point format clamps to
its integer range, the lowest code included (DEDUCED, log 5). -/
def NFmt.roundFin (f : NFmt) (rm : Rm) (r : Nat) (clamp neg : Bool) (m : Nat) (e : Int) (more : Bool) : Nat × Flags :=
  if m = 0 ∧ more = false then (if f.expw = 0 then 0 else f.signed neg 0, 0)
  else if f.expw = 0 then
    let y := roundAt rm r neg m e (-f.bias) more
    let top := if f.sgn = 1 ∧ neg = true then 2 ^ (f.width - 1) else f.maxCode
    if top < y.n then (f.signed neg top, Flags.of ||| Flags.nx)
    else (f.signed neg y.n, Flags.when y.inexact Flags.nx)
  else
    let emin : Int := 1 - f.bias - f.man
    let q := max emin (e + bitLen m - (f.man + 1))
    let y := roundAt rm r neg m e q more
    let code := (q - emin).toNat * 2 ^ f.man + y.n
    if f.maxCode < code then
      if f.spec = 2 && !clamp && toInf rm neg then (f.signed neg (f.e1 * 2 ^ f.man), Flags.of ||| Flags.nx)
      else (f.signed neg f.maxCode, Flags.of ||| Flags.nx)
    else
      let uf := y.inexact && tiny rm r neg m e (f.man + 1) (1 - f.bias) more
      (f.signed neg code, Flags.when y.inexact Flags.nx ||| Flags.when uf Flags.uf)

/-- roundNarrow (R96): the code and the flags; `more` marks an inexact magnitude. -/
def NFmt.round (f : NFmt) (rm : Rm) (r : Nat) (clamp : Bool) (x : FVal) (more : Bool) : Nat × Flags :=
  match x with
  | .nan s => if f.spec = 0 then (0, Flags.nv) else (f.qnan, Flags.when s Flags.nv)
  | .inf n =>
    if n && f.sgn = 0 then (0, Flags.nv)
    else if f.spec = 2 && !clamp then (f.signed n (f.e1 * 2 ^ f.man), 0)
    else if clamp then (f.signed n f.maxCode, 0)
    else (f.signed n f.maxCode, Flags.nv)
  | .fin n m e =>
    if n && f.sgn = 0 then (0, if m = 0 && !more then 0 else Flags.nv)
    else f.roundFin rm r clamp n m e more

/-- The generator step (R97). -/
def lfsrStep (s : Word) : Word :=
  let t := s >>> 1
  if s.getLsbD 0 then t ^^^ 0x80200003 else t

/-- The value of a UE8 scale byte (R98). -/
def ue8Value (code : Nat) : FVal :=
  if code % 256 = 255 then .nan false else .fin false 1 ((code % 256 : Nat) - 127)

/-- The least k with 2^k at or above m * 2^e, for m above 0. -/
def leastPow (m : Nat) (e : Int) : Int := if m = 2 ^ (bitLen m - 1) then e + bitLen m - 1 else e + bitLen m

/-- ue8Choose (R99). -/
def ue8Choose (xs : List FVal) (f : NFmt) : Nat :=
  if xs.any (fun x => x.isNan || x.isInf) then 255
  else
    let a := (xs.map FVal.abs).foldl (fun x y => if FVal.cmp x y < 0 then y else x) (.fin false 0 0)
    if a.isZero then 0
    else
      let q := f32.value (fpDiv f32 .rn a f.fmax).1
      let k : Int :=
        match q with
        | .fin _ m e => if m = 0 then -127 else leastPow m e
        | _ => 127
      (min 127 (max (-127) k) + 127).toNat

end Sys2Proof.Machine
end

