-- ==== Sys2Proof/Machine/FpFun.lean ====
section
/-!
DEFINITION. The special functions of R122, ex2CR (R106), the quadratic segments of TBLEV (R124) and pairRound (R151).
Inexact results are held as fixed-point magnitudes of 800 fraction bits before the one rounding (DEDUCED, log 5: no
binary32 argument comes closer to a rounding boundary than that).
-/

namespace Sys2Proof.Machine

/-- Fraction bits of the fixed-point work. -/
def fixBits : Nat := 800
def fixOne : Nat := 2 ^ fixBits

/-- The integer square root: r is a root of the leading bits, fuel the bit pairs left. -/
def isqrtLoop : Nat → Nat → Nat → Nat
  | 0, r, _ => r
  | k + 1, r, n =>
    let c := r + 2 ^ k
    isqrtLoop k (if c * c ≤ n then c else r) n

/-- The integer square root of n. -/
def isqrt (n : Nat) : Nat := isqrtLoop (bitLen n / 2 + 1) 0 n

/-- Sum of terms t, t r / (k+1), t r^2 / ((k+1)(k+2)), … in fixed point: the exponential series. -/
def expSeries : Nat → Nat → Nat → Nat → Nat
  | 0, _, _, t => t
  | fuel + 1, k, r, t => t + expSeries fuel (k + 1) r (t * r / fixOne / (k + 1))

/-- exp of a fixed-point number in 0 to 1. -/
def fixExp (r : Nat) : Nat := expSeries 180 0 r fixOne

/-- Sum of z^(2j+1) / (2j+1) in fixed point, sign alternating when alt: arctangents. p is z^(2j+1). -/
def atanSeries (alt : Bool) (z2num z2den : Nat) : Nat → Nat → Nat → Int
  | 0, _, _ => 0
  | fuel + 1, j, p =>
    let rest := atanSeries alt z2num z2den fuel (j + 1) (p * z2num / z2den)
    (p / (2 * j + 1) : Nat) + (if alt then -rest else rest)

/-- arctan(1/n) in fixed point. -/
def fixAtanInv (n : Nat) : Int := atanSeries true 1 (n * n) 200 0 (fixOne / n)

/-- pi in fixed point, by Machin's formula. -/
def fixPi : Nat := (16 * fixAtanInv 5 - 4 * fixAtanInv 239).toNat

/-- Natural logarithm of num/den for num/den in 1 to 2, in fixed point. -/
def fixLn (num den : Nat) : Nat :=
  let z := (num - den) * fixOne / (num + den)
  (2 * atanSeries false (z * z / fixOne) fixOne 300 0 z).toNat

/-- ln 2 in fixed point. -/
def fixLn2 : Nat := fixLn 2 1

/-- Alternating series 1 - r2/(k+1)(k+2) + … in fixed point, starting from the term t. -/
def altSeries : Nat → Nat → Nat → Nat → Int
  | 0, _, _, t => t
  | fuel + 1, k, r2, t => (t : Int) - altSeries fuel (k + 2) r2 (t * r2 / fixOne / ((k + 1) * (k + 2)))

def fixSin (r : Nat) : Int := altSeries 110 1 (r * r / fixOne) r
def fixCos (r : Nat) : Int := altSeries 110 0 (r * r / fixOne) fixOne

/-- Rounds an inexact fixed-point value to binary32 in RN. -/
def roundFix (neg : Bool) (x : Nat) (e : Int) : Nat × Flags := roundFin f32 .rn false neg x (e - fixBits) true

/-- 2^x for a binary32 value (R106, R122). -/
def ex2CR (a : FVal) : Nat × Flags :=
  match a with
  | .nan s => (f32.qnan, Flags.when s Flags.nv)
  | .inf n => (if n then 0 else f32.infBits, 0)
  | .fin n m e =>
    if m = 0 then roundFin f32 .rn false false 1 0 false
    else if bitLen m + e > 10 then roundFin f32 .rn false false 1 (if n then -2000 else 2000) false
    else
      -- x = k + f with 0 <= f < 1, f in fixed point; e is at least -149, so the shift is exact
      let x : Int := (m * 2 ^ (e + fixBits).toNat : Nat)
      let x := if n then -x else x
      let k := x / fixOne
      let f := (x % fixOne).toNat
      if f = 0 then roundFin f32 .rn false false 1 k false
      else roundFix false (fixExp (f * fixLn2 / fixOne)) k

/-- 1/a (R122). -/
def fpRcp (f : Fmt) (a : FVal) : Nat × Flags := fpDiv f .rn (.fin false 1 0) a

/-- The square root of a value, with extra bits: magnitude, exponent, whether more follows. -/
def rootParts (prec m : Nat) (e : Int) : Nat × Int × Bool :=
  let odd := e % 2 ≠ 0
  let m := if odd then 2 * m else m
  let e := if odd then e - 1 else e
  let m' := m * 2 ^ (2 * prec)
  let r := isqrt m'
  (r, e / 2 - prec, decide (r * r ≠ m'))

/-- The square root (R122). -/
def fpSqrt (f : Fmt) (a : FVal) : Nat × Flags :=
  match a with
  | .nan s => (f.qnan, Flags.when s Flags.nv)
  | .inf n => if n then (f.qnan, Flags.nv) else (f.infBits, 0)
  | .fin n m e =>
    if m = 0 then (if n then f.signBit else 0, 0)
    else if n then (f.qnan, Flags.nv)
    else
      let r := rootParts (f.mb + 4) m e
      roundFin f .rn false false r.1 r.2.1 r.2.2

/-- 1 / sqrt(a) (R122): the square root of the exact quotient 1 / a, in integers. -/
def fpRsq (a : FVal) : Nat × Flags :=
  match a with
  | .nan s => (f32.qnan, Flags.when s Flags.nv)
  | .inf n => if n then (f32.qnan, Flags.nv) else (0, 0)
  | .fin n m e =>
    if m = 0 then ((if n then f32.signBit else 0) + f32.infBits, Flags.dz)
    else if n then (f32.qnan, Flags.nv)
    else
      -- 1/sqrt(m 2^e) = sqrt(2^(2s) / m) 2^(-s - e/2)
      let odd := e % 2 ≠ 0
      let m := if odd then 2 * m else m
      let e := if odd then e - 1 else e
      let s := 64 + bitLen m
      let q := 2 ^ (2 * s) / m
      let r := isqrt q
      roundFin f32 .rn false false r (-(s : Int) - e / 2) (decide (r * r * m ≠ 2 ^ (2 * s)))

/-- The base-2 logarithm (R122). -/
def fpLg2 (a : FVal) : Nat × Flags :=
  match a with
  | .nan s => (f32.qnan, Flags.when s Flags.nv)
  | .inf n => if n then (f32.qnan, Flags.nv) else (f32.infBits, 0)
  | .fin n m e =>
    if m = 0 then (f32.signBit + f32.infBits, Flags.dz)
    else if n then (f32.qnan, Flags.nv)
    else
      let k : Int := e + bitLen m - 1
      let den := 2 ^ (bitLen m - 1)
      if m = den then roundTo f32 .rn false (FVal.ofInt k)
      else
        let y : Int := k * fixOne + (fixLn m den * fixOne / fixLn2 : Nat)
        roundFix (decide (y < 0)) y.natAbs 0

/-- The quadrant and the remainder of a finite magnitude on a quarter turn, in fixed point: m 2^e = n pi/2 + r. -/
def quadrant (m : Nat) (e : Int) : Nat × Nat :=
  let x := shiftBy m (e + fixBits)
  let half := fixPi / 2
  (x / half, x % half)

/-- sin or cos of a finite nonzero binary32 value, shift quarter turns ahead (0 sin, 1 cos). -/
def trig (shift : Nat) (neg : Bool) (m : Nat) (e : Int) : Nat × Flags :=
  let q := quadrant m e
  let r := q.2
  let v : Int :=
    match (q.1 + shift) % 4 with
    | 0 => fixSin r
    | 1 => fixCos r
    | 2 => -fixSin r
    | _ => -fixCos r
  let v := if neg && shift = 0 then -v else v
  roundFix (decide (v < 0)) v.natAbs 0

/-- The sine (R122). -/
def fpSin (a : FVal) : Nat × Flags :=
  match a with
  | .nan s => (f32.qnan, Flags.when s Flags.nv)
  | .inf _ => (f32.qnan, Flags.nv)
  | .fin n m e => if m = 0 then (if n then f32.signBit else 0, 0) else trig 0 n m e

/-- The cosine (R122). -/
def fpCos (a : FVal) : Nat × Flags :=
  match a with
  | .nan s => (f32.qnan, Flags.when s Flags.nv)
  | .inf _ => (f32.qnan, Flags.nv)
  | .fin n m e => if m = 0 then roundTo f32 .rn false (FVal.ofInt 1) else trig 1 n m e

/-- The odd series of tanh below 2^-20: x - x^3/3 + 2 x^5/15 - …, bounded by its first two terms. -/
def smallTanh (x : Nat) : Nat := x - x * x / fixOne * x / fixOne / 3

/-- The hyperbolic tangent (R122): (E - 1) / (E + 1) with E = exp(2x), x in fixed point. -/
def fpTanh (a : FVal) : Nat × Flags :=
  match a with
  | .nan s => (f32.qnan, Flags.when s Flags.nv)
  | .inf n => roundTo f32 .rn false (FVal.ofInt (if n then -1 else 1))
  | .fin n m e =>
    if m = 0 then (if n then f32.signBit else 0, 0)
    else if bitLen m + e > 6 then roundFin f32 .rn false n (2 ^ 60 - 1) (-60) true
    else if bitLen m + e < -20 then roundFix n (smallTanh (shiftBy m (e + fixBits))) 0
    else
      let x := 2 * shiftBy m (e + fixBits)
      let k := x / fixLn2
      let y := fixExp (x % fixLn2) * 2 ^ k
      roundFix n ((y - fixOne) * fixOne / (y + fixOne)) 0

/-- TBLEV's index into the activation table: floor of x g + h held in 0 to 255; none for a NaN (R124). -/
def tblIndex (x g h : Nat) : Option Nat × Flags :=
  let p := exactMul (f32.value x) (f32.value g)
  let e := exactSum false [p.1, f32.value h]
  let fl := p.2 ||| e.2
  match e.1 with
  | .nan _ => (none, fl)
  | .inf n => (some (if n then 0 else 255), fl)
  | .fin n m k =>
    match FVal.toInt .rd (.fin n m k) with
    | some (y, _) => (some (min 255 (max 0 y)).toNat, fl)
    | none => (none, fl)

/-- One lane of TBLEV with its entry (R124). -/
def tblEval (x x0 c0 c1 c2 : Nat) : Nat × Flags :=
  let t := roundWith f32 .rn false (exactSum false [f32.value x, (f32.value x0).negate])
  let u := fpFma f32 .rn false c2 t.1 c1
  let d := fpFma f32 .rn false u.1 t.1 c0
  (d.1, t.2 ||| u.2 ||| d.2)

/-- pairRound (R151), raising no flag. -/
def pairRound (x : FVal) : Nat × Nat :=
  let hi := (roundTo f32 .rn false x).1
  (hi, (roundTo f32 .rn false (exactSum false [x, (f32.value hi).negate]).1).1)

end Sys2Proof.Machine
end

