-- ==== Sys2Proof/Config.lean ====
section
/-!
DEFINITION. What the manual leaves to the device or leaves open (log 4): constants without a body, so that no proof sees a value.
-/

namespace Sys2Proof.Config

/-- The byte at a physical address last written under key tag `tag` (0 if never written), read under key tag
`key` (R198, R296, R297): it bears no relation to what was written. -/
opaque foreignByte : (key tag addr : Nat) → Byte → Byte

/-- The byte that the device has written into a gate's frame, claimed on a date, as a read under key tag `key` finds it: a
frame's layout is the device's own (R314). -/
opaque frameByte : (key date addr : Nat) → Byte

/-- What an address without memory reads as, at a time (log 37). -/
opaque holeByte : (time addr : Nat) → Byte

/-- The SHAKE256 digest of a text of numbers, and the Falcon-1024 signature under the device key (R336, R337). -/
opaque digest : List Nat → List Byte
opaque sign : List Byte → List Byte

/-- What the device adds to the bytes of a reuse latch's image, whose layout is its own and every DL4-1152 reads (R385, log 32). -/
opaque latchMask : (offset : Nat) → Byte

/-- The ROM's text. -/
opaque rom : List Nat

/-- A package belongs to the fabric domain (R290). -/
opaque inDomain : Nat → Bool

/-- A value the manual leaves open, fresh for each value of the counter (log 4). -/
opaque freeWord : Nat → Word

end Sys2Proof.Config
end

