-- ==== Sys2Proof/Machine/State.lean ====
section
/-!
DEFINITION. The state of a package and the machine after reset. Every field names the rule that gives it; the fields
under "the model's own" are not the manual's (log 2). Sparse maps are keyed by number; a key that is not listed reads
as the default of its field.
-/

namespace Sys2Proof.Machine

/-- Why the machine stops. -/
inductive Fault where
  /-- Raised by every instruction when the cursor names no running stream: nothing is issuing. Safe: no step of the
  machine issues an instruction without a running stream. -/
  | noIssuingStream
  deriving DecidableEq, Repr

/-- Why an instruction has no meaning. -/
inductive Refusal where
  /-- Raised by an arm of `exec` whose instruction is not modelled. Safe: nothing can be proved of its effect. -/
  | notModelled (mnemonic : String)
  deriving DecidableEq, Repr

/-- Bytes with their offsets. -/
abbrev Bytes := List (Nat × Byte)

/-! ## Streams -/

/-- States of a line register (R30, R31). -/
inductive LState where
  | empty | opening | opened | recalled
  deriving DecidableEq, Repr

/-- A line register (R30): the LINE field, the entry of the core's line store it binds, the translation it was opened
with (physical line, or the key of another member's scratchpad line; page size; host memory or not; write permission; key), the
lanes whose address lies in its page (R291), whether KVOPEN asked for W and the KVROOT it was opened under, the byte of the line that the lowest lane named, the date of the opening, the date of the fetch that gave its contents (R196), 0 while one has still to be
made, and the address of a fatal translation (R294). -/
structure LineReg where
  st : LState
  mode : Nat
  line : Nat
  key : Nat
  pa : Nat
  size : Nat
  host : Bool
  w : Bool
  kid : Nat
  lanes : Mask
  rw : Bool
  root : DWord
  byte : Nat
  bound : Nat
  fetched : Nat
  fault : Option Nat
  deriving DecidableEq, Repr

def LineReg.empty : LineReg := ⟨.empty, 0, 0, 0, 0, 0, false, false, 0, 0, false, 0, 0, 0, 0, none⟩

/-- A trap as R344 records it, with the LPC that its lanes keep where that differs from the slot. -/
structure TrapRec where
  code : Nat
  info : Nat
  tadr : DWord
  tlane : Mask
  deriving DecidableEq, Repr

/-- Handler and routine mode (R25, R346, R389). -/
inductive SMode where
  | normal | handler | save | restore
  deriving DecidableEq, Repr

/-- Why lanes of a stream are held at their program counter (R158). -/
inductive Hold where
  | mma (cv : Nat)
  | park (rj : Nat)
  | llk (bit : Nat) (since : Nat)
  | barrier (scope : Scope)
  | regrp
  deriving DecidableEq, Repr

/-- What trap entry keeps aside (R346), each lane's LPC as recorded then (R354), whether the handler is a gate's THND,
the trap registers before the trap (R387), and what SETSR in the handler leaves in them at ERET (R343), keyed by the
special register's code; m0 is the mask at entry, amask the mask that ERET restores, back the POLL back-off factor at entry (R387). -/
structure Kept where
  m0 : Mask
  amask : Mask
  fstat : Word
  partw : Word
  lpc : SMap DWord
  recorded : SMap DWord
  hold : SMap (Option Hold)
  thnd : Bool
  tcause : Word
  tadr : DWord
  tlane : Mask
  later : SMap (Option DWord)
  back : Nat
  deriving DecidableEq, Repr

def Kept.off : Kept := ⟨0, 0, 0, 32, [], [], [], false, 0, 0, 0, [], 0⟩

/-- One register-file write of a long-latency result: 32 lanes of a vector register, a uniform register, a predicate. -/
inductive RegWrite where
  | vec (r : Nat) (lane : Nat) (w : Word)
  | bank (r : Nat) (lane : Nat) (w : Word)
  | uni (r : Nat) (w : Word)
  | fstat (flags : Word)
  | queue (q id : Nat) (lanes : SMap Word)
  | acc (a : Nat) (tile : SMap Word) (m hi lo : SMap Word)
  deriving DecidableEq, Repr

/-- A long-latency result that has issued and is not yet written (R49): the writes, the registers they cover as keys of
`vecKey` and its kin, the issues that each lane that issued it may still make, the slot of a CRED, whose result comes
with its reduction (R155), and the range of departures that a key-value result waits for (R308). -/
structure Pending where
  id : Nat
  writes : List RegWrite
  covers : List Nat
  la : SMap (Option Nat)
  cred : Option DWord
  after : Option (Nat × Nat)
  deriving DecidableEq, Repr

/-- One lane of an AMO (R235, R236): its address and operand; once performed, the old value and the granule if that is
poisoned; whether its translation is fatal. -/
structure AmoLane where
  lane : Nat
  addr : DWord
  c : DWord
  old : DWord
  back : Bool
  bad : Bool
  pois : Option Nat
  deriving DecidableEq, Repr

/-- A returning AMO in flight (R236): its address space, where its values go, its lanes, the registers it covers and the
lookahead left; in a redundant pair, its place among the instructions; `flip` is the register, lane and mask of an injection
(R381). -/
structure Amo where
  id : Nat
  nth : Nat
  op : FarOp
  acq : Bool
  scope : Scope
  dst : Dst
  bank : Bool
  lanes : List AmoLane
  covers : List Nat
  la : SMap (Option Nat)
  asid : BitVec 16
  flip : Option (Nat × Nat × Word)
  deriving DecidableEq, Repr

/-- A store that waits in a stream's store queue (R200): the line, its bytes and whether they are multicast. -/
structure QStore where
  line : Nat
  bytes : Bytes
  multi : Bool
  deriving DecidableEq, Repr

/-- A release or cross-path order that has issued and is not complete (R239, R240): the path it waits for and the one it
closes, its date, the engine commands it waits for, whether it is a release, whether it ends with an acquire of the path
it closes, whether it is AFENCE, which drops the core's unpinned copies, and, for a release of another path than LS, the date
at which what it waits for was found complete: a checkpoint taken since must be safe (R208, R221). -/
structure FenceRec where
  first : Path
  closes : Path
  scope : Scope
  date : Nat
  cmds : List Nat
  rel : Bool
  acquire : Bool
  drop : Bool
  landed : Option Nat
  deriving DecidableEq, Repr

/-- A POLL in progress (R195): its program counter, failed attempts, the date of its next attempt and whether that has
come. -/
structure PollRec where
  pc : DWord
  tries : Nat
  due : Nat
  ready : Bool
  deriving DecidableEq, Repr

/-- An armed watch of LWAIT (R196): the line it watches, the register, where it writes the cause, its date, the bound's
date. -/
structure WatchRec where
  ln : Nat
  reg : Nat
  dst : Dst
  ex : Mask
  pc : DWord
  since : Nat
  due : Option Nat
  flip : Option (Nat × Word)
  deriving DecidableEq, Repr

/-- One stream of a group: registers (R21), special registers (R36), mode (R346), outstanding work; `parked` is the program
counter at which it is parked on a queue or, for X, on an EMPTY line register (R19, R31), `entering` a trap whose entry waits
for the stream's long-latency results (R346 step 2). -/
structure Stream where
  live : Bool
  amask : Mask
  lpc : SMap DWord
  v : SMap Word
  bank : SMap Word
  u : SMap Word
  p : SMap Mask
  fstat : Word
  partw : Word
  rgncnt : Word
  rgnEntry : DWord
  entry : DWord
  tcause : Word
  tadr : DWord
  tlane : Mask
  gen : SMap Word
  mode : SMode
  kept : Kept
  traps : List TrapRec
  pend : List Pending
  amos : List Amo
  sq : List QStore
  fences : List FenceRec
  epoch : Nat
  hold : SMap (Option Hold)
  back : Nat
  poll : List PollRec
  watch : Option WatchRec
  cpwait : SMap (Option Word)
  relWait : SMap (Option Nat)
  check : Bool
  skipCmp : Mask
  routine : SMap LineReg
  jseq : Nat
  parked : Option DWord
  entering : Option TrapRec
  deriving DecidableEq, Repr

/-- A stream of no lanes: what an unlisted stream is, and a stream before its start. -/
def Stream.off : Stream :=
  { live := false, amask := 0, lpc := [], v := [], bank := [], u := [], p := [], fstat := 0, partw := 32, rgncnt := 0,
    rgnEntry := 0, entry := 0, tcause := 0, tadr := 0, tlane := 0, gen := [], mode := .normal, kept := .off,
    traps := [], pend := [], amos := [], sq := [], fences := [], epoch := 0, hold := [], back := 0, poll := [],
    watch := none, cpwait := [], relWait := [], check := false, skipCmp := 0, routine := [], jseq := 0,
    parked := none, entering := none }

/-! ## Groups -/

/-- An entry of a queue (R18): 32 lanes; a result that has not returned is not ready. -/
structure QEntry where
  id : Nat
  lanes : SMap Word
  ready : Bool
  deriving DecidableEq, Repr

/-- The reuse latch (R146): the A field, the value of the B register, the class, the sparsity, the lanes and the
registers that were read, keyed 32 * register + lane. -/
structure Latch where
  a : Nat
  b : Word
  cls : Nat
  sparse : Option Sparsity
  decl : Mask
  regs : SMap Word
  deriving DecidableEq, Repr

/-- The state of a copy tag (R257); its SUSP bit says whether a command under the tag is suspended. -/
structure TagState where
  issued : Word
  landed : Word
  err : Bool
  pois : Bool
  faddr : DWord
  deriving DecidableEq, Repr

def TagState.zero : TagState := ⟨0, 0, false, false, 0⟩

/-- A pending set of MMA signings (R144): the instruction that must match, and the B and C registers and the slot of the last
signing. -/
structure MmaSet where
  cv : Nat
  i : Instr
  b : Word
  c : Word
  slot : DWord
  deriving DecidableEq, Repr

/-- A barrier slot of a group (R242): arrived, and its result when the phase has released. -/
inductive BarSlot where
  | clear
  | pending (op : BarOp) (v : DWord) (has arrived : Bool) (date : Nat)
  | released (total : DWord) (bad : Bool)
  deriving DecidableEq, Repr

/-- What redundant execution makes of a group (R376). -/
inductive DmrRole where
  | alone
  | leader (pair : Nat)
  | trailer (pair : Nat)
  deriving DecidableEq, Repr

/-- The context of a group: what a gate call hides and gives back (R11, R21, R36, R318). -/
structure GCtx where
  vbud : Nat
  va : Nat
  lbud : Nat
  abud : Nat
  a : Stream
  x : Stream
  lines : SMap LineReg
  queues : SMap (List QEntry)
  accs : SMap Word
  accM : SMap Word
  accHi : SMap Word
  accLo : SMap Word
  cvDecl : SMap Mask
  cvSigned : SMap Mask
  mma : List MmaSet
  rjEnr : SMap Mask
  rjArr : SMap Mask
  latch : Option Latch
  tags : SMap TagState
  asid : BitVec 16
  kvroot : DWord
  level : Nat
  ttbase : DWord
  deriving DecidableEq, Repr

def GCtx.off : GCtx :=
  { vbud := 0, va := 0, lbud := 0, abud := 0, a := .off, x := .off, lines := [], queues := [], accs := [], accM := [],
    accHi := [], accLo := [], cvDecl := [], cvSigned := [], mma := [], rjEnr := [], rjArr := [], latch := none,
    tags := [], asid := 0, kvroot := 0, level := 0, ttbase := 0 }

/-- A call in progress (R315, R318): the frame claimed, the gate, what its entry said, the caller's context, the lanes
that called, where they resume, and the date of the call. -/
structure GateFrame where
  frame : Nat
  gate : Nat
  ctx : GCtx
  status : Dst
  slot : DWord
  ex : Mask
  handle : Bool
  thnd : DWord
  trapc : Bool
  shsp : Bool
  ret : Nat
  rspr : Bool
  since : Nat
  deriving DecidableEq, Repr

/-- A group (R9-R31); it issues once its team's safe checkpoint has the date `wait` (R275, R316, R320, R376). -/
structure Group where
  live : Bool
  role : Nat
  split : Bool
  c : GCtx
  depth : Nat
  frames : List GateFrame
  barriers : SMap BarSlot
  halted : Bool
  abort : Option Nat
  dmr : DmrRole
  wait : Nat
  deriving DecidableEq, Repr

def Group.off : Group :=
  { live := false, role := 0, split := false, c := .off, depth := 0, frames := [], barriers := [], halted := false, abort := none,
    dmr := .alone, wait := 0 }

/-! ## Teams -/

/-- Launch classes (R170). -/
inductive LClass where
  | concurrent | parallel | weak
  deriving DecidableEq, Repr

/-- The status of a ticket (R249, R268). -/
structure Ticket where
  state : Nat
  ecode : Nat
  pois : Bool
  done : Nat
  total : Nat
  sb : Nat
  deriving DecidableEq, Repr

def Ticket.unknown : Ticket := ⟨5, 0, false, 0, 0, 0⟩

/-- A record of a returned AMO or key-value operation (R371): its stream, its date, what it is, and for each lane the
address, the operand and the words returned, none before they are; `pois` names the granule of a lane's poisoned value. -/
structure JRec where
  id : Nat
  grp : Nat
  x : Bool
  date : Nat
  what : Nat
  lanes : List (Nat × DWord × DWord × List Word)
  pois : List (Nat × Nat)
  deriving DecidableEq, Repr

/-- One level's phase of a barrier (R241, R243): who must arrive, who has, the payload so far. -/
structure Phase where
  scope : Nat
  owner : Nat
  expected : Option (List Nat)
  arrived : List Nat
  op : BarOp
  mixed : Bool
  total : DWord
  has : Bool
  deriving DecidableEq, Repr

/-- Bytes of an engine command as they were counted (R251, R370): when, the date of the command, the tag of a group or the
offset of the stage barrier, the bytes, poison, and the error it recorded: a code, or for a tag the failing address. -/
structure Count where
  date : Nat
  cmdDate : Nat
  tag : Option (Nat × Nat × Nat)
  off : Nat
  bytes : Nat
  pois : Bool
  ecode : Nat
  fault : Option DWord
  deriving DecidableEq, Repr

/-- A task of a batch node (R181, R185): graph, node, index, entry pair and argument words. -/
structure Task where
  graph : Nat
  node : Nat
  index : Nat
  enta : DWord
  entx : DWord
  args : List Word
  deriving DecidableEq, Repr

/-- The state of a team that a checkpoint keeps (R365); the poison of an activation-table entry is keyed 256 * bank +
entry. -/
structure TeamCore where
  groups : SMap Group
  locks : SMap (Option (Nat × Nat))
  bank0 : SMap (BitVec 128)
  bank1 : SMap (BitVec 128)
  bankCur : Bool
  bankPois : SMap Bool
  rings : SMap Nat
  tickets : Word
  phases : List Phase
  deriving DecidableEq, Repr

def TeamCore.off : TeamCore := ⟨[], [], [], [], false, [], [], 0, []⟩

/-- A checkpoint: its state, its date, and how far the cluster reductions had been counted. -/
structure Ckpt where
  st : TeamCore
  date : Nat
  deriving DecidableEq, Repr

/-- A team (R9, R13): resident while `live`; `out` while its context is switched out (R390); `led` while its save or restore
remembers that it led a redundant pair (R380, R386); `pooled` while its save area comes from its die's pool (R359); ecount is the count E of R359. Tasks and their statuses are keyed by slot: a slot
from 32 up belongs to a lane that has gone to another team's regrouped set; `tasksWas` holds both as they stood before the last move, with
its date, until the move can no longer be undone (R275, R276; log 27). -/
structure Team where
  live : Bool
  die : Nat
  core : Nat
  launch : Nat
  index : Nat
  tx : Nat
  ty : Nat
  tz : Nat
  cls : LClass
  started : Bool
  priv : Bool
  idem : Bool
  spadSize : Nat
  admitted : Nat
  ecount : Nat
  st : TeamCore
  safe : Ckpt
  pending : Option Ckpt
  wantCkpt : Bool
  journal : List JRec
  replay : List JRec
  statuses : SMap Ticket
  counts : List Count
  prefetch : List (Nat × List Word × Bool)
  prefetchTid : Nat
  wave : Bool
  tasks : SMap (Option Task)
  taskStatus : SMap Word
  tasksWas : Option (Nat × SMap (Option Task) × SMap Word)
  poisoned : List Nat
  cluster : Option (Nat × Nat)
  credCount : SMap Nat
  drain : Option Preemptor
  saving : Option DWord
  blocked : Option Nat
  recalls : List (Nat × Nat × Nat)
  out : Bool
  led : Bool
  pooled : Bool
  deriving DecidableEq, Repr

def Team.off : Team :=
  { live := false, die := 0, core := 0, launch := 0, index := 0, tx := 0, ty := 0, tz := 0, cls := .parallel,
    started := false, priv := false, idem := false, spadSize := 0, admitted := 0, ecount := 0, st := .off, safe := ⟨.off, 0⟩,
    pending := none, wantCkpt := false, journal := [], replay := [], statuses := [], counts := [], prefetch := [], prefetchTid := 0,
    wave := false, tasks := [], taskStatus := [], tasksWas := none, poisoned := [], cluster := none, credCount := [], drain := none, saving := none, blocked := none,
    recalls := [], out := false, led := false, pooled := false }

/-! ## Cores -/

/-- A write into a line-store entry, in the order of R202: who made it and when (R368, R369), its bytes, whether they
are multicast (R232), the granules it poisons, and the offsets that have left in a departure. -/
structure LWrite where
  team : Nat
  grp : Nat
  date : Nat
  bytes : Bytes
  multi : Bool
  pois : List Nat
  left : List Nat
  deriving DecidableEq, Repr

/-- A line-store entry (R201): the bytes fetched and their poison, the date of the fetch, the writes since, and the
pending landings of a scratchpad line (R250); for a key-value line its physical line and key (R302); for a line of the
cluster window the team and the offset of the scratchpad line it names (R228). -/
structure Entry where
  held : Bool
  base : SMap Byte
  basePois : List Nat
  fetched : Nat
  valid : Bool
  log : List LWrite
  pend : Nat
  kv : Option (Nat × Nat)
  win : Option (Nat × Nat)
  deriving DecidableEq, Repr

def Entry.off : Entry := ⟨false, [], [], 0, false, [], 0, none, none⟩

/-- A byte that a departure carries: its offset, its value, and the team and date of its store (R369). -/
structure DByte where
  off : Nat
  b : Byte
  team : Nat
  date : Nat
  deriving DecidableEq, Repr

/-- Where a departure goes: through the page tables, to a key-value line, or to a member's scratchpad (R207, R228). -/
inductive DDest where
  | mem
  | kv (pa key : Nat)
  | window (team off : Nat)
  deriving DecidableEq, Repr

/-- A page translation (R286, R288). -/
structure Trans where
  pa : Nat
  size : Nat
  w : Bool
  x : Bool
  repl : Bool
  host : Bool
  key : Nat
  deriving DecidableEq, Repr

/-- A TLB entry: ASID and virtual page. -/
structure TlbEntry where
  asid : BitVec 16
  vbase : Nat
  tr : Trans
  deriving DecidableEq, Repr

/-- What a unit of an engine command writes: bytes of global memory and of scratchpad by address, the granules that they
poison, whether any source was poisoned (R251, R252, R375), and the translations of its service (R325). -/
structure UnitOut where
  glob : Bytes
  pad : Bytes
  globPois : List Nat
  padPois : List Nat
  pois : Bool
  via : List TlbEntry
  deriving DecidableEq, Repr

/-- A write that waits in the lehr (R205); rep names the replica that an MST write is for (R217, R232); lead and lanes
are the lowest lane's address and the lanes of the issue on the update's page (R279, R292). -/
inductive LWork where
  | depart (asid : BitVec 16) (va : Nat) (dest : DDest) (rep : Option Nat) (bytes : List DByte) (clean : List Nat)
  | update (op : FarOp) (asid : BitVec 16) (va : DWord) (c : DWord) (lead : DWord) (lanes : Mask)
  | engine (cmd unit : Nat) (asid : BitVec 16) (out : UnitOut)
  | land (cast : Nat) (dest off : Nat) (bytes : Bytes) (pois : List Nat)
  | cond (graph : Nat) (op : CondOp) (num : BitVec 8) (x : Word)
  | sig (graph : Nat) (node : Nat)
  | cred (bench : Nat) (team : Nat) (grp : Nat) (n : Nat)
  deriving DecidableEq, Repr

/-- An entry of the lehr (R205, R369), of the call with the date `call`; sent once its checkpoint is safe, until it is applied:
`rank` orders what has been sent. -/
structure LehrEntry where
  id : Nat
  team : Nat
  grp : Nat
  x : Bool
  call : Nat
  date : Nat
  sent : Bool
  rank : Nat
  work : LWork
  deriving DecidableEq, Repr

/-- A multicast whose landings are not all in (R237, R238): its team and date, the CLK value of CMCAST.AT, the members and
their line, and the landings still to come. -/
structure Cast where
  id : Nat
  team : Nat
  date : Nat
  at_ : Option DWord
  dests : List Nat
  line : Nat
  left : Nat
  deriving DecidableEq, Repr

/-- A record of the cullet log (R295): the first of the 64-KiB pages that its page covers and their number, the fault, and the
write that waits; for RED and SCAT the updates of one issue on the page (R279). -/
structure Cullet where
  id : Nat
  page : Nat
  span : Nat
  frec : Option FaultRec
  entries : List LehrEntry
  deriving DecidableEq, Repr

/-- The fields of a tensor-table entry (R100). -/
structure Tensor where
  base : Nat
  space : Nat
  layout : Nat
  etype : Nat
  nfd : Nat
  rows : Nat
  cols : Nat
  stride : Nat
  scale : Nat
  sspace : Nat
  blk : Nat
  smid : Nat
  smode : Nat
  ecm : Nat
  bad : Bool
  deriving DecidableEq, Repr

/-- What an engine command does (R256-R267); the last field of an activation table's request is what its unused words hold; EMB
keeps the lists it has read, each word with the poison of its granule, and the rows it has gathered. -/
inductive CmdKind where
  | cpyGs (tag : Nat) (lanes : List (Nat × DWord × Nat × Nat))
  | cpySg (tag : Nat) (lanes : List (Nat × DWord × Bytes × List Nat))
  | linear (ssp dsp a b n : Nat)
  | tile (stid dtid sr0 sc0 dr0 dc0 nr nc : Nat)
  | table (ssp a rest : Nat)
  | gather (x y n : Nat) (t : Tensor)
  | emb (tid : Nat) (t : Tensor) (desc : Nat) (idx bag hot : List (Nat × Bool)) (rows : List (Nat × Option (List Word) × Bool))
      (have_ : Bool)
  | kvfill (seq layer head kv t0 y : Nat) (desc : Nat)
  deriving DecidableEq, Repr

/-- An engine command (R248-R253): its context, its ticket or tag, its state (0 queued, 1 running,
3 complete, 4 failed), the units that wait for a translation and whether it is missing, the lane transfer in service, the units landed or in the lehr, the number of units and the bytes that each counts, and the
scratchpad lines it has still to write. -/
structure Cmd where
  id : Nat
  team : Nat
  grp : Nat
  x : Bool
  depth : Nat
  date : Nat
  asid : BitVec 16
  kvroot : DWord
  ttbase : DWord
  ticket : Nat
  sb : Option Nat
  kind : CmdKind
  state : Nat
  stopped : List (Nat × Bool)
  lane : Nat
  ecode : Nat
  pois : Bool
  landed : List Nat
  sent : List Nat
  failed : List Nat
  units : Nat
  bytes : Nat
  credit : List (Nat × Nat)
  deriving DecidableEq, Repr

/-- A cached key-value translation (R303): ASID, page coordinate, page-entry address, frame, W, key. -/
structure KvEntry where
  asid : BitVec 16
  page : Nat
  pe : Nat
  frame : Nat
  w : Bool
  key : Nat
  deriving DecidableEq, Repr

/-- Phases of a translation that has missed: walking, faulted and waiting for an answer, answered and waiting for a walker, fatal, or
over, its access gone while its record is still on its way to the ring. -/
inductive WPhase where
  | walking | faulted | answered | fatal | over
  deriving DecidableEq, Repr

/-- An outstanding walk or fault of a core (R288, R291-R294). kv marks a coordinate walk; who tells the issues of one group
from each other (R292): the date of an opening or of a RED or SCAT, the number of an AMO, a departure or an engine's lane, a
stream. slot is one more than the ring's slot of its record, 0 before it has one; sent orders the records that a core sends
(R291). -/
structure Walk where
  id : Nat
  kv : Bool
  asid : BitVec 16
  addr : DWord
  need : FaultKind
  lanes : Mask
  grp : Nat
  ticket : Word
  who : Nat
  root : DWord
  phase : WPhase
  slot : Nat
  logged : Bool
  fresh : Bool
  sent : Nat
  deriving DecidableEq, Repr

/-- A stream's place in a partition's rotation, with its quota and the ages of its program counters (R159, R161). -/
structure Rot where
  team : Nat
  grp : Nat
  x : Bool
  quota : Nat
  ages : List (DWord × Nat)
  wait : Nat
  deriving DecidableEq, Repr

/-- A partition's rotation and PTR (R161). -/
structure Part where
  rot : List Rot
  ptr : Nat
  deriving DecidableEq, Repr

/-- One set of the regrouping table (R272): its key and the groups that have joined, with their survivors. -/
structure RegSet where
  launch : Nat
  role : Nat
  lpc : DWord
  asid : BitVec 16
  g : Nat
  k : Nat
  dst : Nat
  joined : List (Nat × Nat × Mask)
  deriving DecidableEq, Repr

/-- A core (R34); a regrouping's teams are linked from its date until their checkpoints of that date are safe
(R275). -/
structure Core where
  lines : SMap Entry
  lehr : List LehrEntry
  cullet : List Cullet
  cmds : List Cmd
  casts : List Cast
  tlb : List TlbEntry
  kvc : List KvEntry
  walks : List Walk
  cmp : SMap (BitVec 128)
  tasks : List Task
  waveAt : Nat
  parts : SMap Part
  svc : Part
  sets : List RegSet
  regMoves : List (Nat × List Nat)
  strikes : Nat
  deriving DecidableEq, Repr

def Core.off : Core :=
  { lines := [], lehr := [], cullet := [], cmds := [], casts := [], tlb := [], kvc := [], walks := [], cmp := [], tasks := [],
    waveAt := 0, parts := [], svc := ⟨[], 0⟩, sets := [], regMoves := [], strikes := 0 }

/-! ## Benches, dies and the package -/

/-- A bench cluster (R246): its key, size, members by number, whether complete. -/
structure Cluster where
  id : Nat
  asid : BitVec 16
  key : Word
  n : Nat
  members : SMap (Option Nat)
  joined : Nat
  complete : Bool
  deriving DecidableEq, Repr

/-- An accumulator's contents (R27): elements, and the m, s_hi and s_lo of its rows. -/
structure AccImage where
  e : SMap Word
  m : SMap Word
  hi : SMap Word
  lo : SMap Word
  deriving DecidableEq, Repr

/-- A cluster reduction (R155): the cluster, the group number and count, the members, what each contributed and its team, and
the accumulator of each. -/
structure CredRed where
  cluster : Nat
  grp : Nat
  n : Nat
  members : List Nat
  got : List (Nat × AccImage)
  who : List (Nat × Nat)
  pends : SMap Nat
  deriving DecidableEq, Repr

/-- A value that the trailing group takes from the leading one (R377): the words of a MOVSR, AMO or key-value result of the
n-th instruction by lane, the bytes and poison of a line by its key, a trap after its n-th instruction, and the order of its issues. -/
inductive Feed where
  | words (n : Nat) (w : List (Nat × List Word))
  | line (key : Nat) (b : SMap Byte) (pois : List Nat)
  | trap (n : Nat) (t : TrapRec)
  | issue (pc : DWord) (lanes : Mask)
  deriving DecidableEq, Repr

/-- A redundant pair of a bench (R376-R379): leader and trailer teams, the records not yet compared, what the trailer takes,
the issues of each, the date from which its first checkpoint is awaited, the date from which its last one is, the slot of the last mismatch and the mismatch
count. -/
structure Pair where
  id : Nat
  leader : Nat
  trailer : Nat
  recsL : List (Nat × Nat × Bytes)
  recsT : List (Nat × Nat × Bytes)
  feed : List Feed
  nL : Nat
  nT : Nat
  forming : Option Nat
  ending : Option Nat
  slot : Nat
  strikes : Nat
  deriving DecidableEq, Repr

/-- A bench (R34, R35), with its injection record, the instructions counted for it, and the pair that one with DMR 1 has taken
(R381). -/
structure Bench where
  clusters : List Cluster
  creds : List CredRed
  phases : List Phase
  pairs : List Pair
  inject : BitVec 128
  injCount : Nat
  injPair : Option Nat
  tlb : List TlbEntry
  deriving DecidableEq, Repr

def Bench.off : Bench := ⟨[], [], [], [], 0, 0, none, []⟩

/-- The state of a graph node as the engine keeps it (R190, R191): the bits arrived, whether it runs, its launch, the tasks
dealt and left, the failures, TRIPS, and the arm chosen at its start, none for every arm. -/
structure GNode where
  arrived : Nat
  running : Bool
  launch : Nat
  dealt : Nat
  left : Nat
  fails : Nat
  firstFail : Option Nat
  trips : Nat
  arm : Option Nat
  deriving DecidableEq, Repr

def GNode.zero : GNode := ⟨0, false, 0, 0, 0, 0, none, 0, none⟩

/-- A graph that runs or waits (R189): its image, its address space, its nodes and conditions; err is the failure to
report, irq the host vector of its queue entry, src the function and queue that submitted it. -/
structure Graph where
  id : Nat
  die : Nat
  va : DWord
  asid : BitVec 16
  kvroot : DWord
  nodes : SMap GNode
  conds : SMap Word
  running : Bool
  priv : Bool
  err : Option (Nat × Nat)
  irq : Option (Nat × Nat)
  deriving DecidableEq, Repr

/-- A die: its clock, admission orders, fault processor, save pool and barrier phases, and the launches and indices of the
teams that go back to the head of their order after a flush (R361). An order holds 2 * launch, or 2 * team + 1 for a saved team to restore
(R393). -/
structure Die where
  clk : DWord
  order : List Nat
  weakOrder : List Nat
  ringBase : Nat
  seqno : Word
  ringHead : Nat
  waiting : List (CoreId × Nat × FaultRec)
  pool : List Nat
  phases : List Phase
  throttled : Bool
  back : List (Nat × Nat)
  deriving DecidableEq, Repr

def Die.off : Die := ⟨0, [], [], 0, 0, 0, [], [], [], false, []⟩

/-- The role of a launch (R173). -/
structure Role where
  enta : DWord
  entx : DWord
  split : Bool
  vbud : Nat
  va : Nat
  lbud : Nat
  abud : Nat
  groups : Nat
  ringout : Nat
  ringin : Nat
  deriving DecidableEq, Repr

/-- A ring of a launch (R172). -/
structure Ring where
  off : Nat
  slot : Nat
  depth : Nat
  valid : Bool
  deriving DecidableEq, Repr

/-- A launch the gaffers hold (R170-R177); src is the function and queue that submitted it (R331). -/
structure Launch where
  id : Nat
  va : DWord
  asid : BitVec 16
  kvroot : DWord
  cls : LClass
  priv : Bool
  idem : Bool
  roles : List Role
  rings : List Ring
  dies : List Nat
  timed : Bool
  tstart : DWord
  icount : Word
  geo : Nat × Nat × Nat
  cluster : Nat
  spad : Nat
  grid : Nat × Nat × Nat
  ttbase : DWord
  graph : Option (Nat × Nat)
  irq : Option (Nat × Nat)
  src : Option (Nat × Nat)
  next : SMap Nat
  live : Nat
  ended : Nat
  state : Nat
  deriving DecidableEq, Repr

/-- A host queue's control block and heads (R329). -/
structure QBlock where
  block : BitVec 256
  head : Word
  tail : Word
  deriving DecidableEq, Repr

/-- A collective that the fabric unit runs (R333-R335): gone counts the flits of a chunk that have left by their lane (R338). -/
structure Coll where
  id : Nat
  fn : Nat
  q : Nat
  va : DWord
  asid : BitVec 16
  desc : List Nat
  done : List Nat
  errs : List (Nat × Nat)
  lost : Bool
  gone : List (Nat × Nat)
  irq : Option (Nat × Nat)
  deriving DecidableEq, Repr

/-- A saved context waiting for its return (R392); src is none where this package saved it, else the launch block, the die and the
package of its header, which its cluster's other members share. -/
structure Saved where
  team : Nat
  area : DWord
  asid : BitVec 16
  src : Option Nat
  deriving DecidableEq, Repr

/-- A gate frame that is claimed (R318): the frame, the gate, the pins it counts on its team's core, the team, the date of
the claim, and the date of the return after which it is free again. -/
structure Claim where
  frame : Nat
  gate : Nat
  pins : Nat
  team : Nat
  since : Nat
  freeAt : Option Nat
  deriving DecidableEq, Repr

/-- A gate's frame as the device has written it (R314): its first byte, the date of the claim, and the bytes that have been
written over it since. -/
structure Veil where
  base : Nat
  date : Nat
  since : SMap Bool
  deriving DecidableEq, Repr

/-- The package. -/
structure Pkg where
  id : Nat
  asTable : Nat
  domTable : Nat
  gateTable : Nat
  handlerTable : Nat
  own : SMap (BitVec 256)
  frames : List Claim
  launches : List Launch
  graphs : List Graph
  phases : List Phase
  queues : SMap QBlock
  keyGen : SMap Nat
  colls : List Coll
  planes : SMap Bool
  egress : EgressConfig
  egressCount : SMap Nat
  power : Nat
  clamped : Bool
  fwVersion : Nat
  fwImage : Nat
  fwMin : Nat
  booted : Bool
  msix : List (Nat × Nat)
  thermal : SMap Nat
  link : Nat × Nat
  reports : List (List Byte)
  kiln : List (Nat × Nat)
  saved : List Saved
  deriving DecidableEq, Repr

def Pkg.zero : Pkg :=
  { id := 0, asTable := 0, domTable := 0, gateTable := 0, handlerTable := 0, own := [], frames := [], launches := [],
    graphs := [], phases := [], queues := [], keyGen := [], colls := [], planes := [], egress := ⟨[], [], []⟩,
    egressCount := [], power := 3400, clamped := false, fwVersion := 0, fwImage := 0, fwMin := 0, booted := false, msix := [],
    thermal := [], link := (0, 0), reports := [], kiln := [], saved := [] }

/-- A program counter that has been granted an issue: the stream, the program counter, whether this is the first of an
opportunity (R159). -/
structure Cursor where
  team : Nat
  grp : Nat
  x : Bool
  pc : DWord
  lanes : Mask
  word : SlotWord
  pop : SMap (Option QEntry)
  deriving DecidableEq, Repr

def Cursor.off : Cursor := ⟨0, 0, false, 0, 0, 0, []⟩

/-- A choice of the schedule (log 2): the k-th event due, the next input, or a grant to a partition. -/
inductive Choice where
  | event (k : Nat)
  | input
  | grant (c : CoreId) (part : Nat)
  deriving DecidableEq, Repr

/-- The state of the package. The last block is the model's own (log 2, log 4): while `opened`, an issue opportunity of the
stream `opp` is being decided and `found` holds the program counters found ready, each with whether its instruction traps
(R68); `rest` holds the streams that the same grant tries after it (R161); `trapped` says that of the instruction that has just
run, and `resumed` that its lanes had issued it before (R234, R242). -/
structure State where
  mem : List Host.Cell
  memTag : SMap Nat
  poison : SMap Bool
  veils : List Veil
  hostMem : List Host.Cell
  combine : SMap (List Nat)
  wrote : SMap Nat
  teams : SMap Team
  cores : SMap Core
  benches : SMap Bench
  dies : SMap Die
  pkg : Pkg
  fetched : SMap (Option FetchLine)
  cur : Cursor
  held : Bool
  toIssue : List Cursor
  time : Nat
  epoch : Nat
  marks : List (StreamId × DWord × Nat)
  opened : Bool
  trapped : Bool
  resumed : Bool
  opp : StreamId
  rest : List StreamId
  found : List (Cursor × Bool)
  lastPart : Nat
  nextId : Nat
  agenda : List (Nat × Instr)
  inputs : List Instr
  sched : List Choice
  freeCtr : Nat
  deriving DecidableEq, Repr

/-- The machine right after reset: no team is resident (R11 gives a team's start), every table the manual gives a reset
value is zero, and every register without one is zero (log 3). -/
def State.reset : State :=
  { mem := [], memTag := [], poison := [], veils := [], hostMem := [], combine := [], wrote := [], teams := [], cores := [], benches := [],
    dies := [], pkg := .zero, fetched := [], cur := .off, held := false, toIssue := [], time := 0, epoch := 0,
    marks := [], opened := false, trapped := false, resumed := false, opp := ⟨0, 0, false⟩, rest := [], found := [], lastPart := 0, nextId := 0, agenda := [], inputs := [], sched := [], freeCtr := 0 }

end Sys2Proof.Machine
end

