-- ==== Sys2Proof/Machine/Mem.lean ====
section
/-!
DEFINITION. Physical memory at its points of coherence (R207): bytes, the key each was written under (R296), poison by
granule (R374), host memory (R286), and the structures that the device reads under key 0.
-/

namespace Sys2Proof.Machine

/-- Memory in one canonical form: addresses strictly rising, no entry equal to 0, which an unlisted address reads as
(DESIGN CHOICE, log 1). -/
abbrev Memory := List Host.Cell

/-- The canonical form. -/
def Memory.wf (m : Memory) : Bool := SMap.wf (0 : Byte) m

/-- The byte at an address. -/
def Memory.read (m : Memory) (a : Nat) : Byte := SMap.get (0 : Byte) m a

/-- Writes one byte. -/
def Memory.write (m : Memory) (a : Nat) (b : Byte) : Memory := SMap.set (0 : Byte) m a b

/-- A physical address is 52 bits (R286), and one past the last wraps (DESIGN CHOICE, log 37). -/
def wrapPa (a : Nat) : Nat := a % 2 ^ 52

/-- The bytes of main memory: 12 stacks of 96 GiB (R1, R2). -/
def memorySize : Nat := 12 * (96 * 2 ^ 30)

/-- The physical window of the management port, 256 MiB of device memory (R340). -/
def mgmtPa : Nat := 0xFFF000000000
def mgmtSize : Nat := 0x10000000

/-- Main memory stands behind an address. The spec gives the amount and no map: the window of R340 is memory, and the rest stands
from address 0 up (DESIGN CHOICE, log 37). -/
def hasMemory (a : Nat) : Bool :=
  decide (a < memorySize - mgmtSize) || (decide (mgmtPa ≤ a) && decide (a < mgmtPa + mgmtSize))

/-- The key tag of an address space or page: its identifier and the generation of the key loaded there (R296). -/
def State.keyTag (s : State) (key : Nat) : Nat := key + 4096 * SMap.get 0 s.pkg.keyGen key

/-- A frame is 192 KiB (R314), and an address lies in it. -/
def frameSize : Nat := 196608
def Veil.covers (v : Veil) (a : Nat) : Bool := decide ((a + 2 ^ 52 - v.base) % 2 ^ 52 < frameSize)

/-- The frame whose bytes, as the device wrote them, still stand at an address. -/
def State.veilAt (s : State) (a : Nat) : Option Veil := s.veils.find? fun v => v.covers a && !SMap.get false v.since a

/-- The device writes a frame: nothing says what its bytes then are (R314), and its granules are whole (R374). -/
def State.writeFrame (s : State) (pa : Nat) : State :=
  let v : Veil := ⟨wrapPa pa, s.time, []⟩
  { s with veils := v :: s.veils.filter (fun w => w.base != v.base), poison := s.poison.filter fun p => !v.covers (16 * p.1) }

/-- The byte that a read under a key returns: the byte written, if its writer held the same key (R296). Nothing says what an
address without memory reads as: a free value (log 37). -/
def State.readPa (s : State) (key a : Nat) : Byte :=
  let a := wrapPa a
  if !hasMemory a then Config.holeByte s.time a else
  let t := SMap.get 0 s.memTag a
  let b := Memory.read s.mem a
  match s.veilAt a with
  | some v => Config.frameByte (s.keyTag key) v.date a
  | none => if t = s.keyTag key then b else Config.foreignByte (s.keyTag key) t a b

/-- Writes a byte under a key; where no memory stands nothing holds it. -/
def State.writePa (s : State) (key a : Nat) (b : Byte) : State :=
  let a := wrapPa a
  if !hasMemory a then s else
  { s with mem := Memory.write s.mem a b, memTag := SMap.set 0 s.memTag a (s.keyTag key),
           veils := s.veils.map fun v => if v.covers a then { v with since := SMap.set false v.since a true } else v }

/-- A byte of host memory (R286). -/
def State.readHost (s : State) (a : Nat) : Byte := Memory.read s.hostMem (wrapPa a)
def State.writeHost (s : State) (a : Nat) (b : Byte) : State :=
  { s with hostMem := Memory.write s.hostMem (wrapPa a) b }

/-- Writes bytes at consecutive addresses. -/
def State.writePas (s : State) (key : Nat) : Nat → List Byte → State
  | _, [] => s
  | a, b :: bs => (s.writePa key a b).writePas key (a + 1) bs

/-- n bytes from an address. -/
def State.readPas (s : State) (key a n : Nat) : List Byte := (List.range n).map fun i => s.readPa key (a + i)

/-- The little-endian value of n bytes under a key (R5). -/
def State.readNat (s : State) (key a n : Nat) : Nat := leNat (s.readPas key a n)

/-- Writes the n bytes of a value. -/
def State.writeNat (s : State) (key a n x : Nat) : State := s.writePas key a (leBytes n x)

/-- Whether the granule of an address is poisoned (R374). -/
def State.poisoned (s : State) (a : Nat) : Bool := SMap.get false s.poison (wrapPa a / 16)

def State.setPoison (s : State) (a : Nat) (p : Bool) : State :=
  { s with poison := SMap.set false s.poison (wrapPa a / 16) p }

/-- Bits lo up to lo + n - 1 of a number. -/
def field (x lo n : Nat) : Nat := x / 2 ^ lo % 2 ^ n

/-- A set bit as a number. -/
def bit01 (b : Bool) : Nat := if b then 1 else 0

/-! ## Page tables (R284-R287) -/

/-- The record of an address space (R284): root and key, none when every translation is fatal. -/
def State.asRecord (s : State) (asid : BitVec 16) : Option (Nat × Nat) :=
  let x := s.readNat 0 (s.pkg.asTable + 32 * asid.toNat) 32
  if field x 0 1 = 1 ∧ field x 1 11 = 0 ∧ field x 52 12 = 0 ∧ field x 76 180 = 0 then
    some (field x 12 40 * 4096, field x 64 12)
  else none

/-- The outcome of a walk (R287). -/
inductive WalkRes where
  | ok (t : Trans)
  | missing
  | fatal
  deriving DecidableEq, Repr

/-- The virtual address bits that index a level: the low bit and the count (R285). -/
def walkIndex : Nat → Nat × Nat
  | 0 => (48, 8)
  | 1 => (39, 9)
  | 2 => (30, 9)
  | 3 => (21, 9)
  | _ => (16, 5)

/-- Walks from a level, with the levels left below it (R285, R286). -/
def State.walkFrom (s : State) (key va : Nat) : Nat → Nat → Nat → WalkRes
  | fuel, lvl, tbl =>
    let ix := walkIndex lvl
    let e := s.readNat 0 (tbl + 8 * field va ix.1 ix.2) 8
    let size := 2 ^ ix.1
    let pa := field e 12 40 * 4096
    if field e 0 1 = 0 then .missing
    else if field e 1 1 = 1 then
      let pk := field e 52 12
      if lvl < 2 ∨ pa % size ≠ 0 ∨ (field e 4 1 = 1 ∧ field e 5 1 = 1) ∨ field e 7 5 ≠ 0 ∨ field e 6 1 = 1 then .fatal
      else .ok { pa := pa, size := size, w := field e 2 1 == 1, x := field e 3 1 == 1, repl := field e 4 1 == 1,
                 host := field e 5 1 == 1, key := if pk = 0 then key else pk }
    else if lvl = 4 ∨ field e 2 10 ≠ 0 ∨ field e 52 12 ≠ 0 then .fatal
    else match fuel with
      | 0 => .fatal
      | fuel + 1 => s.walkFrom key va fuel (lvl + 1) pa

/-- The walk of a virtual address in an address space, whatever permission is asked (R287). -/
def State.walk (s : State) (asid : BitVec 16) (va : Nat) : WalkRes :=
  if 2 ^ 56 ≤ va then .fatal
  else match s.asRecord asid with
    | none => .fatal
    | some (root, key) => s.walkFrom key va 5 0 root

/-- The permission an access needs (R287): a missing translation where the leaf lacks it. -/
def needsW : FaultKind → Bool
  | .openRw | .amo | .departure | .red | .engWrite => true
  | _ => false

def permits (k : FaultKind) (t : Trans) : Bool :=
  match k with
  | .fetch => t.x
  | k => !needsW k || t.w

/-- The walk for an access. -/
def State.walkFor (s : State) (k : FaultKind) (asid : BitVec 16) (va : Nat) : WalkRes :=
  match s.walk asid va with
  | .ok t => if permits k t then .ok t else .missing
  | r => r

/-- The physical address of a virtual one in its page, in the replica of a die (R217). -/
def Trans.addr (t : Trans) (die va : Nat) : Nat := t.pa + va % t.size + (if t.repl then die * t.size else 0)

/-- Reads and writes bytes through a translation. -/
def State.readTr (s : State) (t : Trans) (die va : Nat) : Byte :=
  if t.host then s.readHost (t.addr die va) else s.readPa t.key (t.addr die va)
def State.writeTr (s : State) (t : Trans) (die va : Nat) (b : Byte) : State :=
  if t.host then s.writeHost (t.addr die va) b else s.writePa t.key (t.addr die va) b

/-! ## Key-value descriptors and walks (R299-R301) -/

/-- A key-value space (R299). -/
structure KvDesc where
  psize : Nat
  rowb : Nat
  rp : Nat
  nseq : Nat
  nlayer : Nat
  nhead : Nat
  fpdie : Nat
  fppkg : Nat
  root : Nat
  deriving DecidableEq, Repr

/-- The descriptor that 64 bytes hold; none when it is invalid. -/
def KvDesc.ofNat (x : Nat) : Option KvDesc :=
  let rowb := field x 8 10
  let rp := (rowb + 127) / 128 * 128
  let psize := 16384 * 2 ^ field x 0 2
  if field x 0 2 = 3 ∨ field x 2 6 ≠ 0 ∨ field x 18 2 ≠ 0 ∨ field x 60 4 ≠ 0 ∨ field x 84 44 ≠ 0 ∨ field x 180 332 ≠ 0 ∨
      rowb = 0 ∨ 512 < rowb ∨ psize < 128 * rp then none
  else some { psize := psize, rowb := rowb, rp := rp, nseq := field x 32 20, nlayer := field x 52 8,
              nhead := field x 64 8, fpdie := field x 72 2, fppkg := field x 74 10, root := field x 128 52 }

/-- The descriptor at KVROOT. -/
def State.kvDesc (s : State) (root : DWord) : Option KvDesc := KvDesc.ofNat (s.readNat 0 root.toNat 64)

/-- Fields of a coordinate pair (R298). -/
def kvChunk (c : Nat) : Nat := field c 0 2
def kvKv (c : Nat) : Nat := field c 2 1
def kvToken (c : Nat) : Nat := field c 3 24
def kvHead (c : Nat) : Nat := field c 27 8
def kvLayer (c : Nat) : Nat := field c 35 8
def kvSeq (c : Nat) : Nat := field c 43 20
/-- A coordinate pair from its parts. -/
def kvCoord (seq layer head kv token chunk : Nat) : Nat :=
  chunk + 4 * kv + 8 * token + 2 ^ 27 * head + 2 ^ 35 * layer + 2 ^ 43 * seq
/-- A page of the space: the pair without CHUNK, KV and TOKEN bits 5:0. -/
def kvPage (c : Nat) : Nat := c / 2 ^ 9

/-- SEQ, LAYER and HEAD lie in the space (R299). -/
def KvDesc.hasSeq (d : KvDesc) (c : Nat) : Bool :=
  decide (kvSeq c ≤ d.nseq) && decide (kvLayer c ≤ d.nlayer) && decide (kvHead c ≤ d.nhead)
def KvDesc.inRange (d : KvDesc) (c : Nat) : Bool := d.hasSeq c && decide (kvChunk c * 128 < d.rp)

/-- How far a key-value walk comes (R300, R301): the address of the level-1 entry once the upper levels are valid, and
of the page entry once level 1 is. -/
inductive KvWalkRes where
  | upperMissing
  | fatal
  | level1 (l1 : Nat)
  | page (l1 pe : Nat)
  deriving DecidableEq, Repr

/-- The sequence record: valid, reserved bits clear, table, valid length. -/
def State.kvSeqRec (s : State) (d : KvDesc) (seq : Nat) : Option (Option (Nat × Nat)) :=
  let x := s.readNat 0 (d.root + 32 * seq) 32
  if field x 0 1 = 0 then some none
  else if field x 1 5 ≠ 0 ∨ field x 52 12 ≠ 0 ∨ field x 88 168 ≠ 0 then none
  else some (some (field x 6 46 * 64, field x 64 24))

/-- A layer-head or level-0 entry: none when fatal, some none when invalid. -/
def State.kvDir (s : State) (a : Nat) : Option (Option Nat) :=
  let x := s.readNat 0 a 8
  if field x 0 1 = 0 then some none
  else if field x 1 11 ≠ 0 ∨ field x 52 12 ≠ 0 then none
  else some (some (field x 12 40 * 4096))

/-- The walk down to the page entry's address. -/
def State.kvWalkTo (s : State) (d : KvDesc) (c : Nat) : KvWalkRes :=
  match s.kvSeqRec d (kvSeq c) with
  | none => .fatal
  | some none => .upperMissing
  | some (some (lhtb, _)) =>
    match s.kvDir (lhtb + 8 * (kvLayer c * (d.nhead + 1) + kvHead c)) with
    | none => .fatal
    | some none => .upperMissing
    | some (some dir0) =>
      match s.kvDir (dir0 + 8 * field (kvToken c) 15 9) with
      | none => .fatal
      | some none => .upperMissing
      | some (some dir1) =>
        let l1 := dir1 + 8 * field (kvToken c) 6 9
        let x := s.readNat 0 l1 8
        if field x 0 1 = 0 then .level1 l1
        else if field x 1 3 ≠ 0 ∨ field x 52 12 ≠ 0 then .fatal
        else .page l1 (field x 4 48 * 16)

/-- The page entry at an address (R301). -/
structure KvPe where
  p : Bool
  w : Bool
  pois : Bool
  frame : Nat
  refcnt : Nat
  key : Nat
  rsvd : Bool
  deriving DecidableEq, Repr

def State.kvPe (s : State) (pe : Nat) : KvPe :=
  let x := s.readNat 0 pe 16
  { p := field x 0 1 == 1, w := field x 1 1 == 1, pois := field x 2 1 == 1, frame := field x 12 40 * 4096,
    refcnt := field x 64 16, key := field x 80 12, rsvd := field x 3 9 != 0 || field x 52 12 != 0 || field x 92 36 != 0 }

/-- The outcome of a key-value walk that needs W or not (R301). -/
inductive KvRes where
  | ok (e : KvEntry)
  | missing
  | fatal
  deriving DecidableEq, Repr

def State.kvWalkIn (s : State) (d? : Option KvDesc) (asid : BitVec 16) (c : Nat) (w : Bool) : KvRes :=
  match d? with
  | none => .fatal
  | some d =>
    match s.kvWalkTo d c with
    | .upperMissing => .missing
    | .level1 _ => .missing
    | .fatal => .fatal
    | .page _ pe =>
      let e := s.kvPe pe
      if !e.p then .missing
      else if e.rsvd || e.pois || decide (e.refcnt = 0) || decide (e.frame % d.psize ≠ 0) then .fatal
      else if w && !e.w then .missing
      else .ok { asid := asid, page := kvPage c, pe := pe, frame := e.frame, w := e.w, key := e.key }

def State.kvWalk (s : State) (asid : BitVec 16) (root : DWord) (c : Nat) (w : Bool) : KvRes := s.kvWalkIn (s.kvDesc root) asid c w

/-- The physical line of a key-value coordinate in its page (R302). -/
def KvDesc.lineOff (d : KvDesc) (c : Nat) : Nat :=
  kvKv c * (d.psize / 2) + kvToken c % 64 * d.rp + 128 * kvChunk c

end Sys2Proof.Machine
end

