-- ==== Sys2Proof/Machine/Access.lean ====
section
/-!
DEFINITION. Lane masks, program counters and the accessors of the state through which every meaning reads and writes.
-/

namespace Sys2Proof.Machine

/-! ## Lanes -/

/-- The 32 lanes, ascending. -/
def lanes : List Nat := List.range 32

/-- The lanes of a mask, ascending. -/
def maskLanes (m : Mask) : List Nat := lanes.filter fun i => m.getLsbD i

/-- The mask of the lanes that satisfy a test. -/
def maskOf (p : Nat → Bool) : Mask := lanes.foldr (fun i m => if p i then m ||| BitVec.twoPow 32 i else m) 0

/-- The lowest lane of a mask (R24). -/
def lowest (m : Mask) : Option Nat := (maskLanes m).head?

/-- The lowest lane, 0 for an empty mask. -/
def low (m : Mask) : Nat := (lowest m).getD 0

/-- The number of lanes in a mask. -/
def popcount (m : Mask) : Nat := (maskLanes m).length

/-! ## Program counters (R37, R41) -/

def pcSlot (pc : DWord) : Nat := (pc.extractLsb' 0 3).toNat
def pcLine (pc : DWord) : Nat := (pc.extractLsb' 6 50).toNat
/-- The address of a program counter's fetch line. -/
def pcAddr (pc : DWord) : Nat := 64 * pcLine pc
/-- The program counter of a slot of a line, whose number wraps modulo 2^50. -/
def mkPc (line slot : Nat) : DWord := BitVec.ofNat 64 (line % 2 ^ 50 * 64 + slot)
/-- Fall-through (R41). -/
def nextPc (pc : DWord) : DWord := if pcSlot pc < 4 then pc + 1 else mkPc (pcLine pc + 1) 0
/-- A value in the LPC layout (R37). -/
def pcValid (x : DWord) : Bool :=
  decide (pcSlot x ≤ 4) && x.extractLsb' 3 3 == 0 && x.extractLsb' 56 8 == 0
/-- The target of a direct branch (R54). -/
def branchPc (pc : DWord) (slot : Fin 5) (toff : BitVec 37) : DWord :=
  mkPc ((pcLine pc + (toff.toInt % 2 ^ 50).toNat)) slot.val

/-! ## Teams, groups and streams -/

def State.team (s : State) (t : Nat) : Team := SMap.get .off s.teams t
def State.setTeam (s : State) (t : Nat) (x : Team) : State := { s with teams := SMap.set .off s.teams t x }
def State.modTeam (s : State) (t : Nat) (f : Team → Team) : State := s.setTeam t (f (s.team t))

def Team.group (t : Team) (g : Nat) : Group := SMap.get .off t.st.groups g
def Team.setGroup (t : Team) (g : Nat) (x : Group) : Team :=
  { t with st := { t.st with groups := SMap.set .off t.st.groups g x } }

def State.group (s : State) (t g : Nat) : Group := (s.team t).group g
def State.setGroup (s : State) (t g : Nat) (x : Group) : State := s.setTeam t ((s.team t).setGroup g x)
def State.modGroup (s : State) (t g : Nat) (f : Group → Group) : State := s.setGroup t g (f (s.group t g))

def Group.stream (g : Group) (x : Bool) : Stream := if x then g.c.x else g.c.a
def Group.setStream (g : Group) (x : Bool) (st : Stream) : Group := { g with c := if x then { g.c with x := st } else { g.c with a := st } }

def State.stream (s : State) (id : StreamId) : Stream := (s.group id.team id.grp).stream id.x
def State.setStream (s : State) (id : StreamId) (st : Stream) : State :=
  s.setGroup id.team id.grp ((s.group id.team id.grp).setStream id.x st)
def State.modStream (s : State) (id : StreamId) (f : Stream → Stream) : State := s.setStream id (f (s.stream id))

/-- The teams that are resident, by number. -/
def State.liveTeams (s : State) : List Nat := (s.teams.filter fun p => p.2.live).map (·.1)
/-- The groups that a team holds, ended ones included. -/
def Team.groupIds (t : Team) : List Nat := t.st.groups.map (·.1)
/-- The groups that have not ended. -/
def Team.liveGroups (t : Team) : List Nat := (t.st.groups.filter fun p => p.2.live).map (·.1)
/-- The streams of a group. -/
def Group.sides (g : Group) : List Bool := if g.split then [false, true] else [false]

/-- Cores are numbered die by die (R34). -/
def coreKey (c : CoreId) : Nat := c.die * 192 + c.core
def State.core (s : State) (c : CoreId) : Core := SMap.get .off s.cores (coreKey c)
def State.setCore (s : State) (c : CoreId) (x : Core) : State := { s with cores := SMap.set .off s.cores (coreKey c) x }
def State.modCore (s : State) (c : CoreId) (f : Core → Core) : State := s.setCore c (f (s.core c))
def Team.coreId (t : Team) : CoreId := ⟨t.die, t.core⟩
def State.teamCore (s : State) (t : Nat) : CoreId := (s.team t).coreId
/-- The bench of a core (R34). -/
def benchKey (c : CoreId) : Nat := c.die * 12 + c.core / 16
def State.bench (s : State) (b : Nat) : Bench := SMap.get .off s.benches b
def State.setBench (s : State) (b : Nat) (x : Bench) : State := { s with benches := SMap.set .off s.benches b x }
def State.modBench (s : State) (b : Nat) (f : Bench → Bench) : State := s.setBench b (f (s.bench b))
def State.die (s : State) (d : Nat) : Die := SMap.get .off s.dies d
def State.setDie (s : State) (d : Nat) (x : Die) : State := { s with dies := SMap.set .off s.dies d x }
def State.modDie (s : State) (d : Nat) (f : Die → Die) : State := s.setDie d (f (s.die d))

def State.modPkg (s : State) (f : Pkg → Pkg) : State := { s with pkg := f s.pkg }
/-- A signal to the kiln cores: 1 heat on a die, 2 a refused restore, 3 a restore that failed, with the area, 4 an error of a unit, with the number of
its groups (R341, R373, R393, R394). -/
def State.tellKiln (s : State) (kind value : Nat) : State := s.modPkg fun p => { p with kiln := p.kiln ++ [(kind, value)] }

/-- The live teams of a core, by number. -/
def State.coreTeams (s : State) (c : CoreId) : List Nat :=
  (s.teams.filter fun p => p.2.live && p.2.coreId == c).map (·.1)

/-! ## The issuing stream -/

def Cursor.id (c : Cursor) : StreamId := ⟨c.team, c.grp, c.x⟩
/-- The issuing stream, its group and its team. -/
def State.here (s : State) : Stream := s.stream s.cur.id
def State.modHere (s : State) (f : Stream → Stream) : State := s.modStream s.cur.id f
def State.myGroup (s : State) : Group := s.group s.cur.team s.cur.grp
def State.modMyGroup (s : State) (f : Group → Group) : State := s.modGroup s.cur.team s.cur.grp f
def State.myTeam (s : State) : Team := s.team s.cur.team
def State.modMyTeam (s : State) (f : Team → Team) : State := s.modTeam s.cur.team f
def State.myCore (s : State) : CoreId := s.myTeam.coreId
def State.myAsid (s : State) : BitVec 16 := s.myGroup.c.asid

/-- A fresh number. -/
def State.fresh (s : State) : Nat × State := (s.nextId, { s with nextId := s.nextId + 1 })

/-- A value that the manual leaves open (log 4). -/
def State.free (s : State) : Word × State := (Config.freeWord s.freeCtr, { s with freeCtr := s.freeCtr + 1 })

/-- Puts an event on the agenda, due after n cycles. -/
def State.later (s : State) (n : Nat) (e : Instr) : State := { s with agenda := s.agenda ++ [(s.time + n, e)] }

/-- Puts an event that waits for something back on the agenda, so late that those that wait leave time for the rest
(log 2). -/
def State.again (s : State) (e : Instr) : State := s.later (16 + 4 * s.agenda.length) e

/-- The instruction holds: nothing has happened, its lanes stay and are not ready (R158). -/
def State.hold (s : State) : State := { s with held := true }

/-! ## Lanes of a stream -/

def Stream.pc (st : Stream) (i : Nat) : DWord := SMap.get 0 st.lpc i
def Stream.setPc (st : Stream) (i : Nat) (pc : DWord) : Stream := { st with lpc := SMap.set 0 st.lpc i pc }
/-- Sets the program counter of every lane of a mask. -/
def Stream.setPcs (st : Stream) (m : Mask) (f : Nat → DWord) : Stream :=
  (maskLanes m).foldl (fun st i => st.setPc i (f i)) st
def Stream.holdOf (st : Stream) (i : Nat) : Option Hold := SMap.get none st.hold i
def Stream.setHold (st : Stream) (i : Nat) (h : Option Hold) : Stream := { st with hold := SMap.set none st.hold i h }
def Stream.setHolds (st : Stream) (m : Mask) (h : Option Hold) : Stream :=
  (maskLanes m).foldl (fun st i => st.setHold i h) st
/-- The lanes held for one reason. -/
def Stream.heldFor (st : Stream) (h : Hold) : Mask := maskOf fun i => st.holdOf i == some h
/-- The active lanes that stand at a program counter. -/
def Stream.lanesAt (st : Stream) (pc : DWord) : Mask := maskOf fun i => st.amask.getLsbD i && st.pc i == pc

/-- Predicates (R26): p0 is true and keeps no write. -/
def Stream.pred (st : Stream) (p : Fin 8) : Mask := if p.val = 0 then BitVec.allOnes 32 else SMap.get 0 st.p p.val
def Stream.setPred (st : Stream) (p : Fin 8) (ex val : Mask) : Stream :=
  if p.val = 0 then st
  else { st with p := SMap.set 0 st.p p.val ((SMap.get 0 st.p p.val &&& ~~~ex) ||| (val &&& ex)) }

/-- The lanes a guard selects among the issuing lanes (R48). -/
def Stream.guarded (st : Stream) (g : Guard) (iss : Mask) : Mask :=
  iss &&& (if g.neg then ~~~st.pred g.p else st.pred g.p)

/-- In handler and routine mode, v176 to v191 name the handler bank (R25). -/
def Stream.banked (st : Stream) (r : Nat) : Bool := decide (st.mode ≠ .normal) && decide (176 ≤ r)

/-- A lane of a vector register (R21, R25). -/
def Stream.vec (st : Stream) (r i : Nat) : Word :=
  if st.banked r then SMap.get 0 st.bank (32 * r + i) else SMap.get 0 st.v (32 * r + i)
def Stream.setVec (st : Stream) (r i : Nat) (w : Word) : Stream :=
  if st.banked r then { st with bank := SMap.set 0 st.bank (32 * r + i) w }
  else { st with v := SMap.set 0 st.v (32 * r + i) w }
/-- Writes a vector register in the lanes of a mask. -/
def Stream.setVecs (st : Stream) (r : Nat) (m : Mask) (f : Nat → Word) : Stream :=
  (maskLanes m).foldl (fun st i => st.setVec r i (f i)) st
def Stream.uni (st : Stream) (r : Nat) : Word := SMap.get 0 st.u r
def Stream.setUni (st : Stream) (r : Nat) (w : Word) : Stream := { st with u := SMap.set 0 st.u r w }

/-- The stochastic generator of a lane, kept XOR its start value (R97). -/
def genStart (i : Nat) : Word := 0x9E3779B9 ^^^ BitVec.ofNat 32 (i * 0x01010101)
def Stream.genOf (st : Stream) (i : Nat) : Word := SMap.get 0 st.gen i ^^^ genStart i
def Stream.setGen (st : Stream) (i : Nat) (w : Word) : Stream := { st with gen := SMap.set 0 st.gen i (w ^^^ genStart i) }

/-! ## Line registers, accumulators -/

def Group.line (g : Group) (n : Nat) : LineReg := SMap.get .empty g.c.lines n
def Group.setLine (g : Group) (n : Nat) (l : LineReg) : Group := { g with c.lines := SMap.set .empty g.c.lines n l }

/-- The m of an empty row is -inf (R27). -/
def negInf : Word := 0xFF800000
def accKey (a r c : Nat) : Nat := a * 4096 + r * 64 + c
def Group.acc (g : Group) (a r c : Nat) : Word := SMap.get 0 g.c.accs (accKey a r c)
def Group.rowM (g : Group) (a r : Nat) : Word := SMap.get negInf g.c.accM (a * 64 + r)
def Group.rowHi (g : Group) (a r : Nat) : Word := SMap.get 0 g.c.accHi (a * 64 + r)
def Group.rowLo (g : Group) (a r : Nat) : Word := SMap.get 0 g.c.accLo (a * 64 + r)
def Group.setAcc (g : Group) (a r c : Nat) (w : Word) : Group := { g with c.accs := SMap.set 0 g.c.accs (accKey a r c) w }
def Group.setRow (g : Group) (a r : Nat) (m hi lo : Word) : Group :=
  { g with c.accM := SMap.set negInf g.c.accM (a * 64 + r) m, c.accHi := SMap.set 0 g.c.accHi (a * 64 + r) hi,
           c.accLo := SMap.set 0 g.c.accLo (a * 64 + r) lo }

def Group.decl (g : Group) (cv : Nat) : Mask := SMap.get 0 g.c.cvDecl cv
def Group.signed (g : Group) (cv : Nat) : Mask := SMap.get 0 g.c.cvSigned cv
def Group.setDecl (g : Group) (cv : Nat) (m : Mask) : Group := { g with c.cvDecl := SMap.set 0 g.c.cvDecl cv m }
def Group.setSigned (g : Group) (cv : Nat) (m : Mask) : Group := { g with c.cvSigned := SMap.set 0 g.c.cvSigned cv m }
def Group.enrolled (g : Group) (r : Nat) : Mask := SMap.get 0 g.c.rjEnr r
def Group.arrived (g : Group) (r : Nat) : Mask := SMap.get 0 g.c.rjArr r

/-! ## Queues -/

def Group.queue (g : Group) (q : Nat) : List QEntry := SMap.get [] g.c.queues q
def Group.setQueue (g : Group) (q : Nat) (l : List QEntry) : Group := { g with c.queues := SMap.set [] g.c.queues q l }

/-! ## Special registers that devices set -/

/-- TCAUSE (R343). -/
def causeWord (code info : Nat) (nest : Bool) : Word :=
  BitVec.ofNat 32 (code % 256 + info % 256 * 256 + (if nest then 65536 else 0))

/-- ORs flags into FSTAT (R103). -/
def Stream.raise (st : Stream) (f : Flags) : Stream := { st with fstat := st.fstat ||| f.setWidth 32 }

end Sys2Proof.Machine
end

