-- ==== Sys2Proof/Machine/Lines.lean ====
section
/-!
DEFINITION. The line store and store queues of a core (R200-R206), the scratchpad (R199, R250), the entry of writes into
the lehr (R205) and checkpoints (R212, R365, R366).
-/

namespace Sys2Proof.Machine

/-! ## Keys of line-store entries (R201) -/

def globalKey (asid : BitVec 16) (line : Nat) : Nat := 4 * (asid.toNat * 2 ^ 49 + line)
/-- A line of the cluster window as the members of one cluster see it: two clusters of one address space name different
scratchpads by one address (R228; DEDUCED, log 35). -/
def windowKey (cluster : Nat) (asid : BitVec 16) (line : Nat) : Nat :=
  4 * ((cluster + 1) * 2 ^ 65 + asid.toNat * 2 ^ 49 + line)
def scratchKey (team line : Nat) : Nat := 4 * (team * 2 ^ 14 + line) + 1
def kvKey (asid : BitVec 16) (coord : Nat) : Nat := 4 * (asid.toNat * 2 ^ 63 + coord) + 2
/-- A trailing group's own entry for a line (R377). -/
def shadowKey (team key : Nat) : Nat := 4 * (key * 2 ^ 64 + team) + 3

/-- The line that a shadow entry stands for. -/
def shadowed (key : Nat) : Nat := key / 4 / 2 ^ 64

def keyKind (key : Nat) : Nat := key % 4
/-- ASID and address of a global key. -/
def keyAsid (key : Nat) : BitVec 16 := BitVec.ofNat 16 (key / 4 / 2 ^ 49)
def keyVa (key : Nat) : Nat := key / 4 % 2 ^ 49 * 128

/-! ## Entries -/

/-- The latest write to a byte of an entry, in the line store's order. -/
def Entry.lastWrite (e : Entry) (i : Nat) : Option LWrite :=
  e.log.reverse.find? fun w => w.bytes.any fun p => p.1 == i

/-- The byte of a write at an offset. -/
def LWrite.byte (w : LWrite) (i : Nat) : Byte := ((w.bytes.reverse.find? fun p => p.1 == i).map (·.2)).getD 0

/-- The value of a byte (R202, R368). -/
def Entry.byte (e : Entry) (i : Nat) : Byte :=
  match e.lastWrite i with
  | some w => w.byte i
  | none => SMap.get 0 e.base i

/-- A byte is dirty when its latest write has not left (R368). -/
def Entry.dirtyAt (e : Entry) (i : Nat) : Bool :=
  match e.lastWrite i with
  | some w => !w.left.contains i
  | none => false

def lineOffsets : List Nat := List.range 128

/-- The offsets of the dirty bytes. -/
def Entry.dirty (e : Entry) : List Nat := lineOffsets.filter e.dirtyAt

/-- Poison of one granule, as its writes follow each other: poisoned, and the bytes stored since (R375). -/
def granuleStep (g : Nat) (x : Bool × List Nat) (w : LWrite) : Bool × List Nat :=
  if w.pois.contains g then (true, [])
  else
    let cov := x.2 ++ (w.bytes.map (·.1)).filter fun i => i / 16 == g && !x.2.contains i
    if cov.eraseDups.length = 16 then (false, cov.eraseDups) else (x.1, cov.eraseDups)

/-- Whether a granule of an entry is poisoned (R374, R375). -/
def Entry.poisonAt (e : Entry) (g : Nat) : Bool := (e.log.foldl (granuleStep g) (e.basePois.contains g, [])).1

/-- Granules wholly stored since the fetch: a departure clears their poison (R375). -/
def Entry.cleanAt (e : Entry) (g : Nat) : Bool :=
  !e.poisonAt g && (List.range 16).all fun j => (e.lastWrite (16 * g + j)).isSome

/-- What a refresh keeps of a log: the writes under a departure that still waits, the writes that have not left; with the bytes
that have left and been applied, and those that wait. -/
structure LogCut where
  under : List LWrite
  live : List LWrite
  gone : List Nat
  out : List Nat

/-- Divides a log, its newest write first, by a test of which of the bytes that have left still wait (R203, R368). -/
def undeparted (waits : LWrite → Nat → Bool) : List LWrite → LogCut
  | [] => ⟨[], [], [], []⟩
  | w :: l =>
    let r := undeparted waits l
    let bs := w.bytes.filter fun p => !r.gone.contains p.1 && !w.left.contains p.1
    let low := bs.filter fun p => r.out.contains p.1
    let top := bs.filter fun p => !r.out.contains p.1
    { under := if low.isEmpty then r.under else { w with bytes := low, pois := [] } :: r.under
      live := if top.isEmpty && w.pois.isEmpty then r.live else { w with bytes := top } :: r.live
      gone := r.gone ++ w.left.filter fun i => !waits w i
      out := r.out ++ w.left.filter fun i => waits w i }

/-- A refresh: every byte that is not dirty takes the value read, dirty bytes keep the core's stores (R203); the core's
departures that still wait come before those and after what was read, over the kept writes that they hide (R368). -/
def Entry.refresh (e : Entry) (b : SMap Byte) (pois : List Nat) (waiting : List LWrite) (date : Nat) : Entry :=
  let k := undeparted (fun w i => waiting.any fun v => v.team == w.team && v.date == w.date && v.bytes.any fun p => p.1 == i) e.log
  { e with held := true, base := b, basePois := pois, fetched := date, valid := true, log := k.under ++ waiting ++ k.live }

def Core.entry (c : Core) (key : Nat) : Entry := SMap.get .off c.lines key
def Core.setEntry (c : Core) (key : Nat) (e : Entry) : Core := { c with lines := SMap.set .off c.lines key e }
def State.entry (s : State) (c : CoreId) (key : Nat) : Entry := (s.core c).entry key
def State.modEntry (s : State) (c : CoreId) (key : Nat) (f : Entry → Entry) : State :=
  s.modCore c fun k => k.setEntry key (f (k.entry key))

/-- Names of watched lines (R196): physical memory lines, host lines; a scratchpad line is named by its key. -/
def memWatch (pa : Nat) : Nat := 4 * (wrapPa pa / 128)
def hostWatch (pa : Nat) : Nat := 4 * (wrapPa pa / 128) + 2

/-- The name that a watch stands for now: one of a MODE 1 register whose page was not mapped is named 4 * key + 3, and takes
the line's name once it is. -/
def State.watchName (s : State) (die k : Nat) : Nat :=
  if k % 4 ≠ 3 then k
  else match s.walk (keyAsid (k / 4)) (keyVa (k / 4)) with
    | .ok t => if t.host then hostWatch (t.addr die (keyVa (k / 4))) else memWatch (t.addr die (keyVa (k / 4)))
    | _ => k

/-- The streams that watch a line. -/
def State.watchers (s : State) (k : Nat) : List StreamId :=
  s.teams.flatMap fun p => p.2.st.groups.flatMap fun q =>
    q.2.sides.filterMap fun x =>
      match (q.2.stream x).watch with
      | some w => if s.watchName p.2.die w.ln = k then some ⟨p.1, q.1, x⟩ else none
      | none => none

/-- A write has reached a line at its partition or line store: its date, and the watches it wakes (R196). -/
def State.noteWrite (s : State) (k : Nat) : State :=
  (s.watchers k).foldl (fun s id => s.later 0 (.lwaitWake id 0)) { s with wrote := SMap.set 0 s.wrote k s.time }

/-- Puts a write at the end of an entry's order (R202). -/
def State.storeLine (s : State) (c : CoreId) (key : Nat) (w : LWrite) : State :=
  let s := s.modEntry c key fun e => { e with log := e.log ++ [w], held := true }
  if keyKind key = 1 then s.noteWrite key else s

/-- A write by a group's own store. -/
def LWrite.mk' (team grp date : Nat) (multi : Bool) (bytes : Bytes) : LWrite :=
  { team := team, grp := grp, date := date, bytes := bytes, multi := multi, pois := [], left := [] }

/-! ## Scratchpad -/

/-- Byte of a team's scratchpad. -/
def State.spad (s : State) (t off : Nat) : Byte := (s.entry (s.teamCore t) (scratchKey t (off / 128))).byte (off % 128)
def State.spadNat (s : State) (t off n : Nat) : Nat := leNat ((List.range n).map fun i => s.spad t (off + i))
def State.spadPoison (s : State) (t off : Nat) : Bool :=
  (s.entry (s.teamCore t) (scratchKey t (off / 128))).poisonAt (off % 128 / 16)

/-- The bytes at consecutive offsets, split by line. -/
def splitLines (off : Nat) (bs : List Byte) : List (Nat × Bytes) :=
  let all := bs.zipIdx.map fun p => (off + p.2, p.1)
  ((all.map fun p => p.1 / 128).eraseDups).map fun l =>
    (l, (all.filter fun p => p.1 / 128 == l).map fun p => (p.1 % 128, p.2))

/-- Lands bytes in a scratchpad, with the granules they poison given by offset (R251, R375). -/
def State.spadWrite (s : State) (t team grp date off : Nat) (bs : List Byte) (pois : List Nat) : State :=
  (splitLines off bs).foldl (fun s p =>
    s.storeLine (s.teamCore t) (scratchKey t p.1)
      { LWrite.mk' team grp date false p.2 with
        left := p.2.map (·.1)
        pois := (pois.filter fun a => a / 128 == p.1).map fun a => a % 128 / 16 }) s

/-- A scratchpad line is present when no landing is pending (R250). -/
def State.present (s : State) (t line : Nat) : Bool := (s.entry (s.teamCore t) (scratchKey t line)).pend == 0
def State.presentRange (s : State) (t off n : Nat) : Bool :=
  n == 0 || (List.range ((off + n - 1) / 128 - off / 128 + 1)).all fun k => s.present t (off / 128 + k)

/-- Raises or lowers the pending count of a scratchpad line. -/
def State.addPend (s : State) (t line k : Nat) : State :=
  s.modEntry (s.teamCore t) (scratchKey t line) fun e => { e with pend := e.pend + k, held := true }
def State.subPend (s : State) (t line k : Nat) : State :=
  s.modEntry (s.teamCore t) (scratchKey t line) fun e => { e with pend := e.pend - k }

/-! ## Store queues (R200, R202) -/

/-- Moves the stores of a stream's queue into the line store, in order. -/
def State.drainQueue (s : State) (id : StreamId) : State :=
  let q := (s.stream id).sq
  let s := s.modStream id fun st => { st with sq := [] }
  q.foldl (fun s w => s.storeLine (s.teamCore id.team) w.line (LWrite.mk' id.team id.grp s.time w.multi w.bytes)) s

def State.drainGroup (s : State) (t g : Nat) : State := (s.drainQueue ⟨t, g, false⟩).drainQueue ⟨t, g, true⟩

/-- The value of a byte as a stream reads it: its own youngest queued store, else the line store (R202). -/
def State.readLine (s : State) (id : StreamId) (key i : Nat) : Byte :=
  match (s.stream id).sq.reverse.find? fun w => w.line == key && w.bytes.any fun p => p.1 == i with
  | some w => ((w.bytes.reverse.find? fun p => p.1 == i).map (·.2)).getD 0
  | none => (s.entry (s.teamCore id.team) key).byte i

/-! ## The lehr (R205, R212) -/

/-- A team whose group is a trailing one: its checkpoints are its pair's (R379). -/
def Team.trails (t : Team) : Bool := t.st.groups.any fun q => match q.2.dmr with | .trailer _ => true | _ => false

/-- Asks for a checkpoint of a team: the event takes it once no long-latency result is outstanding (R366). -/
def State.askCkpt (s : State) (t : Nat) : State :=
  if (s.team t).wantCkpt || (s.team t).trails then s
  else (s.modTeam t fun x => { x with wantCkpt := true }).later 1 (.checkpointTaken t)

/-- The smallest pages that a write touches, by address space, key-value line or member's scratchpad (log 26). -/
def memPage (asid : BitVec 16) (va : Nat) : Nat := asid.toNat * 2 ^ 48 + va / 65536
def LWork.pages : LWork → List Nat
  | .depart asid va dest _ _ _ =>
    match dest with
    | .mem => [memPage asid va]
    | .kv pa _ => [2 ^ 64 + pa / 128]
    | .window t off => [2 ^ 65 + t * 2 ^ 14 + off / 128]
  | .update _ asid va _ _ _ => [memPage asid va.toNat]
  | .engine _ _ asid o => (o.glob.map fun p => memPage asid p.1).eraseDups
  | _ => []

/-- The entries of the lehr that a write takes (R205): an engine unit has one for each line that its bytes fall in, and they are
released and applied together, since the unit is written indivisibly (R251). -/
def lineCount (bs : Bytes) : Nat := ((bs.map fun p => p.1 / 128).eraseDups).length
def LWork.entries : LWork → Nat
  | .engine _ _ _ o => lineCount o.glob
  | _ => 1

/-- The teams whose stores a write carries. -/
def LehrEntry.owners (e : LehrEntry) : List Nat :=
  e.team :: (match e.work with
    | .depart _ _ _ _ bytes _ => bytes.map (·.team)
    | _ => [])

/-- The teams that have writes in a core's lehr. -/
def Core.lehrOwners (c : Core) : List Nat := (c.lehr.flatMap (·.owners)).eraseDups

/-- A write leaves after one that the lehr still holds where both carry stores of one team, or go to one page: a team's writes are
released in order of entry, and no byte takes an older store after a newer one (R202, R212, R213). -/
def LehrEntry.after (e h : LehrEntry) : Bool :=
  decide (h.date ≤ e.date) && ((e.owners.any fun t => h.owners.contains t) || e.work.pages.any fun p => h.work.pages.contains p)

/-- The writes of a list that leave now, in order of entry, behind those that are held. -/
def leaving (ok : LehrEntry → Bool) : List LehrEntry → List LehrEntry → List LehrEntry
  | _, [] => []
  | held, e :: l =>
    if e.sent then leaving ok held l
    else if ok e && !held.any fun h => e.after h then e :: leaving ok held l
    else leaving ok (e :: held) l

/-- Every byte of a write is covered by a safe checkpoint of its team (R212, R369). -/
def State.coveredBySafe (s : State) (e : LehrEntry) : Bool :=
  decide (e.date ≤ (s.team e.team).safe.date) && (match e.work with
    | .depart _ _ _ _ bytes _ => bytes.all fun b => decide (b.date ≤ (s.team b.team).safe.date)
    | _ => true)

/-- A departure has left from an entry of the line store. -/
def LWork.leftFrom (w : LWork) (key : Nat) (e : Entry) : Bool :=
  match w with
  | .depart asid va dest _ _ _ =>
    match dest with
    | .kv pa _ => (e.kv.map (·.1)) == some pa
    | .window t off => e.win == some (t, off)
    | .mem => keyKind key == 0 && e.win.isNone && asid == keyAsid key && va == keyVa key
  | _ => false

/-- The event that applies a write once the lehr has released it. -/
def LehrEntry.event (c : CoreId) (e : LehrEntry) : Instr :=
  match e.work with
  | .depart _ _ _ _ _ _ => .departureApplied c e.id
  | .engine _ _ _ _ => .departureApplied c e.id
  | .update _ _ _ _ _ _ => .frUpdateMerge c e.id
  | .land _ _ _ _ _ => .cmcastLanding c e.id
  | .cond g op n x => .gcondUpdate ⟨⟨e.team, e.grp, e.x⟩, e.id, g⟩ op n x
  | .sig g n => .gsigArrival g n
  | .cred _ t g _ => .credContribution t g

/-- Messages, which are gone once they leave the lehr. -/
def LehrEntry.isMessage (e : LehrEntry) : Bool :=
  match e.work with
  | .cond _ _ _ _ => true
  | .sig _ _ => true
  | .cred _ _ _ _ => true
  | _ => false

/-- The lehr releases nothing while the cullet log is full or the package is too hot (R295, R341). -/
def State.withheld (s : State) (c : CoreId) : Bool := decide (128 ≤ (s.core c).cullet.length) || (s.die c.die).throttled

/-- The lehr releases the covered writes of a core, in order of entry (R212). GCOND, GSIG and CRED are messages, which leave
it at once. -/
def State.releaseLehr (s : State) (c : CoreId) : State :=
  let go := if s.withheld c then [] else leaving s.coveredBySafe [] (s.core c).lehr
  let n := s.nextId
  let leave := fun (e : LehrEntry) =>
    match go.findIdx? fun x => x.id == e.id with
    | none => some e
    | some k => if e.isMessage then none else some { e with sent := true, rank := n + k }
  let s := { s.modCore c fun k => { k with lehr := k.lehr.filterMap leave } with nextId := n + go.length }
  go.foldl (fun s e => s.later 1 (e.event c)) s

/-- The date of the call at a depth of a group (R318), 0 outside any. -/
def Group.callAt (g : Group) (d : Nat) : Nat := if d = 0 then 0 else ((g.frames[g.depth - d]?).map (·.since)).getD 0

/-- The entries of a core's lehr that are taken (R205). -/
def Core.lehrUsed (c : Core) : Nat := (c.lehr.map fun e => e.work.entries).sum

/-- Puts a write into the lehr of a core; each team whose stores it carries has its age timer, and seven eighths full, the lehr asks
for checkpoints (R212). -/
def State.enterLehr (s : State) (c : CoreId) (team grp : Nat) (x : Bool) (date : Nat) (w : LWork) : State :=
  let (id, s) := s.fresh
  let e : LehrEntry := { id := id, team := team, grp := grp, x := x, call := (s.group team grp).callAt (s.group team grp).depth,
                         date := date, sent := false, rank := 0, work := w }
  let young := e.owners.eraseDups.filter fun t => !(s.core c).lehr.any fun h => h.owners.contains t && !h.sent
  let s := young.foldl (fun s t => s.later 1024 (.lehrAgeTimeout t s.time)) s
  let s := s.modCore c fun k => { k with lehr := k.lehr ++ [e] }
  let s := if date < s.time then s.releaseLehr c else s
  if 3584 ≤ (s.core c).lehrUsed then (s.core c).lehrOwners.foldl (fun s t => s.askCkpt t) s else s

/-- The lehr holds 4,096 entries (R205); a unit of more lines than that takes the whole of it (DESIGN CHOICE, log 6). -/
def State.lehrFree (s : State) (c : CoreId) (n : Nat) : Bool := decide ((s.core c).lehrUsed + min n 4096 ≤ 4096)

/-- The lehr takes n entries of an instruction: they find room, and do not make it seven eighths full while a team whose checkpoint
that asks for has one pending, for which the instruction holds (R205, R212, R366). -/
def State.lehrTakes (s : State) (c : CoreId) (team n : Nat) : Bool :=
  s.lehrFree c n && (n == 0 || decide ((s.core c).lehrUsed + n < 3584) ||
    (team :: (s.core c).lehrOwners).all fun t => (s.team t).pending.isNone)

/-! ### The cluster window (R228) -/

def windowBase : Nat := 0x00FFFFFFFE000000
def inWindow (a : Nat) : Bool := decide (windowBase ≤ a) && decide (a < windowBase + 0x2000000)
def windowMember (a : Nat) : Nat := (a - windowBase) / 0x200000
def windowOff (a : Nat) : Nat := (a - windowBase) % 0x200000

/-- The cluster a team belongs to, once complete. -/
def State.clusterOf (s : State) (t : Nat) : Option Cluster :=
  match (s.team t).cluster with
  | none => none
  | some (id, _) => ((s.bench (benchKey (s.teamCore t))).clusters.find? fun c => c.id == id && c.complete)

/-- The team that a cluster number names. -/
def Cluster.member (c : Cluster) (m : Nat) : Option Nat := SMap.get none c.members m

/-- The numbers and teams of the current members, ascending. -/
def Cluster.current (c : Cluster) : List (Nat × Nat) := c.members.filterMap fun p => p.2.map fun t => (p.1, t)

/-- Where a departure of an entry goes, whoever causes it (R207). -/
def Entry.dest (e : Entry) : DDest :=
  match e.kv, e.win with
  | some (pa, k), _ => .kv pa k
  | none, some (t, off) => .window t off
  | none, none => .mem

/-- The key of the entry that a team's line of an address binds (R201). -/
def State.lineKey (s : State) (t : Nat) (asid : BitVec 16) (line : Nat) : Nat :=
  if inWindow (128 * line) then windowKey (((s.clusterOf t).map (·.id)).getD 0) asid line else globalKey asid line

/-- Marks the dirty bytes of an entry as having left. -/
def Entry.leave (e : Entry) : Entry :=
  let d := e.dirty
  { e with log := e.log.zipIdx.map fun p =>
      let later := e.log.drop (p.2 + 1)
      let mine := d.filter fun i => (p.1.bytes.any fun b => b.1 == i) &&
        !later.any fun w => w.bytes.any fun b => b.1 == i
      { p.1 with left := p.1.left ++ mine } }

/-- The dirty bytes of an entry as a departure carries them, and those of them that MST stored (R232). -/
def Entry.departing (e : Entry) : List DByte :=
  e.dirty.filterMap fun i => (e.lastWrite i).map fun w => ⟨i, w.byte i, w.team, w.date⟩
def Entry.casting (e : Entry) : List DByte :=
  e.dirty.filterMap fun i => (e.lastWrite i).bind fun w => if w.multi then some ⟨i, w.byte i, w.team, w.date⟩ else none

/-- The granules that bytes cover whole. -/
def wholeGranules (bs : List DByte) : List Nat :=
  (List.range 8).filter fun g => (List.range 16).all fun j => bs.any fun b => b.off == 16 * g + j

/-- The entries of the lehr that a line's departure takes: one write of its dirty bytes, and one for each other die's replica
of the page where MST stored some (R205, R232). A scratchpad line's bytes have nowhere to leave to, and a trailing group's
never leave (R229, R377). -/
def State.departNeed (s : State) (c : CoreId) (key : Nat) : Nat :=
  if keyKind key = 1 ∨ keyKind key = 3 then 0
  else
    let e := s.entry c key
    if e.dirty.isEmpty then 0 else if e.casting.isEmpty then 1 else 4

/-- Dirty bytes of a line leave the core (R205, R206): a departure enters the lehr. The writer's die's replica takes all of
them in one write; where the page is not replicated the others' find no replica (R217, R232). -/
def State.depart (s : State) (c : CoreId) (team grp : Nat) (key : Nat) : State :=
  if s.departNeed c key = 0 then s
  else
    let e := s.entry c key
    let out := fun (s : State) (rep : Option Nat) (bs : List DByte) (clean : List Nat) =>
      s.enterLehr c team grp false s.time (.depart (keyAsid key) (keyVa key) e.dest rep bs clean)
    let s := out (s.modEntry c key Entry.leave) none e.departing ((List.range 8).filter e.cleanAt)
    if e.casting.isEmpty then s
    else ([0, 1, 2, 3].filter fun d => d != c.die).foldl (fun s d => out s (some d) e.casting (wholeGranules e.casting)) s

/-- Every dirty line of a core leaves, as far as the lehr has room (R205, R210). -/
def State.departAll (s : State) (c : CoreId) (team grp : Nat) : State :=
  ((s.core c).lines.map (·.1)).foldl (fun s key =>
    if s.lehrFree c (s.departNeed c key) then s.depart c team grp key else s) s

/-- No dirty byte is left that has to leave a core. -/
def State.allOut (s : State) (c : CoreId) : Bool := (s.core c).lines.all fun p => s.departNeed c p.1 == 0

/-! ## Checkpoints (R212, R364-R366) -/

/-- A stream has a long-latency result outstanding (R366). -/
def Stream.busy (st : Stream) : Bool := !st.pend.isEmpty || !st.amos.isEmpty

/-- A long-latency result that holds a checkpoint back: the result of a CRED does not. -/
def Stream.unwritten (st : Stream) : Bool := (st.pend.any fun p => p.cred.isNone) || !st.amos.isEmpty

/-- The contexts of a group: its present one, and those that calls hide (R318). -/
def Group.ctxs (g : Group) : List GCtx := g.c :: g.frames.map fun f => f.ctx

/-- A stream's restart from a checkpoint is no checked transfer; only a program counter that is in no layout is looked at (R42). -/
def Stream.unchecked (st : Stream) : Stream := { st with check := st.check && (maskLanes st.amask).any fun i => !pcValid (st.pc i) }
def GCtx.unchecked (c : GCtx) : GCtx := { c with a := c.a.unchecked, x := c.x.unchecked }
def Group.unchecked (g : Group) : Group :=
  { g with c := g.c.unchecked, frames := g.frames.map fun f => { f with ctx := f.ctx.unchecked } }

/-- A long-latency result of the team, of a stream that a call hides as well, holds its checkpoint back. -/
def Team.busy (t : Team) : Bool := t.st.groups.any fun p => p.2.ctxs.any fun c => c.a.unwritten || c.x.unwritten

/-- Takes a checkpoint of a team, safe after 256 cycles. -/
def State.takeCkpt (s : State) (t : Nat) : State :=
  (s.modTeam t fun x => { x with pending := some ⟨x.st, s.time⟩, wantCkpt := false }).later 256 (.checkpointSafe t s.time)

/-- A release inside the team is on its way to its groups. -/
def State.teamReleasing (s : State) (t : Nat) : Bool :=
  s.agenda.any fun e => match e.2 with | .barrierRelease u _ .team _ _ => u == t | _ => false

/-- A checkpoint of a team can be taken now: none is pending, and no long-latency result is outstanding (R366). -/
def State.ckptFree (s : State) (t : Nat) : Bool :=
  let x := s.team t
  x.pending.isNone && !x.busy && x.blocked.isNone && !s.teamReleasing t

/-- A checkpoint taken after a date has become safe. -/
def State.safeSince (s : State) (t date : Nat) : Bool := decide (date ≤ (s.team t).safe.date)

end Sys2Proof.Machine
end

