-- ==== Sys2Proof/Machine/Translate.lean ====
section
/-!
DEFINITION. Translation of accesses (R288, R289, R303): TLBs, the walks that are outstanding, page faults and their
homes (R290-R294). An access that misses registers a walk and is taken up again after it (log 6).
-/

namespace Sys2Proof.Machine

/-- The outcome of looking an access up: a translation, a wait (the walk is registered), or fatal. -/
inductive Tx where
  | ok (t : Trans)
  | wait
  | fatal
  deriving DecidableEq, Repr

/-- A TLB entry covers an address of an address space. -/
def TlbEntry.covers (e : TlbEntry) (asid : BitVec 16) (va : Nat) : Bool :=
  e.asid == asid && decide (e.vbase ≤ va) && decide (va < e.vbase + e.tr.size)

/-- The translation a core holds: its own TLB, then its bench's (R288). -/
def State.tlbFind (s : State) (c : CoreId) (asid : BitVec 16) (va : Nat) : Option Trans :=
  match (s.core c).tlb.find? fun e => e.covers asid va with
  | some e => some e.tr
  | none => ((s.bench (benchKey c)).tlb.find? fun e => e.covers asid va).map (·.tr)

/-- Puts a translation into a core's TLB of 256 entries and its bench's of 8,192, dropping the oldest (DESIGN CHOICE,
log 6). -/
def State.tlbPut (s : State) (c : CoreId) (asid : BitVec 16) (va : Nat) (t : Trans) : State :=
  let e : TlbEntry := ⟨asid, va / t.size * t.size, t⟩
  let keep := fun (l : List TlbEntry) => l.filter fun x => !x.covers asid va
  let s := s.modCore c fun k => { k with tlb := (e :: keep k.tlb).take 256 }
  s.modBench (benchKey c) fun b => { b with tlb := (e :: keep b.tlb).take 8192 }

/-- The walk that an access has registered. -/
def State.walkOf (s : State) (c : CoreId) (k : FaultKind) (asid : BitVec 16) (addr : DWord) (grp who : Nat) : Option Walk :=
  (s.core c).walks.find? fun w =>
    w.phase != .over && w.need == k && w.asid == asid && w.addr == addr && w.grp == grp && w.who == who

def State.dropWalk (s : State) (c : CoreId) (id : Nat) : State :=
  s.modCore c fun k => { k with walks := k.walks.filter fun w => w.id != id }

def State.modWalk (s : State) (c : CoreId) (id : Nat) (f : Walk → Walk) : State :=
  s.modCore c fun k => { k with walks := k.walks.map fun w => if w.id = id then f w else w }

/-- A walker is free (R1, R288, R303): of the 32 walks that a core may have outstanding, and of its die's 128 general or 64
key-value walkers. A walk that waits for the answer of its fault holds none (DEDUCED, log 44). -/
def State.walkerFree (s : State) (c : CoreId) (kv : Bool) : Bool :=
  let busy := fun (k : Core) => k.walks.filter fun w => w.phase == .walking
  let die : Nat := ((s.cores.filter fun p => p.1 / 192 == c.die).map fun p => ((busy p.2).filter fun w => w.kv == kv).length).sum
  decide ((busy (s.core c)).length < 32) && decide (die < if kv then 64 else 128)

/-- The record of a walk is on its way to a ring of this package. -/
def State.recordFlies (s : State) (c : CoreId) (id : Nat) : Bool :=
  (s.agenda.any fun p => match p.2 with | .faultRecord _ k n _ => k == c && n == id | _ => false) ||
    s.dies.any fun d => d.2.waiting.any fun r => r.1 == c && r.2.1 == id

/-- The access of a walk is gone; a record of it that is on its way stays so (R372). -/
def State.forgetWalk (s : State) (c : CoreId) (w : Walk) : State :=
  if w.phase = .faulted ∧ s.recordFlies c w.id then s.modWalk c w.id fun w => { w with phase := .over } else s.dropWalk c w.id

/-- A walk begins again where a walker is free, or waits for one (R1, R288). -/
def State.walkAgain (s : State) (c : CoreId) (kv : Bool) : WPhase := if s.walkerFree c kv then .walking else .answered

/-- Registers a walk once a walker is free; the walker finishes it as an event (R288). -/
def State.startWalk (s : State) (c : CoreId) (kv : Bool) (k : FaultKind) (asid : BitVec 16) (addr : DWord) (lanes : Mask)
    (grp : Nat) (ticket : Word) (who : Nat) (root : DWord) (logged : Bool) : State :=
  if !s.walkerFree c kv then s
  else
  let (id, s) := s.fresh
  let w : Walk := ⟨id, kv, asid, addr, k, lanes, grp, ticket, who, root, .walking, 0, logged, false, 0⟩
  let s := s.modCore c fun x => { x with walks := x.walks ++ [w] }
  s.later 1 (if kv then .kvWalk c id else .pageWalk c id)

/-- Looks up an access to a virtual address (R287, R288). A fatal answer is consumed. -/
def State.translate (s : State) (c : CoreId) (k : FaultKind) (asid : BitVec 16) (va : Nat) (lanes : Mask) (grp : Nat)
    (ticket : Word) (who : Nat) (logged : Bool) : Tx × State :=
  if 2 ^ 56 ≤ va then (.fatal, s)
  else
    let addr : DWord := BitVec.ofNat 64 va
    match s.walkOf c k asid addr grp who with
    | some w =>
      match w.phase with
      | .fatal => (.fatal, s.dropWalk c w.id)
      | _ => (.wait, s)
    | none =>
      match s.tlbFind c asid va with
      | some t =>
        if permits k t then (.ok t, s)
        else (.wait, s.startWalk c false k asid addr lanes grp ticket who 0 logged)
      | none => (.wait, s.startWalk c false k asid addr lanes grp ticket who 0 logged)

/-- A cached key-value translation (R303). -/
def State.kvFind (s : State) (c : CoreId) (asid : BitVec 16) (page : Nat) : Option KvEntry :=
  (s.core c).kvc.find? fun e => e.asid == asid && e.page == page

def State.kvPut (s : State) (c : CoreId) (e : KvEntry) : State :=
  s.modCore c fun k => { k with kvc := (e :: k.kvc.filter fun x => !(x.asid == e.asid && x.page == e.page)).take 256 }

/-- The outcome of looking up a key-value coordinate. -/
inductive KvTx where
  | ok (e : KvEntry)
  | wait
  | fatal
  deriving DecidableEq, Repr

/-- Looks up a key-value access (R301, R303); w when W is needed. -/
def State.kvTranslate (s : State) (c : CoreId) (k : FaultKind) (asid : BitVec 16) (root : DWord) (coord : Nat)
    (lanes : Mask) (grp : Nat) (ticket : Word) (who : Nat) : KvTx × State :=
  let w := k == .kvRw
  let addr : DWord := BitVec.ofNat 64 coord
  match s.walkOf c k asid addr grp who with
  | some x =>
    match x.phase with
    | .fatal => (.fatal, s.dropWalk c x.id)
    | _ => (.wait, s)
  | none =>
    match s.kvFind c asid (kvPage coord) with
    | some e =>
      if w && !e.w then (.wait, s.startWalk c true k asid addr lanes grp ticket who root false) else (.ok e, s)
    | none => (.wait, s.startWalk c true k asid addr lanes grp ticket who root false)

/-! ## Homes of faults (R290) -/

/-- Whether an ownership entry matches a fault; its home package and die. -/
def ownMatch (x : BitVec 256) (asid : BitVec 16) (va : Nat) : Option (Nat × Nat) :=
  let n := x.toNat
  if field n 0 1 = 1 ∧ field n 2 10 = 0 ∧ field n 24 8 = 0 ∧ field n 48 16 = 0 ∧ field n 99 29 = 0 ∧ field n 163 93 = 0 ∧
      (field n 1 1 = 1 ∨ field n 32 16 = asid.toNat) ∧ field n 64 35 ≤ va / 2 ^ 21 ∧ va / 2 ^ 21 ≤ field n 128 35 then
    some (field n 12 10, field n 22 2)
  else none

/-- The home of a page fault: the first match in ascending index, else the faulting die. -/
def State.faultHome (s : State) (die : Nat) (asid : BitVec 16) (va : Nat) : Nat × Nat :=
  ((List.range 256).findSome? fun i => ownMatch (SMap.get 0 s.pkg.own i) asid va).getD (s.pkg.id, die)

/-! ## The egress governor (R338) -/

/-- Keys of the counters: flits sent by a lane in its present microsecond, that microsecond, and the flits dropped (log 30). -/
def sentKey (lane : Nat) : Nat := lane
def usecKey (lane : Nat) : Nat := 128 + lane
def droppedKey : Nat := 256

def State.egressAt (s : State) (k : Nat) : Nat := SMap.get 0 s.pkg.egressCount k
def State.setEgress (s : State) (l : List (Nat × Nat)) : State :=
  s.modPkg fun p => { p with egressCount := l.foldl (fun m x => SMap.set 0 m x.1 x.2) p.egressCount }

/-- The signed set holds a package or a group. -/
def State.mayReach (s : State) (dst : Nat) (isGroup : Bool) : Bool :=
  (if isGroup then s.pkg.egress.groups else s.pkg.egress.packages).contains dst

/-- Flits outside the set are dropped and counted. -/
def State.dropFlits (s : State) (n : Nat) : State := s.setEgress [(droppedKey, s.egressAt droppedKey + n)]

/-- The flits that a lane has sent in the present microsecond of 800 cycles. -/
def State.laneSent (s : State) (lane : Nat) : Nat :=
  if s.egressAt (usecKey lane) = s.time / 800 then s.egressAt (sentKey lane) else 0

/-- A lane's rate lets n more flits leave at most: as many as are left of the microsecond. -/
def State.laneLeft (s : State) (lane n : Nat) : Nat := min n (s.pkg.egress.rates.getD lane 0 - s.laneSent lane)

/-- Flits leave by a lane. -/
def State.sendFlits (s : State) (lane n : Nat) : State :=
  s.setEgress [(usecKey lane, s.time / 800), (sentKey lane, s.laneSent lane + n)]

/-- The plane that carries a chunk: the first working one from chunk mod 72 (R332). -/
def State.planeOf (s : State) (chunk : Nat) : Option Nat :=
  ((List.range 72).map fun k => (chunk + k) % 72).find? fun p => !SMap.get false s.pkg.planes p

/-- A flit to another package goes to the egress governor: a fault record or a request of an engine is one, the first chunk of a
transfer of its own (R332 and R338 give it no lane; DEDUCED, log 30). -/
def State.sendOut (s : State) (pkg : Nat) : State :=
  match s.planeOf 0 with
  | none => s
  | some lane => s.later 1 (.egressFlit lane pkg false)

/-- Flits to a package wait at the egress governor. -/
def State.outgoing (s : State) (pkg : Nat) : Bool := s.agenda.any fun e => match e.2 with
  | .egressFlit _ p false => p == pkg
  | _ => false

/-! ## Pages (R285, R292) -/

/-- The page that an address lies in: the leaf's, or the smallest page where no leaf is reached (DEDUCED, log 26). -/
def State.pageOf (s : State) (asid : BitVec 16) (va : Nat) : Nat × Nat :=
  let z := match s.walk asid va with
    | .ok t => t.size
    | _ => 65536
  (va / z * z, z)
def State.samePage (s : State) (asid : BitVec 16) (x y : Nat) : Bool :=
  let p := s.pageOf asid x
  decide (p.1 ≤ y) && decide (y < p.1 + p.2)

/-! ## Reading and writing through translations -/

/-- The distinct pages that a span touches, at the smallest page size (R285). -/
def pagesOf (va n : Nat) : List Nat :=
  if n = 0 then [] else (List.range ((va + n - 1) / 65536 - va / 65536 + 1)).map fun k => (va / 65536 + k) * 65536

/-- Translates every page of a span for an engine or a table read: the first that is not translated decides. -/
def State.translateSpan (s : State) (c : CoreId) (k : FaultKind) (asid : BitVec 16) (va n : Nat) (lanes : Mask) (grp : Nat)
    (ticket : Word) (who : Nat) : Tx × State :=
  (pagesOf va n).foldl (fun (r : Tx × State) p =>
    match r.1 with
    | .ok _ => r.2.translate c k asid (max p va) lanes grp ticket who false
    | _ => r) (.ok ⟨0, 1, false, false, false, false, 0⟩, s)

/-- A byte of a translated span. -/
def State.readVa (s : State) (c : CoreId) (asid : BitVec 16) (va : Nat) : Byte :=
  match s.tlbFind c asid va with
  | some t => s.readTr t c.die va
  | none => 0

/-- The bytes of a translated span. -/
def State.readVas (s : State) (c : CoreId) (asid : BitVec 16) (va n : Nat) : List Byte :=
  (List.range n).map fun i => s.readVa c asid (va + i)

/-- Poison of the granules a translated span touches. -/
def State.vaPoison (s : State) (c : CoreId) (asid : BitVec 16) (va n : Nat) : Bool :=
  (List.range n).any fun i =>
    match s.tlbFind c asid (va + i) with
    | some t => !t.host && s.poisoned (t.addr c.die (va + i))
    | none => false

/-! ## Writes at points of coherence -/

/-- The poison of a granule after bytes of it are written: poisoned by the write, clean when all of it is written clean,
else as it was (R375). -/
def State.settlePoison (s : State) (die : Nat) (t : Trans) (bs : Bytes) (bad : Bool) (va : Nat) : State :=
  if t.host then s
  else if bad then s.setPoison (t.addr die va) true
  else if (List.range 16).all fun i => bs.any fun p => p.1 == va / 16 * 16 + i then s.setPoison (t.addr die va) false
  else s

/-- Writes bytes at virtual addresses through their translations, with the granules that they poison, in a die's replica of
a replicated page (R207, R217); watches of the lines are woken. -/
def State.putBytes (s : State) (die : Nat) (tr : Nat → Option Trans) (bs : Bytes) (pois : List Nat) : State :=
  let s1 := bs.foldl (fun s p => match tr p.1 with | some t => s.writeTr t die p.1 p.2 | none => s) s
  let grs := (bs.map fun p => p.1 / 16 * 16).eraseDups
  let s2 := grs.foldl (fun s a => match tr a with | some t => s.settlePoison die t bs (pois.contains a) a | none => s) s1
  let lines := (bs.map fun p => p.1 / 128 * 128).eraseDups
  lines.foldl (fun s a => match tr a with
    | some t => s.noteWrite (if t.host then hostWatch (t.addr die a) else memWatch (t.addr die a))
    | none => s) s2

end Sys2Proof.Machine
end

