-- ==== Sys2Proof/Machine/Far.lean ====
section
/-!
DEFINITION. Read-modify-writes at the memory partitions (R215, R235, R278, R280) and the flight of returning AMOs (R236,
R294, R371), and the consumption of poison (R374).
-/

namespace Sys2Proof.Machine

/-- The bytes a far operation works on (R235). -/
def farBytes : FarOp → Nat
  | .dadd => 8
  | _ => 4

/-- Signed reading of a word. -/
def sInt (w : Word) : Int := w.toInt

/-- The new value of a far operation (R235): c holds the operand; for .cas the compare value in bits 31:0 and the new
value in bits 63:32. -/
def farNew (op : FarOp) (old c : DWord) : DWord :=
  let o : Word := old.setWidth 32
  let x : Word := c.setWidth 32
  let w : Word :=
    match op with
    | .add => o + x
    | .fadd => BitVec.ofNat 32 (fpAdd f32 .rn false o.toNat x.toNat).1
    | .min => if sInt x < sInt o then x else o
    | .max => if sInt o < sInt x then x else o
    | .and => o &&& x
    | .or => o ||| x
    | .xor => o ^^^ x
    | .xchg => x
    | .cas => if o = x then c.extractLsb' 32 32 else o
    | .dadd => 0
  match op with
  | .dadd => BitVec.ofNat 64 (fpAdd f64 .rn false old.toNat c.toNat).1
  | _ => w.setWidth 64

/-- The group combiner of SCAT (R278). -/
def farComb (op : FarOp) (v c : DWord) : DWord :=
  match op with
  | .xchg => c
  | op => farNew op v c

/-- The partition that owns a physical line: lines are dealt in turn (DESIGN CHOICE, log 7). -/
def partitionOf (pa : Nat) : Nat := pa / 128 % 192

/-- The combining buffer of a partition after a merge at a word: least recently merged first, 512 entries (R280). -/
def mergeOrder (l : List Nat) (w : Nat) : List Nat :=
  let l := (l.filter fun x => x != w) ++ [w]
  if 512 < l.length then l.drop 1 else l

/-- Performs a far operation at a translated address: the old value, and the memory after it. -/
def State.farApply (s : State) (die : Nat) (t : Trans) (va : Nat) (op : FarOp) (c : DWord) (merge : Bool) :
    DWord × State :=
  let n := farBytes op
  let a := t.addr die va
  let old : DWord := BitVec.ofNat 64 (s.readNat t.key a n)
  let s' := s.writeNat t.key a n (farNew op old c).toNat
  let p := partitionOf a
  (old, if merge then { s' with combine := SMap.set [] s'.combine p (mergeOrder (SMap.get [] s'.combine p) (a / 4)) }
        else s')

/-- The granule of a far operation is poisoned. -/
def State.farPoison (s : State) (die : Nat) (t : Trans) (va : Nat) : Bool := s.poisoned (t.addr die va)

/-! ## Poison (R374) -/

/-- A team consumes a poisoned granule for the first time: it remembers it and is rolled back. -/
def State.consume (s : State) (t granule : Nat) : State :=
  (s.modTeam t fun x => { x with poisoned := (granule :: x.poisoned).take 16, blocked := some s.time }).later 0 (.rollback t)

/-- Names of granules: of physical memory, and of a scratchpad line by its key. -/
def memGranule (pa : Nat) : Nat := 2 * (wrapPa pa / 16)
def padGranule (key g : Nat) : Nat := 2 * (8 * key + g) + 1

/-! ## Long-latency results (R49, R132) -/

/-- Keys of the registers that a pending result covers. -/
def vecKey (r : Nat) : Nat := 4 * r
def uniKey (r : Nat) : Nat := 4 * r + 1
def predKey (p : Nat) : Nat := 4 * p + 2
def accRegKey (a : Nat) : Nat := 4 * a + 3

/-- Writes one long-latency result. -/
def RegWrite.apply (g : Group) (x : Bool) : RegWrite → Group
  | .vec r i w => g.setStream x { g.stream x with v := SMap.set 0 (g.stream x).v (32 * r + i) w }
  | .bank r i w => g.setStream x { g.stream x with bank := SMap.set 0 (g.stream x).bank (32 * r + i) w }
  | .uni r w => g.setStream x ((g.stream x).setUni r w)
  | .fstat f => g.setStream x { g.stream x with fstat := (g.stream x).fstat ||| f }
  | .queue q id l =>
    g.setQueue q ((g.queue q).map fun e => if e.id = id then { e with lanes := l, ready := true } else e)
  | .acc a e m hi lo =>
    let drop := fun (n : Nat) {β : Type} (l : SMap β) => l.filter fun p => p.1 / n != a
    let put := fun {β : Type} [DecidableEq β] (d : β) (n : Nat) (old new : SMap β) =>
      new.foldl (fun l p => SMap.set d l (a * n + p.1) p.2) (drop n old)
    { g with c.accs := put 0 4096 g.c.accs e, c.accM := put negInf 64 g.c.accM m, c.accHi := put 0 64 g.c.accHi hi,
             c.accLo := put 0 64 g.c.accLo lo }

/-- Writes a pending result and takes it off the stream. -/
def State.writePending (s : State) (id : StreamId) (p : Pending) : State :=
  let s := s.modGroup id.team id.grp fun g => p.writes.foldl (fun g w => w.apply g id.x) g
  s.modStream id fun st => { st with pend := st.pend.filter fun q => q.id != p.id }

/-- The recalls that a key-value result waits for have been applied, and the walks that it retried have walked (R308). -/
def State.pendReady (s : State) (p : Pending) : Bool :=
  match p.after with
  | none => true
  | some r => s.cores.all fun c =>
      ((c.2.lehr ++ c.2.cullet.flatMap (·.entries)).all fun e => decide (e.id < r.1) || decide (r.2 ≤ e.id)) &&
      c.2.walks.all fun w => decide (w.id < r.1) || decide (r.2 ≤ w.id) || w.phase != .walking

/-! ## Returning AMOs (R236, R294) -/

/-- Sends one lane of an AMO if its translation allows. -/
def State.amoLane (s : State) (id : StreamId) (a : Amo) (l : AmoLane) : AmoLane × State :=
  if l.back || l.bad then (l, s)
  else
    let c := s.teamCore id.team
    let here := fun (k : AmoLane) => s.samePage a.asid l.addr.toNat k.addr.toNat
    let touch := maskOf fun i => a.lanes.any fun k => k.lane == i && here k
    let lead := (((a.lanes.find? here).map (·.addr)).getD l.addr).toNat
    let r := s.translate c .amo a.asid lead touch id.grp 0 a.id false
    match r.1 with
    | .wait => (l, r.2)
    | .fatal => ({ l with bad := true }, r.2)
    | .ok t =>
      if t.host then ({ l with bad := true }, r.2)
      else
        let pa := t.addr c.die l.addr.toNat
        let x := r.2.farApply c.die t l.addr.toNat a.op l.c false
        ({ l with back := true, old := x.1, pois := if s.poisoned pa then some (memGranule pa) else none },
          x.2.noteWrite (memWatch pa))

/-- Sends the lanes of an AMO, ascending; a page that is fatal is fatal for each of its lanes: `bad` holds an address of each
that has been met. -/
def State.amoLanes (s : State) (id : StreamId) (a : Amo) : List Nat → List AmoLane → List AmoLane × State
  | _, [] => ([], s)
  | bad, l :: ls =>
    let page := l.addr.toNat
    let r := if bad.any (fun p => s.samePage a.asid p page) then ({ l with bad := true }, s) else s.amoLane id a l
    let q := r.2.amoLanes id a (if r.1.bad then page :: bad else bad) ls
    (r.1 :: q.1, q.2)

/-- The words that a lane's old value gives. -/
def Amo.words (a : Amo) (l : AmoLane) : List Word :=
  if a.op = .dadd then [l.old.setWidth 32, l.old.extractLsb' 32 32] else [l.old.setWidth 32]

/-- The register writes that an AMO's lanes make. -/
def Amo.writes (a : Amo) : List RegWrite :=
  let good := a.lanes.filter fun l => l.back
  match a.dst with
  | .v r => good.flatMap fun l => (a.words l).zipIdx.map fun p =>
      if a.bank && decide (176 ≤ r.val + p.2) then .bank (r.val + p.2) l.lane p.1 else .vec (r.val + p.2) l.lane p.1
  | .s r =>
    match good with
    | [] => []
    | l :: _ => (a.words l).zipIdx.map fun p => .uni (r.val + p.2) p.1
  | .q r => [.queue r.val a.id (good.foldl (fun m l => SMap.set 0 m l.lane (l.old.setWidth 32)) [])]
  | .z => []

/-- Keeps an AMO's returned values in its journal record, with the poison that came with them (R371, R375). -/
def State.journalAmo (s : State) (id : StreamId) (a : Amo) : State :=
  let word := fun (l : Nat × DWord × DWord × List Word) =>
    match (a.lanes.find? fun k => k.lane == l.1 && k.back) with
    | some k => (l.1, l.2.1, l.2.2.1, a.words k)
    | none => l
  s.modTeam id.team fun t => { t with journal := t.journal.map fun j =>
    if j.id = a.id then
      { j with lanes := j.lanes.map word, pois := a.lanes.filterMap fun k => k.pois.map fun g => (k.lane, g) }
    else j }

/-- Sends what can be sent of an AMO, in place. -/
def State.sendAmo (s : State) (id : StreamId) (a : Amo) : Amo × State :=
  let r := s.amoLanes id a [] a.lanes
  let a := { a with lanes := r.1 }
  let s := r.2.modStream id fun st => { st with amos := st.amos.map fun b => if b.id = a.id then a else b }
  (a, s.journalAmo id a)

/-- Every lane is back or fatal. -/
def Amo.over (a : Amo) : Bool := a.lanes.all fun l => l.back || l.bad

/-- An earlier AMO of the stream still has to go to one of this one's words, or is an acquire that is not performed (R211,
R215, R236). -/
def Stream.amoBehind (st : Stream) (a : Amo) : Bool :=
  (st.amos.takeWhile fun b => b.id != a.id).any fun b =>
    (b.acq && !b.over) || b.lanes.any fun l => !l.back && !l.bad && a.lanes.any fun k => k.addr.toNat / 8 == l.addr.toNat / 8

/-- Takes an AMO off its stream. -/
def State.dropAmo (s : State) (id : StreamId) (a : Amo) : State :=
  s.modStream id fun st => { st with amos := st.amos.filter fun b => b.id != a.id }

/-- A register write with a mask inverted in it (R381). -/
def RegWrite.flip (r lane : Nat) (mask : Word) : RegWrite → RegWrite
  | .vec r' l w => if r' = r ∧ l = lane then .vec r' l (w ^^^ mask) else .vec r' l w
  | .bank r' l w => if r' = r ∧ l = lane then .bank r' l (w ^^^ mask) else .bank r' l w
  | w => w

/-- Writes an AMO's values. -/
def State.writeAmo (s : State) (id : StreamId) (a : Amo) : State :=
  let ws := match a.flip with
    | some f => a.writes.map (RegWrite.flip f.1 f.2.1 f.2.2)
    | none => a.writes
  (s.modGroup id.team id.grp fun g => ws.foldl (fun g w => w.apply g id.x) g).dropAmo id a

end Sys2Proof.Machine
end

