-- ==== Sys2Proof/Machine/Ops.lean ====
section
/-!
DEFINITION. The shared operations of a group's life: releases (R210, R240), line registers that close and are recalled
(R31, R33), lanes that leave and rejoin registers (R166, R169), scratchpad locks (R233), barriers (R241-R243), ends of
groups (R167), taking a trap (R345-R349) and returning from one (R354).
-/

namespace Sys2Proof.Machine

/-! ## Scopes and releases (R208, R210, R212) -/

/-- CLUSTER and wider cross cores (R208), but for GROUP, TEAM and CORE. -/
def crosses : Scope → Bool
  | .group => false
  | .team => false
  | .core => false
  | _ => true

/-- CORE and wider wait for a checkpoint (R210). -/
def coreOrWider : Scope → Bool
  | .group => false
  | .team => false
  | _ => true

/-- The scope of a statement by a team: CLUSTER is TEAM in a team without a cluster (R208). -/
def State.scopeOf (s : State) (t : Nat) (sc : Scope) : Scope :=
  if sc = .cluster ∧ (s.clusterOf t).isNone then .team else sc

/-- The live teams that have writes in a core's lehr. -/
def State.lehrTeams (s : State) (c : CoreId) : List Nat :=
  (s.core c).lehrOwners.filter fun t => (s.team t).live

/-- The checkpoints that a release asks for: its own team's, and those of the teams whose writes it finds in the lehr
(R212). -/
def State.askRelease (s : State) (id : StreamId) (sc : Scope) : State :=
  let sc := s.scopeOf id.team sc
  let s := if coreOrWider sc then s.askCkpt id.team else s
  if crosses sc then (s.lehrTeams (s.teamCore id.team)).foldl (fun s t => s.askCkpt t) s else s

/-- Begins a release of a stream: its store queue drains, and for a wider scope its core's dirty bytes depart and
checkpoints are asked for (R210, R212). -/
def State.beginRelease (s : State) (id : StreamId) (sc : Scope) : State :=
  let sc := s.scopeOf id.team sc
  let c := s.teamCore id.team
  let s := s.drainQueue id
  let s := if crosses sc then s.departAll c id.team id.grp else s
  s.askRelease id sc

/-- The writes of a core that are not yet applied: those in its lehr and in its cullet log (R295). -/
def Core.waiting (c : Core) : List LehrEntry := c.lehr ++ c.cullet.flatMap (·.entries)

/-- A release of the LS path that began at a date is complete (R210). -/
def State.releaseDone (s : State) (id : StreamId) (sc : Scope) (date : Nat) : Bool :=
  let sc := s.scopeOf id.team sc
  !coreOrWider sc || (s.safeSince id.team date &&
    (!crosses sc || (s.core (s.teamCore id.team)).waiting.all fun e => decide (date < e.date)))

/-- Writes of a stream on its FR path that wait in the lehr. -/
def LehrEntry.isUpdate (e : LehrEntry) : Bool := match e.work with | .update _ _ _ _ _ _ => true | _ => false
/-- Writes on the CL path that wait in the lehr. -/
def LehrEntry.isCl (e : LehrEntry) : Bool :=
  match e.work with
  | .land _ _ _ _ _ | .cond _ _ _ _ | .sig _ _ | .cred _ _ _ _ => true
  | _ => false
def LehrEntry.of (e : LehrEntry) (id : StreamId) : Bool := e.team == id.team && e.grp == id.grp && e.x == id.x

/-- The engine commands that a stream has issued at its present call depth and that are not complete (R240). -/
def State.openCmds (s : State) (id : StreamId) : List Nat :=
  let d := (s.group id.team id.grp).depth
  ((s.core (s.teamCore id.team)).cmds.filter fun k =>
    k.team == id.team && k.grp == id.grp && k.x == id.x && k.depth == d && decide (k.state < 3)).map (·.id)

/-- The accesses of a path that a stream made before a date have completed, as seen from a scope (R214, R240). -/
def State.pathDone (s : State) (id : StreamId) (p : Path) (sc : Scope) (date : Nat) (cmds : List Nat) : Bool :=
  let c := s.core (s.teamCore id.team)
  let st := s.stream id
  match p with
  | .ls => s.releaseDone id sc date
  | .cp => c.cmds.all fun k => !cmds.contains k.id || decide (3 ≤ k.state)
  | .mx => st.pend.all fun q => q.cred.isSome || q.covers.all fun k => decide (k % 4 ≠ 3)
  | .fr => st.amos.isEmpty && c.waiting.all fun e => !(e.of id && e.isUpdate && decide (e.date ≤ date))
  | .cl => (st.pend.all fun q => q.cred.isNone) && (c.waiting.all fun e => !(e.of id && e.isCl && decide (e.date ≤ date))) &&
      (id.x || (s.group id.team id.grp).barriers.all fun b =>
        match b.2 with
        | .pending _ _ _ false d => decide (date < d)
        | _ => true)
  | .ho => true

/-- The fetches of the lines that a stream opened before a date have landed, or ended in a fatal translation (R214). -/
def State.opensDone (s : State) (id : StreamId) (date : Nat) : Bool :=
  let g := s.group id.team id.grp
  let ended := fun (l : LineReg) => l.st != .opening || l.fault.isSome || decide (date < l.bound)
  (id.x || g.c.lines.all fun p => ended p.2) && (g.stream id.x).routine.all fun p => ended p.2

/-- An outstanding fence is complete: an XFENCE from LS waits for fetches and departures only (R214, R240); a release of
another path, at CORE scope or wider, for a safe checkpoint taken since its accesses were complete (R208, R210, R221). -/
def State.fenceDone (s : State) (id : StreamId) (f : FenceRec) : Bool :=
  let sc := s.scopeOf id.team f.scope
  if f.first = .ls ∧ f.rel = false then
    s.opensDone id f.date && (!crosses sc ||
      (s.core (s.teamCore id.team)).waiting.all fun e => decide (f.date < e.date))
  else
    s.pathDone id f.first f.scope f.date f.cmds && (f.first == .ls || !f.rel || !coreOrWider sc || (match f.landed with
      | some d => s.safeSince id.team d
      | none => false))

/-- Notes that what a release of another path than LS waits for is complete. -/
def State.landedFence (s : State) (id : StreamId) (f : FenceRec) : FenceRec :=
  if f.first ≠ .ls ∧ f.rel ∧ f.landed = none ∧ s.pathDone id f.first f.scope f.date f.cmds then { f with landed := some s.time }
  else f

/-- Drops a team's prefetched rows (R266). -/
def State.dropPrefetch (s : State) (t : Nat) : State := s.modTeam t fun x => { x with prefetch := [] }

/-- A scope that crosses cores starts a new epoch of a stream's LS path (R204, R211, R240). -/
def State.newEpoch (s : State) (id : StreamId) (sc : Scope) : State :=
  if crosses (s.scopeOf id.team sc) then s.modStream id fun st => { st with epoch := s.time } else s

/-- An acquire of a scope by a stream on the LS path: one that crosses cores starts a new epoch (R211) and drops the prefetched
rows (R266). -/
def State.acquire (s : State) (id : StreamId) (sc : Scope) : State :=
  if crosses (s.scopeOf id.team sc) then (s.newEpoch id sc).dropPrefetch id.team else s

/-- Writes a result; a key-value operation's is an acquire of PACKAGE scope (R308). -/
def State.writeResult (s : State) (id : StreamId) (p : Pending) : State :=
  let s := s.writePending id p
  if p.after.isSome then s.acquire id .package else s

/-- Writes every pending result of a stream that can be written (R346 step 2); a CRED's comes with its reduction (log 21). -/
def State.writeAll (s : State) (id : StreamId) : State :=
  ((s.stream id).pend.filter fun p => p.cred.isNone && s.pendReady p).foldl (fun s p => s.writeResult id p) s

/-- An acquire on a path: only one of the LS path starts an epoch for it (R211, R214). -/
def State.acquireOn (s : State) (id : StreamId) (p : Path) (sc : Scope) : State :=
  if p = .ls then s.acquire id sc
  else if crosses (s.scopeOf id.team sc) then s.dropPrefetch id.team
  else s

/-! ## Line registers (R31, R33) -/

/-- The context of a group at a call depth (R318): the innermost frame comes first. -/
def Group.ctxAt (g : Group) (d : Nat) : GCtx :=
  if g.depth ≤ d then g.c else ((g.frames[g.depth - 1 - d]?).map (·.ctx)).getD g.c
def Group.setCtxAt (g : Group) (d : Nat) (c : GCtx) : Group :=
  if g.depth ≤ d then { g with c := c }
  else { g with frames := g.frames.modify (g.depth - 1 - d) fun f => { f with ctx := c } }

def GCtx.stream (c : GCtx) (x : Bool) : Stream := if x then c.x else c.a
def GCtx.setStream (c : GCtx) (x : Bool) (st : Stream) : GCtx := if x then { c with x := st } else { c with a := st }

/-- A line register of the package, hidden ones and routine lines included. -/
def State.lineAt (s : State) (r : LineRef) : LineReg :=
  let c := (s.group r.team r.grp).ctxAt r.depth
  if r.routine then SMap.get .empty (c.stream r.x).routine r.ln else SMap.get .empty c.lines r.ln
def State.setLineAt (s : State) (r : LineRef) (l : LineReg) : State :=
  s.modGroup r.team r.grp fun g =>
    let c := g.ctxAt r.depth
    if r.routine then
      let st := c.stream r.x
      g.setCtxAt r.depth (c.setStream r.x { st with routine := SMap.set .empty st.routine r.ln l })
    else g.setCtxAt r.depth { c with lines := SMap.set .empty c.lines r.ln l }

/-- Every register that is not EMPTY, hidden and routine ones included. -/
def State.boundRegs (s : State) : List LineRef :=
  s.teams.flatMap fun p => p.2.st.groups.flatMap fun q =>
    (List.range (q.2.depth + 1)).flatMap fun d =>
      let c := q.2.ctxAt d
      (c.lines.map fun l => (⟨p.1, q.1, d, false, false, l.1⟩ : LineRef)) ++
      (c.a.routine.map fun l => (⟨p.1, q.1, d, true, false, l.1⟩ : LineRef)) ++
      (c.x.routine.map fun l => (⟨p.1, q.1, d, true, true, l.1⟩ : LineRef))

/-- The unpinned copies of a core's line store (R201): lines that no register binds. -/
def State.copies (s : State) (c : CoreId) : List Nat :=
  let regs := s.boundRegs.filter fun r =>
    s.teamCore r.team == c && ((s.lineAt r).st == .opening || (s.lineAt r).st == .opened)
  let bound := regs.map fun r => (s.lineAt r).key
  ((s.core c).lines.filter fun p =>
    keyKind p.1 != 1 && keyKind p.1 != 3 && !bound.contains p.1 && p.2.dirty.isEmpty).map (·.1)

/-- Drops lines of a core's line store. -/
def State.dropLines (s : State) (c : CoreId) (ks : List Nat) : State :=
  s.modCore c fun k => { k with lines := k.lines.filter fun p => !ks.contains p.1 }

/-- Drops every unpinned copy (R216, R240). -/
def State.dropCopies (s : State) (c : CoreId) : State := s.dropLines c (s.copies c)

/-- The lines that what a core's teams reserve leaves of its 2 MiB line store (R1, R13), without the gate pin pool (R318). -/
def State.copyRoom (s : State) (c : CoreId) : Nat :=
  let ts := (s.coreTeams c).map fun t => s.team t
  let pads : Nat := (ts.map fun t => t.spadSize / 128).sum
  let pins : Nat := (ts.map fun t => (t.st.groups.map fun q => (q.2.ctxAt 0).lbud).sum).sum
  16384 - 1024 - pads - pins

/-- The unpinned copies beyond that room are dropped: which of them go is the model's choice (log 6). -/
def State.trimCopies (s : State) (c : CoreId) : State :=
  let ks := s.copies c
  if ks.length ≤ s.copyRoom c then s else s.dropLines c (ks.take (ks.length - s.copyRoom c))

/-- What a complete fence ends with: an XFENCE starts an epoch of the LS path and is no acquire (R211, R240), so the prefetched rows
stay (R266). -/
def State.endFence (s : State) (id : StreamId) (f : FenceRec) : State :=
  let s := if f.drop then s.dropCopies (s.teamCore id.team) else s
  if !f.acquire then s else if f.rel then s.acquireOn id f.closes f.scope else s.newEpoch id f.scope

/-- Takes the complete fences off a stream. -/
def State.pruneFences (s : State) (id : StreamId) : State :=
  let fs := (s.stream id).fences
  if fs.isEmpty then s
  else
    let fs := fs.map fun f => s.landedFence id f
    let s := if (fs.any fun f => f.landed == some s.time && coreOrWider (s.scopeOf id.team f.scope)) then s.askCkpt id.team else s
    let done := fs.filter fun f => s.fenceDone id f
    let s' := s.modStream id fun st => { st with fences := fs.filter fun f => !s.fenceDone id f }
    done.foldl (fun s f => s.endFence id f) s'

/-- The dirty bytes of an open register's line leave; a scratchpad line's bytes stand (R229), and so do a trailing group's
(R377). -/
def State.leaveLine (s : State) (r : LineRef) : State :=
  let l := s.lineAt r
  let s := s.drainGroup r.team r.grp
  if l.st ≠ .opened then s
  else if l.mode = 3 ∨ keyKind l.key = 3 then s.modEntry (s.teamCore r.team) l.key Entry.leave
  else
    let n := s.nextId
    let d := (s.group r.team r.grp).callAt r.depth
    let mark := fun (e : LehrEntry) => if n ≤ e.id then { e with call := d } else e
    (s.depart (s.teamCore r.team) r.team r.grp l.key).modCore (s.teamCore r.team) fun k => { k with lehr := k.lehr.map mark }

/-- The departures of registers find room in their cores' lehrs (R205). -/
def State.closeRoom (s : State) (rs : List LineRef) : Bool :=
  let need := fun (r : LineRef) =>
    let l := s.lineAt r
    if l.st = .opened ∧ l.mode ≠ 3 then s.departNeed (s.teamCore r.team) l.key else 0
  rs.all fun r =>
    let c := s.teamCore r.team
    s.lehrFree c (((rs.filter fun q => s.teamCore q.team == c).map need).sum)

/-- The recalls of registers that an instruction makes find room, and it need not hold for a pending checkpoint (R366). -/
def State.recallTakes (s : State) (t : Nat) (rs : List LineRef) : Bool :=
  let s := rs.foldl (fun s r => s.drainGroup r.team r.grp) s
  let need := fun (r : LineRef) =>
    let l := s.lineAt r
    if l.st = .opened ∧ l.mode ≠ 3 then s.departNeed (s.teamCore r.team) l.key else 0
  rs.all fun r =>
    let c := s.teamCore r.team
    s.lehrTakes c t (((rs.filter fun q => s.teamCore q.team == c).map need).sum)

/-- The recalls of registers find room, the queued stores of their groups included (R205). -/
def State.recallRoom (s : State) (rs : List LineRef) : Bool := (rs.foldl (fun s r => s.drainGroup r.team r.grp) s).closeRoom rs

/-- CLOSE of a register (R31). -/
def State.closeLine (s : State) (r : LineRef) : State := (s.leaveLine r).setLineAt r .empty

/-- Wakes the streams of a group that watch one of its registers (R196). -/
def State.wakeReg (s : State) (r : LineRef) (cause : Nat) : State :=
  [false, true].foldl (fun s x =>
    match ((s.group r.team r.grp).stream x).watch with
    | some w => if w.reg = r.ln ∧ r.routine = false ∧ r.depth = (s.group r.team r.grp).depth
        then s.later 0 (.lwaitWake ⟨r.team, r.grp, x⟩ cause) else s
    | none => s) s

/-- The number by which a team remembers the recall of a register. -/
def lineNo (r : LineRef) : Nat := 16 * r.depth + r.ln + (if r.routine then (if r.x then 2 ^ 21 else 2 ^ 20) else 0)

/-- A recall of a register (R31). A trailing group's shadow entry answers none (R377). -/
def State.recallReg (s : State) (r : LineRef) : State :=
  let l := s.lineAt r
  if keyKind l.key = 3 then s
  else
    match l.st with
    | .empty => s
    | .recalled => s
    | _ =>
      let s := (s.leaveLine r).setLineAt r { l with st := .recalled, fault := none }
      let s := s.modTeam r.team fun t => { t with recalls := (r.grp, lineNo r, s.time) :: t.recalls }
      s.wakeReg r 1

/-- Recalls the registers that a test picks. -/
def State.recallWhere (s : State) (p : LineReg → Bool) : State :=
  s.boundRegs.foldl (fun s r => if p (s.lineAt r) then s.recallReg r else s) s

/-! ## Scratchpad locks (R233, R234) -/

/-- The lock bit of a scratchpad offset: 8 * bank + bit. -/
def lockOf (x : Nat) : Nat :=
  8 * field x 2 5 + (field x 7 3 ^^^ field x 10 3 ^^^ field x 13 3 ^^^ field x 16 3 ^^^ field x 19 2)

/-- A holder's lane; the X stream's lanes follow the first 32 (DEDUCED, log 16). A bit's record adds 64 for each call its
holder was in, which tells a callee's bits from its caller's when lanes leave (R324). -/
def lockLane (x : Bool) (i : Nat) : Nat := if x then 32 + i else i

def Team.lock (t : Team) (b : Nat) : Option (Nat × Nat) := SMap.get none t.st.locks b
/-- A lane of a group holds a bit, at whatever call depth it took it. -/
def heldBy (h : Option (Nat × Nat)) (g l : Nat) : Bool :=
  match h with
  | some (g', l') => g' == g && l' % 64 == l
  | none => false
def Team.setLock (t : Team) (b : Nat) (h : Option (Nat × Nat)) : Team :=
  { t with st := { t.st with locks := SMap.set none t.st.locks b h } }

/-- The lanes that wait at an LLK for a bit: (date of the first attempt, group, stream, lane). -/
def Team.lockWaiters (t : Team) (b : Nat) : List (Nat × Nat × Bool × Nat) :=
  t.st.groups.flatMap fun q => q.2.sides.flatMap fun x =>
    if (q.2.stream x).mode ≠ .normal then []
    else lanes.filterMap fun i =>
      match (q.2.stream x).holdOf i with
      | some (.llk b' d) => if b' = b then some (d, q.1, x, i) else none
      | _ => none

/-- The waiter that first attempted the bit; ties to the lower group, then the lower lane. -/
def firstWaiter : List (Nat × Nat × Bool × Nat) → Option (Nat × Nat)
  | [] => none
  | w :: ws =>
    let best := ws.foldl (fun b w => if w.1 < b.1 ∨ (w.1 = b.1 ∧ (w.2.1 < b.2.1 ∨ (w.2.1 = b.2.1 ∧ w.2.2.2 < b.2.2.2)))
      then w else b) w
    some (best.2.1, lockLane best.2.2.1 best.2.2.2)

/-- Frees a bit: it goes to its first waiter, whose LLK then completes. -/
def State.freeLock (s : State) (t b : Nat) : State :=
  s.modTeam t fun x => x.setLock b ((firstWaiter (x.lockWaiters b)).map fun h => (h.1, h.2 + 64 * (x.group h.1).depth))

/-- Frees every bit that lanes of a stream hold; in a callee, those that they took in the call (R324). -/
def State.freeLocks (s : State) (id : StreamId) (m : Mask) : State :=
  ((s.team id.team).st.locks.filterMap fun p =>
    match p.2 with
    | some (g, l) => if g = id.grp ∧ (decide (32 ≤ l % 64) = id.x) ∧ m.getLsbD (l % 32) ∧
        (s.group id.team id.grp).depth ≤ l / 64 then some p.1 else none
    | none => none).foldl (fun s b => s.freeLock id.team b) s

/-! ## Rejoin registers and lanes that leave (R166, R169) -/

/-- The stream that owns a rejoin register (R169). -/
def Group.rjSide (g : Group) (r : Nat) : Bool := g.split && decide (2 ≤ r)

/-- Releases a rejoin register that is complete. Lanes of a stream in handler mode take no action (R347). -/
def Group.checkRejoin (g : Group) (r : Nat) : Group :=
  let x := g.rjSide r
  let st := g.stream x
  if st.mode ≠ .normal ∨ g.enrolled r = 0 ∨ g.arrived r ≠ g.enrolled r then g
  else
    let m := st.heldFor (.park r)
    let g := g.setStream x ((st.setPcs m fun i => nextPc (st.pc i)).setHolds m none)
    { g with c.rjArr := SMap.set 0 g.c.rjArr r 0 }

/-- STRIKE of lanes from one register (R169). -/
def Group.strike (g : Group) (r : Nat) (m : Mask) : Group :=
  { g with c.rjEnr := SMap.set 0 g.c.rjEnr r (g.enrolled r &&& ~~~m),
           c.rjArr := SMap.set 0 g.c.rjArr r (g.arrived r &&& ~~~m) }.checkRejoin r

/-- STRIKE of lanes from every register of a stream. -/
def Group.strikeAll (g : Group) (x : Bool) (m : Mask) : Group :=
  [0, 1, 2, 3].foldl (fun g r => if g.rjSide r = x then g.strike r m else g) g

/-- Lanes leave DECL and SIGNED of every convergence register: lanes of the stream that signs (R144, R166; log 15). -/
def Group.undeclare (g : Group) (x : Bool) (m : Mask) : Group :=
  if g.split && !x then g
  else [0, 1, 2, 3].foldl (fun g cv => (g.setDecl cv (g.decl cv &&& ~~~m)).setSigned cv (g.signed cv &&& ~~~m)) g

/-- SIGNED bits of lanes are cleared, DECL unchanged (R324, R354). -/
def Group.unsign (g : Group) (x : Bool) (m : Mask) : Group :=
  if g.split && !x then g else [0, 1, 2, 3].foldl (fun g cv => g.setSigned cv (g.signed cv &&& ~~~m)) g

/-- Lanes leave the active mask of their stream for good (R166). -/
def State.dropLanes (s : State) (id : StreamId) (m : Mask) : State :=
  let s := s.modStream id fun st => { (st.setHolds m none) with amask := st.amask &&& ~~~m }
  let s := s.freeLocks id m
  s.modGroup id.team id.grp fun g => (g.undeclare id.x m).strikeAll id.x m

/-! ## Barriers (R241-R243) -/

/-- The total of two payloads (R243). -/
def barOp (op : BarOp) (a b : DWord) : DWord :=
  match op with
  | .none => 0
  | .dadd => BitVec.ofNat 64 (fpAdd f64 .rn false a.toNat b.toNat).1
  | .iadd => a + b
  | .smin => if b.toInt < a.toInt then b else a
  | .smax => if a.toInt < b.toInt then b else a
  | .dmin => BitVec.ofNat 64 (fpMinMax f64 false a.toNat b.toNat).1
  | .dmax => BitVec.ofNat 64 (fpMinMax f64 true a.toNat b.toNat).1

/-- Scope codes of R58. -/
def scopeCode : Scope → Nat
  | .group => 0 | .team => 1 | .core => 2 | .cluster => 3 | .bench => 4 | .die => 5 | .package => 6 | .fabric => 7
  | .system => 8

def Phase.new (sc owner : Nat) (exp : Option (List Nat)) : Phase :=
  { scope := sc, owner := owner, expected := exp, arrived := [], op := .none, mixed := false, total := 0, has := false }

/-- One contribution to a phase, in the order of arrival. -/
def Phase.add (p : Phase) (who : Nat) (op : BarOp) (v : DWord) (has mixed : Bool) : Phase :=
  let p := { p with arrived := p.arrived ++ [who], mixed := p.mixed || mixed }
  if !has then p
  else if !p.has then { p with op := op, total := v, has := true }
  else if p.op ≠ op then { p with mixed := true }
  else { p with total := barOp op p.total v }

/-- The phase of a scope and owner in a list, or a new one. -/
def findPhase (l : List Phase) (sc owner : Nat) (exp : Option (List Nat)) : Phase :=
  (l.find? fun p => p.scope == sc && p.owner == owner).getD (.new sc owner exp)
def dropPhase (l : List Phase) (sc owner : Nat) : List Phase := l.filter fun p => !(p.scope == sc && p.owner == owner)

/-- The team's states that hold a barrier's progress: a barrier wider than the team lives outside its checkpoints. -/
def Team.mapCores (t : Team) (wide : Bool) (f : TeamCore → TeamCore) : Team :=
  if wide then
    { t with st := f t.st, safe := { t.safe with st := f t.safe.st },
             pending := t.pending.map fun p => { p with st := f p.st } }
  else { t with st := f t.st }

def TeamCore.modGroup (t : TeamCore) (g : Nat) (f : Group → Group) : TeamCore :=
  { t with groups := SMap.mod .off t.groups g f }

/-- Sends the release of a phase to the groups of a team that wait on it. -/
def State.releaseTeam (s : State) (t : Nat) (sc : Scope) (total : DWord) (bad : Bool) : State :=
  (s.team t).st.groups.foldl (fun s q =>
    match SMap.get .clear q.2.barriers (scopeCode sc) with
    | .pending _ _ _ true _ => s.later 1 (.barrierRelease t q.1 sc total bad)
    | _ => s) s

/-- The teams of a launch on a die that have not ended; one that is switched out still counts. -/
def State.launchTeams (s : State) (launch die : Nat) : List Nat :=
  (s.teams.filter fun p => (p.2.live || p.2.out) && !p.2.trails && p.2.launch == launch && p.2.die == die).map (·.1)

/-- Releases a phase at its scope's combining point. -/
def State.releasePhase (s : State) (teams : List Nat) (sc : Scope) (p : Phase) : State :=
  teams.foldl (fun s t => s.releaseTeam t sc p.total p.mixed) s

/-- The dies on which a launch still holds a live team. -/
def State.launchDies (s : State) (launch : Nat) : List Nat :=
  [0, 1, 2, 3].filter fun d => !(s.launchTeams launch d).isEmpty

/-- The package phase of a launch releases once every die that takes part has arrived. -/
def State.checkPackage (s : State) (launch : Nat) : State :=
  let p := findPhase s.pkg.phases 6 launch none
  let dies := s.launchDies launch
  if p.arrived.isEmpty || !(dies.all fun d => p.arrived.contains d) then s
  else
    let s := { s with pkg := { s.pkg with phases := dropPhase s.pkg.phases 6 launch } }
    s.releasePhase (dies.flatMap fun d => s.launchTeams launch d) .package p

/-- The die phase of a launch, at DIE or PACKAGE scope. -/
def State.checkDie (s : State) (launch die : Nat) (sc : Scope) : State :=
  let p := findPhase (s.die die).phases (scopeCode sc) launch none
  let ts := s.launchTeams launch die
  if p.arrived.isEmpty || !(ts.all fun t => p.arrived.contains t) then s
  else
    let s := s.modDie die fun d => { d with phases := dropPhase d.phases (scopeCode sc) launch }
    if sc = .package then
      let q := findPhase s.pkg.phases 6 launch none
      let q := q.add die p.op p.total p.has p.mixed
      ({ s with pkg := { s.pkg with phases := dropPhase s.pkg.phases 6 launch ++ [q] } }).checkPackage launch
    else s.releasePhase ts sc p

/-- The cluster phase: the members when its first team arrived, but for those that have left (R247). -/
def State.checkCluster (s : State) (bench : Nat) (cl : Nat) : State :=
  let b := s.bench bench
  match b.phases.find? fun p => p.scope == 3 && p.owner == cl with
  | none => s
  | some p =>
    let members := ((b.clusters.find? fun c => c.id == cl).map fun c => c.current.map (·.2)).getD []
    let exp := (p.expected.getD []).filter fun t => members.contains t
    if exp.all fun t => p.arrived.contains t then
      (s.modBench bench fun b => { b with phases := dropPhase b.phases 3 cl }).releasePhase exp .cluster p
    else s

/-- The team's phase of a scope: complete once every group that has not ended has arrived; it releases at TEAM scope
and is forwarded otherwise (R208, R241). -/
def State.checkTeam (s : State) (t : Nat) (sc : Scope) : State :=
  let x := s.team t
  let code := scopeCode sc
  let p := findPhase x.st.phases code t none
  if p.arrived.isEmpty || !(x.liveGroups.all fun g => p.arrived.contains g) then s
  else
    let wide := decide (code ≠ 1)
    let s := s.modTeam t fun x => x.mapCores wide fun c => { c with phases := dropPhase c.phases code t }
    match sc with
    | .cluster =>
      match s.clusterOf t with
      | none => s.releaseTeam t sc p.total p.mixed
      | some cl =>
        let b := benchKey (s.teamCore t)
        let q := findPhase (s.bench b).phases 3 cl.id (some (cl.current.map (·.2)))
        let q := q.add t p.op p.total p.has p.mixed
        (s.modBench b fun b => { b with phases := dropPhase b.phases 3 cl.id ++ [q] }).checkCluster b cl.id
    | .die | .package =>
      let l := x.launch
      let q := (findPhase (s.die x.die).phases code l none).add t p.op p.total p.has p.mixed
      (s.modDie x.die fun d => { d with phases := dropPhase d.phases code l ++ [q] }).checkDie l x.die sc
    | _ => s.releaseTeam t sc p.total p.mixed

def barScopes : List Scope := [.team, .cluster, .die, .package]

/-- Phases that the end of a group or team may complete. -/
def State.recheckBarriers (s : State) (t : Nat) : State :=
  let x := s.team t
  let s := barScopes.foldl (fun s sc => s.checkTeam t sc) s
  let s := [Scope.die, Scope.package].foldl (fun s sc => s.checkDie x.launch x.die sc) s
  s.checkPackage x.launch

/-! ## Redundant pairs (R376-R378) -/

/-- The pair a group belongs to. -/
def State.dmrPair (s : State) (t g : Nat) : Option Pair :=
  let p? := match (s.group t g).dmr with
    | .alone => none
    | .leader p => some p
    | .trailer p => some p
  p?.bind fun p => (s.bench (benchKey (s.teamCore t))).pairs.find? fun q => q.id == p

def State.modPair (s : State) (t : Nat) (p : Nat) (f : Pair → Pair) : State :=
  s.modBench (benchKey (s.teamCore t)) fun b => { b with pairs := b.pairs.map fun q => if q.id = p then f q else q }

/-- One compare record of a group (R378): what was executed, with the slot above bit 32, its lanes, and the lanes' addresses
and data. -/
def State.recordOf (s : State) (t g : Nat) (r : Nat × Nat × Bytes) : State :=
  match (s.group t g).dmr with
  | .alone => s
  | .leader p => (s.modPair t p fun q => { q with recsL := q.recsL ++ [r] }).later 1
      (.compareRecord (benchKey (s.teamCore t)) p)
  | .trailer p => (s.modPair t p fun q => { q with recsT := q.recsT ++ [r] }).later 1
      (.compareRecord (benchKey (s.teamCore t)) p)

/-! ## Ends (R166, R167) -/

/-- The registers of a group at its present depth that are not EMPTY. -/
def State.groupRegs (s : State) (t g : Nat) : List LineRef :=
  let d := (s.group t g).depth
  (s.group t g).c.lines.map fun l => ⟨t, g, d, false, false, l.1⟩

/-- Ends a group whose streams have ended and whose long-latency results are written (R167); it waits while the lehr has no
room for what its registers hold. The groups of a redundant pair make the record of DMREND as they end (R380). -/
def State.endGroup (s : State) (t g : Nat) : State :=
  let x := s.group t g
  if !x.live || x.c.a.live || x.c.x.live || x.c.a.busy || x.c.x.busy then s
  else
    let s := s.drainGroup t g
    if !s.closeRoom (s.groupRegs t g) then s.again (.trapEntry ⟨t, g, false⟩)
    else
    let s := (s.groupRegs t g).foldl (fun s r => s.closeLine r) s
    let s := s.recordOf t g (0xE6, 0, [])
    let s := s.modGroup t g fun x => { x with live := false, c.latch := none }
    let s := s.askCkpt t
    let s := s.recheckBarriers t
    if (s.team t).liveGroups.isEmpty then s.later 1 (.teamEnd t) else s

/-- A stream whose active mask has become empty ends, and may end its group (R166); in a callee it aborts the gate, or
is the callee's X stream and ends (R324). -/
def State.endStream (s : State) (id : StreamId) : State :=
  let g := s.group id.team id.grp
  let st := g.stream id.x
  if st.live = false ∨ st.amask ≠ 0 ∨ st.mode ≠ .normal then s
  else if 0 < g.depth ∧ id.x = false then
    let (w, s) := s.free
    let code := w.toNat % 256
    (s.modGroup id.team id.grp fun g => { g with abort := some code }).later 1 (.gateAbort id.team id.grp code)
  else
    (s.modStream id fun st => { st with live := false, watch := none, poll := [] }).endGroup id.team id.grp

/-! ## Traps (R343-R349) -/

/-- The level at which a stream's code runs (R312, R346). -/
def Group.levelOf (g : Group) (x : Bool) : Nat :=
  let st := g.stream x
  if st.mode ≠ .normal then (if st.kept.thnd then g.c.level else 2) else g.c.level

/-- HENT and SENT of an address space; none when the entry is not in use (R345). -/
def State.handlerEntry (s : State) (asid : BitVec 16) (save : Bool) : Option DWord :=
  let x := s.readNat 0 (s.pkg.handlerTable + 32 * asid.toNat) 32
  if field x 128 1 = 1 ∧ field x 129 127 = 0 then some (BitVec.ofNat 64 (field x (if save then 64 else 0) 64)) else none

/-- Halts a group with a trap's cause, address and lanes (R348). -/
def State.haltGroup (s : State) (id : StreamId) (r : TrapRec) (nest : Bool) : State :=
  s.modGroup id.team id.grp fun g =>
    let st := g.stream id.x
    { (g.setStream id.x { st with tcause := causeWord r.code r.info nest, tadr := r.tadr, tlane := r.tlane }) with
      halted := true }

/-- Asks for the abort of the innermost call (R321). -/
def State.askAbort (s : State) (t g code : Nat) : State :=
  (s.modGroup t g fun x => { x with abort := some code }).later 1 (.gateAbort t g code)

/-- Takes a group out of the regrouping table (R276). -/
def State.withdraw (s : State) (t g : Nat) : State :=
  let s := s.modCore (s.teamCore t) fun c =>
    let sets := c.sets.map fun r => { r with joined := r.joined.filter fun j => !(j.1 == t && j.2.1 == g) }
    { c with sets := sets.filter fun r => !r.joined.isEmpty }
  s.modGroup t g fun x =>
    { x with c.a := x.c.a.setHolds (x.c.a.heldFor .regrp) none, c.x := x.c.x.setHolds (x.c.x.heldFor .regrp) none }

/-- Sends the AMO lanes that can go and writes the AMOs that are back; the others stay pending (R346 step 2). -/
def State.flushAmos (s : State) (id : StreamId) : State :=
  (s.stream id).amos.foldl (fun s a =>
    if (s.stream id).amoBehind a then s else
    let r := s.sendAmo id a
    if r.1.lanes.all fun l => l.back && l.pois.isNone then r.2.writeAmo id r.1 else r.2) s

/-- A contribution of a CRED that has not left the lehr goes no further: its CRED counts as not issued (R155). -/
def State.dropContribution (s : State) (t g : Nat) : State :=
  let mine := fun (e : LehrEntry) => match e.work with | .cred _ u h _ => u == t && h == g | _ => false
  let c := s.teamCore t
  if (s.core c).lehr.any mine then
    (s.modCore c fun k => { k with lehr := k.lehr.filter fun e => !mine e }).modTeam t fun x =>
      { x with credCount := SMap.mod 0 x.credCount g fun n => n - 1 }
  else s

/-- Discards the results that a stream has pending, with the queue entries they would fill (R132, R342, R346): what an AMO can
still send is performed, and its values are discarded (DEDUCED, log 21). -/
def State.dropResults (s : State) (id : StreamId) : State :=
  let s := (s.stream id).amos.foldl (fun s a => if (s.stream id).amoBehind a then s else (s.sendAmo id a).2) s
  let ids := (s.stream id).pend.map (·.id) ++ (s.stream id).amos.map (·.id)
  let keep := fun (l : List QEntry) => l.filter fun e => e.ready || !ids.contains e.id
  let s := if (s.stream id).pend.any fun p => p.cred.isSome then s.dropContribution id.team id.grp else s
  let s := s.modGroup id.team id.grp fun g =>
    { g with c.queues := g.c.queues.filterMap fun p => if (keep p.2).isEmpty then none else some (p.1, keep p.2) }
  s.modStream id fun st => { st with pend := [], amos := [] }

/-- Every lane of an AMO can be performed now or is held on a missing translation; while a walk is under way it is neither. An AMO
behind one that is held is held with it (R287, R346). -/
def State.amoSettled (s : State) (id : StreamId) (a : Amo) : Bool :=
  (s.stream id).amoBehind a || a.lanes.all fun l => l.back || l.bad ||
    (let c := s.teamCore id.team
     let lead := ((a.lanes.find? fun k => s.samePage a.asid l.addr.toNat k.addr.toNat).map (·.addr)).getD l.addr
     match s.walkOf c .amo a.asid lead id.grp a.id with
     | some w => w.phase == .faulted
     | none => (s.tlbFind c a.asid lead.toNat).any (permits .amo))

def State.amosSettled (s : State) (id : StreamId) : Bool := (s.stream id).amos.all (s.amoSettled id)

/-- Every long-latency result that an entry waits for can be written now (R346 step 2). -/
def State.resultsIn (s : State) (id : StreamId) : Bool :=
  s.amosSettled id && (s.stream id).pend.all fun p => p.cred.isNone && s.pendReady p

/-- The vector window of a stream (R16, R21). -/
def Group.window (g : Group) (x : Bool) : Nat :=
  if g.split then (if x then 16 * (g.c.vbud - g.c.va) else 16 * g.c.va) else 16 * g.c.vbud

/-- The address of a stream's part of a save area (R383, R385). -/
def Team.partAt (t : Team) (area : DWord) (g : Nat) (x : Bool) : Nat :=
  let k := (t.st.groups.findIdx fun q => q.1 == g)
  area.toNat + 0x8000 + 0x40000 * k + (if x then 0x8000 else 0)

/-- The bank of a routine (R388): its part's address, the window size, and 1 for X; its routine lines are EMPTY (R389). -/
def Stream.setBank (st : Stream) (part : Nat) (window : Nat) (x : Bool) : Stream :=
  let put := fun (st : Stream) (r : Nat) (w : Nat) =>
    lanes.foldl (fun st i => { st with bank := SMap.set 0 st.bank (32 * r + i) (BitVec.ofNat 32 w) }) st
  { put (put (put (put st 176 part) 177 (part / 2 ^ 32)) 178 window) 179 (bit01 x) with routine := [] }

/-- The results that an entry waits for are in: none for a machine check, and all but the result of a CRED for a save request,
with which a pending CRED is saved (R346, R390, R392; DEDUCED, log 21). -/
def State.entryReady (s : State) (id : StreamId) (r : TrapRec) : Bool :=
  r.code == 14 || (if r.code = 16 then s.amosSettled id && (s.stream id).pend.all fun p => p.cred.isSome || s.pendReady p else s.resultsIn id)

/-- The entry of one stream into its handler (R346 steps 2 to 5), at a target; routine mode for a save request. -/
def State.enterHandler (s : State) (id : StreamId) (r : TrapRec) (target : DWord) (thnd save : Bool) : State :=
  let s := s.drainQueue id
  let s := if r.code = 14 then s.dropResults id else (s.writeAll id).flushAmos id
  let part := (s.team id.team).partAt r.tadr id.grp id.x
  let window := (s.group id.team id.grp).window id.x
  let passed := fun (t : TrapRec) => t.code == 15 || (t.code == 12 && t.info == 255)
  s.modStream id fun st =>
    let k : Kept := { m0 := st.amask, amask := st.amask, fstat := st.fstat, partw := st.partw, lpc := st.lpc, recorded := st.lpc,
                      hold := st.hold, thnd := thnd, tcause := st.tcause, tadr := st.tadr, tlane := st.tlane,
                      later := [], back := st.back }
    let st := { st with kept := k, tcause := causeWord r.code r.info false, tadr := r.tadr, tlane := r.tlane,
                        amask := BitVec.allOnes 32, hold := [], fstat := 0, partw := 32, back := 0, poll := [],
                        cpwait := [], relWait := [], watch := none, mode := if save then .save else .handler,
                        check := true, skipCmp := 0, parked := none, entering := none,
                        traps := st.traps ++ (st.entering.toList.filter passed) }
    (if save then st.setBank part window id.x else st).setPcs (BitVec.allOnes 32) fun _ => target

/-- A stream enters its handler once its results are written, and issues nothing until then (R346 steps 1 and 2); a machine
check does not wait. -/
def State.entry_ (s : State) (id : StreamId) (r : TrapRec) (target : DWord) (thnd save : Bool) : State :=
  if s.entryReady id r then s.enterHandler id r target thnd save
  else (s.modStream id fun st => { st with entering := some r }).later 1 (.trapEntry id)

/-- One stream of a group that is not halted takes a trap (R321, R345, R348), which withdraws its group from the regrouping
table (R276). -/
def State.trapStream (s : State) (id : StreamId) (r : TrapRec) : State :=
  let s := s.withdraw id.team id.grp
  let g := s.group id.team id.grp
  let st := g.stream id.x
  let handles := ((g.frames.head?).map (·.handle)).getD false
  if st.live = false then s
  else if st.mode = .handler ∧ st.kept.thnd then s.askAbort id.team id.grp r.code
  else if st.mode ≠ .normal then s.haltGroup id r true
  else if 0 < g.depth ∧ r.code ≠ 16 ∧ (r.code = 14 ∨ !handles) then s.askAbort id.team id.grp r.code
  else if 0 < g.depth ∧ r.code ≠ 16 then
    s.entry_ id r (((g.frames.head?).map (·.thnd)).getD 0) true false
  else
    match s.handlerEntry g.c.asid (decide (r.code = 16)) with
    | none => s.haltGroup id r false
    | some e => s.entry_ id r e false (decide (r.code = 16))

/-- One stream takes a trap; a halted group takes none. -/
def State.trapOne (s : State) (id : StreamId) (r : TrapRec) : State :=
  if (s.group id.team id.grp).halted then s else s.trapStream id r

/-- Puts a value into the feed of a leading group (R377). -/
def State.feedTrailer (s : State) (t : Nat) (g : Nat) (f : Nat → Feed) : State :=
  match (s.group t g).dmr with
  | .leader p => s.modBench (benchKey (s.teamCore t)) fun b =>
      { b with pairs := b.pairs.map fun q => if q.id = p then { q with feed := q.feed ++ [f q.nL] } else q }
  | _ => s

/-- The trailing group takes what the leader has done next: the trap or issue at the head of the feed. -/
def nextStep (f : List Feed) : Option Feed :=
  f.find? fun x => match x with | .trap _ _ => true | .issue _ _ => true | _ => false
def dropStep : List Feed → List Feed
  | [] => []
  | .trap _ _ :: l => l
  | .issue _ _ :: l => l
  | x :: l => x :: dropStep l
/-- Both groups of a pair take a trap: the trailing one takes its leader's, or its own in its place (R377). -/
def State.shareTrap (s : State) (id : StreamId) (r : TrapRec) : State :=
  match (s.group id.team id.grp).dmr, s.dmrPair id.team id.grp with
  | .leader _, some q =>
    (s.feedTrailer id.team id.grp fun n => .trap n r).later 1 (.trapEntry { id with team := q.trailer })
  | .trailer p, some q =>
    match nextStep q.feed with
    | some (.trap _ _) => s.modPair id.team p fun q => { q with feed := dropStep q.feed }
    | _ => s
  | _, _ => s

/-- A trap of a pair's group waits: a leading group's until the trailing one has reached the same instruction, a trailing
group's until its leader has taken the trap (R377). -/
def State.trapWaits (s : State) (id : StreamId) : Bool :=
  match (s.group id.team id.grp).dmr, s.dmrPair id.team id.grp with
  | .leader _, some q => decide (q.nT < q.nL)
  | .trailer _, some q => (nextStep q.feed).isNone
  | _, _ => false

/-- Holds a trap with its stream, which issues nothing meanwhile (R344). -/
def State.keepTrap (s : State) (id : StreamId) (r : TrapRec) : State :=
  (s.modStream id fun st => { st with traps := st.traps ++ [r] }).later 1 (.trapEntry id)

/-- Takes a trap (R345-R349): a machine check takes both streams of a split group, each with its own TCAUSE. -/
def State.takeTrap (s : State) (id : StreamId) (r : TrapRec) : State :=
  let st := s.stream id
  if st.mode = .normal ∧ s.trapWaits id then s.keepTrap id r
  else
  let s := s.shareTrap id r
  let s := s.recordOf id.team id.grp (0x100 + r.code + 2 ^ 32 * (st.pc (low r.tlane)).toNat, r.tlane.toNat, [])
  let g := s.group id.team id.grp
  if r.code = 14 ∧ g.split ∧ g.halted = false ∧ g.depth = 0 then
    let o : StreamId := { id with x := !id.x }
    (s.trapStream id r).trapStream o { r with tlane := (s.stream o).amask }
  else s.trapOne id r

/-- A trap that falls due after its instruction is held while the stream is in handler or routine mode (R344), and until the
stream's results are written. -/
def State.lateTrap (s : State) (id : StreamId) (r : TrapRec) : State :=
  let st := s.stream id
  if st.mode = .normal ∧ st.entering = none ∧ s.entryReady id r then s.takeTrap id r
  else
    let s := s.modStream id fun st => { st with traps := st.traps ++ [r] }
    if st.mode = .normal then s.later 1 (.trapEntry id) else s

/-- A machine check of a stream: every lane keeps its program counter (R344). -/
def State.machineCheck (s : State) (id : StreamId) (adr : DWord) : State :=
  s.takeTrap id ⟨14, 0, adr, (s.stream id).amask⟩

/-! ## Returning from a trap (R354) -/

/-- The trap registers as the handler's SETSR left them (R343). -/
def Stream.laterRegs (st : Stream) : Stream :=
  let get := fun (k : Nat) => SMap.get none st.kept.later k
  { st with tcause := ((get 0x15).map fun w => w.setWidth 32).getD st.tcause,
            tadr := (get 0x16).getD st.tadr,
            tlane := ((get 0x17).map fun w => w.setWidth 32).getD st.tlane }

/-- The lanes whose interrupted LPC the handler has changed. -/
def Kept.moved (k : Kept) : Mask :=
  maskOf fun i => (k.amask &&& k.m0).getLsbD i && SMap.get 0 k.lpc i != SMap.get 0 k.recorded i

/-- The lanes of a mask that wait at an LLK. -/
def Kept.atLock (k : Kept) (m : Mask) : Mask :=
  maskOf fun i => m.getLsbD i && (match SMap.get none k.hold i with | some (.llk _ _) => true | _ => false)

/-- Puts the interrupted state back: the lanes of M at their program counters, or at the region entry for ERET.R. -/
def Stream.resume (st : Stream) (again : Bool) : Stream :=
  let k := st.kept
  let s1 := { st.laterRegs with amask := k.m0, lpc := k.lpc, fstat := k.fstat, partw := k.partw, mode := .normal,
                                hold := k.hold, kept := .off, skipCmp := k.m0 }
  let s2 := s1.setHolds k.moved none
  if again then s2.setPcs (k.amask &&& k.m0) fun _ => st.rgnEntry else s2

/-- ERET leaves handler mode (R354): lanes taken out of AMASK leave as by EXIT, lanes whose LPC was changed are struck,
and the rest resume. -/
def State.leaveHandler (s : State) (id : StreamId) (again : Bool) : State :=
  let k := (s.stream id).kept
  let s := s.modStream id fun st => st.resume again
  let s := s.freeLocks id (k.atLock k.moved)
  let s := s.dropLanes id (k.m0 &&& ~~~k.amask)
  let s := s.modGroup id.team id.grp fun g =>
    let g := (g.strikeAll id.x k.moved).unsign id.x k.moved
    [0, 1, 2, 3].foldl (fun g r => g.checkRejoin r) g
  s.endStream id

end Sys2Proof.Machine
end

