-- ==== Sys2Proof/Machine/Operands.lean ====
section
/-!
DEFINITION. Every operand form: how the issuing stream reads a source and writes a destination (R18, R21-R26, R53, R59,
R109, R222), which registers a use covers, and the limits of R22, R23 and R60.
-/

namespace Sys2Proof.Machine

/-! ## Reading -/

/-- The entry that this issue popped from a queue (R18). -/
def State.popped (s : State) (q : Nat) (i : Nat) : Word :=
  match SMap.get none s.cur.pop q with
  | some e => SMap.get 0 e.lanes i
  | none => 0

/-- A 32-bit source in a lane (R59). -/
def State.src (s : State) (a : Src) (i : Nat) : Word :=
  match a with
  | .v n => s.here.vec n.val i
  | .s n => s.here.uni n.val
  | .z => 0
  | .q n => s.popped n.val i
  | .lane => BitVec.ofNat 32 i
  | .imm w => w

/-- A pair from its low and high words (R23). -/
def pairOf (lo hi : Word) : DWord := hi ++ lo

/-- A 64-bit source in a lane; an immediate is sign-extended (R53). -/
def State.srcPair (s : State) (a : Src) (i : Nat) : DWord :=
  match a with
  | .v n => pairOf (s.here.vec n.val i) (s.here.vec (n.val + 1) i)
  | .s n => pairOf (s.here.uni n.val) (s.here.uni (n.val + 1))
  | .imm w => w.signExtend 64
  | _ => 0

/-- A binary32 value widened exactly to binary64 (R53): a NaN keeps its sign and its fraction, so a signalling one stays
signalling (R89). -/
def widen (x : Nat) : Nat :=
  if field x 23 8 = 255 then field x 31 1 * 2 ^ 63 + 0x7FF * 2 ^ 52 + field x 0 23 * 2 ^ 29
  else (roundTo f64 .rn false (f32.value x)).1

/-- A binary64 source in a lane; an immediate is a binary32 value widened exactly (R53). -/
def State.srcDbl (s : State) (a : Src) (i : Nat) : Nat :=
  match a with
  | .imm w => widen w.toNat
  | a => (s.srcPair a i).toNat

/-- Register k of a data operand of several registers (R222). -/
def srcShift (a : Src) (k : Nat) : Src :=
  match a with
  | .v n => .v (Fin.ofNat 192 (n.val + k))
  | .s n => .s (Fin.ofNat 32 (n.val + k))
  | a => a
def dstShift (d : Dst) (k : Nat) : Dst :=
  match d with
  | .v n => .v (Fin.ofNat 192 (n.val + k))
  | .s n => .s (Fin.ofNat 32 (n.val + k))
  | d => d

/-- The words of a data operand in a lane. -/
def State.srcs (s : State) (a : Src) (n i : Nat) : List Word :=
  (List.range n).map fun k => s.src (srcShift a k) i

/-! ## Writing -/

/-- The lanes of a pushed entry: zero where a lane does not execute (R18). -/
def pushLanes (ex : Mask) (f : Nat → Word) : SMap Word :=
  (maskLanes ex).foldl (fun m i => SMap.set 0 m i (f i)) []

/-- The stream that pops a queue (R18). -/
def popSide (q : Nat) : Bool := decide (q < 2)

/-- Pushes an entry; where only an ended stream would pop it, it is discarded (R166). -/
def State.push (s : State) (q : Nat) (ready : Bool) (id : Nat) (m : SMap Word) : State :=
  s.modMyGroup fun g =>
    if (g.stream (popSide q)).live then g.setQueue q (g.queue q ++ [⟨id, m, ready⟩]) else g

/-- Writes a register of a stream in the executing lanes (R24, R59, R108). -/
def Stream.put (st : Stream) (d : Dst) (ex : Mask) (f : Nat → Word) : Stream :=
  match d with
  | .v n => st.setVecs n.val ex f
  | .s n => if ex = 0 then st else st.setUni n.val (f (low ex))
  | _ => st

/-- Writes a 32-bit destination of the issuing stream: a register, or an entry of a queue (R18). -/
def State.setDst (s : State) (d : Dst) (ex : Mask) (f : Nat → Word) : State :=
  match d with
  | .q n => s.push n.val true 0 (pushLanes ex f)
  | d => s.modHere fun st => st.put d ex f

/-- Writes a pair. -/
def State.setPair (s : State) (d : Dst) (ex : Mask) (f : Nat → DWord) : State :=
  (s.setDst d ex fun i => (f i).setWidth 32).setDst (dstShift d 1) ex fun i => (f i).extractLsb' 32 32

/-- Writes consecutive registers. -/
def State.setDsts (s : State) (d : Dst) (ex : Mask) (n : Nat) (f : Nat → Nat → Word) : State :=
  (List.range n).foldl (fun s k => s.setDst (dstShift d k) ex fun i => f k i) s

/-- Writes a predicate in the executing lanes (R26). -/
def State.setPred (s : State) (p : Fin 8) (ex : Mask) (f : Nat → Bool) : State :=
  s.modHere fun st => st.setPred p ex (maskOf f)

/-! ## Uses: what an instruction names -/

/-- One operand use of an instruction: n registers from an operand, a line register, a predicate, an accumulator. -/
inductive Use where
  | src (a : Src) (n : Nat)
  | dst (d : Dst) (n : Nat)
  | pin (p : Fin 8)
  | pout (p : Fin 8)
  | line (n : Fin 16)
  | acc (a : Fin 8)
  | rejoin (r : Fin 4)
  deriving DecidableEq, Repr

/-- A register range lies below a limit (R22, R23); in handler mode the bank is always there (R25). -/
def vecOk (st : Stream) (window r n : Nat) : Bool :=
  (List.range n).all fun k =>
    decide (r + k < window) || (decide (st.mode ≠ .normal) && decide (176 ≤ r + k) && decide (r + k < 192))

/-- The limits and queue directions that one use must meet (R18, R22, R60, R61, R169, R389). -/
def Use.ok (g : Group) (x : Bool) : Use → Bool
  | .src (.v r) n => vecOk (g.stream x) (g.window x) r.val n
  | .src (.s r) n => decide (r.val + n ≤ 32)
  | .src (.q q) n => g.split && popSide q.val == x && n == 1
  | .src _ _ => true
  | .dst (.v r) n => vecOk (g.stream x) (g.window x) r.val n
  | .dst (.s r) n => decide (r.val + n ≤ 32)
  | .dst (.q q) n => g.split && popSide q.val != x && n == 1
  | .dst .z _ => true
  | .pin _ => true
  | .pout _ => true
  | .line n =>
    if (g.stream x).mode = .save ∨ (g.stream x).mode = .restore then decide (n.val < 2) else decide (n.val < g.c.lbud)
  | .acc a => decide (a.val < g.c.abud)
  | .rejoin r => !g.split || decide (2 ≤ r.val) == x

/-- The register keys that a use reads or writes; a bank register has a key of its own (R25). -/
def Use.keys (st : Stream) : Use → List Nat
  | .src (.v r) n => (List.range n).map fun k => vecKey (if st.banked (r.val + k) then r.val + k + 192 else r.val + k)
  | .src (.s r) n => (List.range n).map fun k => uniKey (r.val + k)
  | .dst (.v r) n => (List.range n).map fun k => vecKey (if st.banked (r.val + k) then r.val + k + 192 else r.val + k)
  | .dst (.s r) n => (List.range n).map fun k => uniKey (r.val + k)
  | .pin p => [predKey p.val]
  | .pout p => [predKey p.val]
  | .acc a => [accRegKey a.val]
  | _ => []

/-- The queues that uses pop, each once, and those they push. -/
def popsOf (us : List Use) : List Nat :=
  (us.filterMap fun u => match u with | .src (.q q) _ => some q.val | _ => none).eraseDups
def pushesOf (us : List Use) : List Nat :=
  us.filterMap fun u => match u with | .dst (.q q) _ => some q.val | _ => none

/-- Every queue that an instruction names can take part (R19): a pop finds a returned entry, a push finds room. -/
def Group.queuesReady (g : Group) (us : List Use) : Bool :=
  let pops := popsOf us
  (pops.all fun q => ((g.queue q).head?.map (·.ready)).getD false) &&
  (pushesOf us).all fun q =>
    !(g.stream (popSide q)).live || decide ((g.queue q).length - (if pops.contains q then 1 else 0) < 8)

/-- Pops the queues that uses name into the cursor (R18). -/
def State.popQueues (s : State) (us : List Use) : State :=
  (popsOf us).foldl (fun s q =>
    let e := (s.myGroup.queue q).head?
    let s := s.modMyGroup fun g => g.setQueue q (g.queue q).tail
    { s with cur := { s.cur with pop := SMap.set none s.cur.pop q e } }) s

/-- Pushes a zero entry for every queue destination: an issue without an executing lane pushes all the same (R18). -/
def State.pushZeros (s : State) (us : List Use) : State :=
  (pushesOf us).foldl (fun s q => s.push q true 0 []) s

end Sys2Proof.Machine
end

