-- ==== Sys2Proof/Machine/Flags.lean ====
section
/-!
DEFINITION. FSTAT (R103, R104): flags are sticky, and an instruction raises the OR of its executing lanes' flags.
-/

namespace Sys2Proof.Machine

/-- The OR of the flags of the executing lanes. -/
def orFlags (ex : Mask) (f : Nat → Flags) : Flags := (maskLanes ex).foldl (fun a i => a ||| f i) 0

/-- Raises flags in the issuing stream's FSTAT (R103). -/
def State.raise (s : State) (f : Flags) : State := s.modHere fun st => st.raise f

/-- Writes a 32-bit result and raises the flags of its lanes (R108). -/
def State.setRes (s : State) (d : Dst) (ex : Mask) (f : Nat → Nat × Flags) : State :=
  (s.setDst d ex fun i => BitVec.ofNat 32 (f i).1).raise (orFlags ex fun i => (f i).2)

/-- Writes a 64-bit result and raises the flags of its lanes. -/
def State.setRes64 (s : State) (d : Dst) (ex : Mask) (f : Nat → Nat × Flags) : State :=
  (s.setPair d ex fun i => BitVec.ofNat 64 (f i).1).raise (orFlags ex fun i => (f i).2)

end Sys2Proof.Machine
end

