-- ==== Sys2Proof/Machine/Issue.lean ====
section
/-!
DEFINITION. What every instruction does at its issue: the checks of R67 and R397, the interlock of R49, queues (R18, R19),
outstanding fences (R240), the comparators of R355-R358, redundant execution (R377, R378), the trap or the advance of its
lanes (R41). A meaning gives the instruction's own effect as an `Act`.
-/

namespace Sys2Proof.Machine

/-- Stream classes (R63). -/
inductive Cls where
  | both | a | x
  deriving DecidableEq, Repr

/-- What the opcode map and R397 say of an instruction, and the operands it names. -/
structure Info where
  g : Guard
  uses : List Use := []
  cls : Cls := .both
  la : Option (Fin 16) := none
  level : Nat := 0
  noHandler : Bool := false
  handlerOnly : Bool := false
  noCallee : Bool := false
  noCalleeSp : Bool := false
  noDmr : Bool := false
  dmrOnly : Bool := false
  wave : Bool := false
  graph : Bool := false
  callee : Bool := false
  concurrent : Bool := false
  illegal : Bool := false
  path : Option Path := none
  lanes : Bool := true

/-- The issue of an instruction: its stream, its program counter, its issuing and its executing lanes. -/
structure Ctx where
  id : StreamId
  pc : DWord
  iss : Mask
  ex : Mask

/-- What an issue comes to: its effect, after which the issuing lanes pass on; an effect that has moved the lanes itself;
nothing yet, the lanes staying (with or without a note that f leaves in the state), or the stream parked; or a trap, before
any effect but the one that f names, or after an effect that belongs to it. -/
inductive Act where
  | done (s : State)
  | jump (s : State)
  | hold
  | park
  | wait (f : State → State)
  | trap (r : TrapRec)
  | trapIn (s : State) (r : TrapRec)
  | trapBy (f : State → State) (r : TrapRec)
  | halt (r : TrapRec)

/-- Traps whose TADR is the slot (R344). -/
def Ctx.bad (c : Ctx) (code : Nat) : Act := .trap ⟨code, 0, c.pc, c.iss⟩
def Ctx.illegal (c : Ctx) : Act := c.bad 1
def Ctx.uniformity (c : Ctx) : Act := c.bad 4
/-- A trap raised by some lanes, with its address and detail. -/
def Ctx.trapOf (_ : Ctx) (code info : Nat) (adr : DWord) (m : Mask) : Act := .trap ⟨code, info, adr, m⟩

/-! ## Who runs what -/

/-- The launch of a team. -/
def State.launchOf (s : State) (t : Nat) : Option Launch := s.pkg.launches.find? fun l => l.id == (s.team t).launch

/-- A team of a task wave (R184). -/
def Team.isWave (t : Team) : Bool := t.wave

/-- The graph that started a team's launch or batch (R193). -/
def State.graphOf (s : State) (t : Nat) : Option Nat := (s.launchOf t).bind fun l => l.graph.map (·.1)

/-- The callee shares its team's scratchpad (R314). -/
def Group.shares (g : Group) : Bool := g.depth == 0 || ((g.frames.head?).map (·.shsp)).getD true

/-! ## The checks (R67, R397) -/

/-- Stream class, limits, and privilege (R67 steps 5 to 7): the code of the trap. -/
def State.checkDecode (s : State) (i : Info) : Option Nat :=
  let g := s.myGroup
  let x := s.cur.x
  if g.split && ((i.cls == .a && x) || (i.cls == .x && !x)) then some 1
  else if !(i.uses.all fun u => u.ok g x) then some 1
  else if g.levelOf x < i.level then some 3
  else none

/-- The class of OPEN with FN 0 to 2, CLOSE and FLUSH: A, but each stream opens and closes its own lines in routine mode
(R17, R389). -/
def State.openClass (s : State) : Cls := if s.here.mode = .save ∨ s.here.mode = .restore then .both else .a

/-- The context checks of R397 in their order. -/
def State.checkContext (s : State) (i : Info) : Option Nat :=
  let g := s.myGroup
  let handler := decide (s.here.mode ≠ .normal)
  if (i.noHandler && handler) || (i.handlerOnly && !handler) then some 1
  else if 0 < g.depth ∧ (i.noCallee || (i.noCalleeSp && !g.shares)) then some 3
  else if (i.wave && !s.myTeam.isWave) || (i.graph && (s.graphOf s.cur.team).isNone) || (i.callee && g.depth == 0) ||
      (i.noDmr && (s.dmrPair s.cur.team s.cur.grp).isSome) || (i.dmrOnly && g.dmr == .alone) || i.illegal then some 1
  else if i.concurrent && s.myTeam.cls != .concurrent then some 13
  else none

/-! ## Comparators (R355-R358) -/

/-- An armed comparator's mask and value: for a program counter, or for data addresses. -/
def pcCmpArmed (x : Nat) : Bool :=
  field x 0 1 == 1 && field x 2 14 == 0 && pcValid (BitVec.ofNat 64 (field x 64 64))
def dataCmpArmed (x : Nat) : Bool :=
  field x 0 1 == 1 && field x 2 2 != 0 && decide (field x 4 5 ≤ 24) && field x 9 7 == 0 && field x 120 8 == 0 &&
  field x 64 64 % 2 ^ field x 4 5 == 0

def cmpMask (x : Nat) : Mask := BitVec.ofNat 32 (field x 32 32)

/-- The trap or halt of a comparator's match. -/
def cmpAct (x k : Nat) (adr : DWord) (m : Mask) : Act :=
  if field x 1 1 = 0 then .trap ⟨12, k, adr, m⟩ else .halt ⟨12, k, adr, m⟩

/-- The lowest program-counter comparator that matches an issue. -/
def State.pcMatch (s : State) (c : Ctx) : Option Act :=
  if s.here.mode ≠ .normal ∨ (c.iss &&& s.here.skipCmp) ≠ 0 then none
  else (List.range 8).findSome? fun k =>
    let x := (SMap.get 0 (s.core s.myCore).cmp k).toNat
    if pcCmpArmed x && field x 16 16 == s.myAsid.toNat && BitVec.ofNat 64 (field x 64 64) == c.pc &&
        (c.iss &&& cmpMask x) != 0 then some (cmpAct x k c.pc (c.iss &&& cmpMask x))
    else none

/-- The lowest data-address comparator that matches an access: each lane's address, the bytes, and whether they are read
or written. -/
def State.dataMatch (s : State) (c : Ctx) (ls : List (Nat × Nat)) (n : Nat) (rd wr : Bool) : Option Act :=
  if s.here.mode ≠ .normal ∨ (c.iss &&& s.here.skipCmp) ≠ 0 then none
  else [8, 9, 10, 11].findSome? fun k =>
    let x := (SMap.get 0 (s.core s.myCore).cmp k).toNat
    let acc := field x 2 2
    let base := field x 64 64
    let len := 2 ^ field x 4 5
    let hit := ls.filter fun l => (cmpMask x).getLsbD l.1 && decide (l.2 < base + len) && decide (base < l.2 + n)
    if dataCmpArmed x && field x 16 16 == s.myAsid.toNat && ((rd && acc % 2 == 1) || (wr && acc / 2 == 1)) then
      match hit with
      | [] => none
      | l :: _ => some (cmpAct x k (BitVec.ofNat 64 l.2) (maskOf fun i => hit.any fun h => h.1 == i))
    else none

/-! ## Interlock and lookahead (R49) -/

/-- A pending result covers a register that the instruction names, or its lookahead is spent for an issuing lane. -/
def blocksIssue (iss : Mask) (keys covers : List Nat) (la : SMap (Option Nat)) : Bool :=
  (keys.any fun k => covers.contains k) || (maskLanes iss).any fun i => SMap.get none la i == some 0

def Stream.interlocked (st : Stream) (iss : Mask) (keys : List Nat) : Bool :=
  (st.pend.any fun p => blocksIssue iss keys p.covers p.la) || st.amos.any fun a => blocksIssue iss keys a.covers a.la

/-- Lanes that have issued an instruction come back to it: at a barrier that has released, or at an LLK one of whose bits was
freed (R234, R242). The device takes it up again, which is no second issue (R359). -/
def Stream.resumes (st : Stream) (iss : Mask) : Bool :=
  (maskLanes iss).all fun i => match st.holdOf i with
    | some (.llk _ _) => true
    | some (.barrier _) => true
    | _ => false

/-- One issue of lanes counts against the lookahead of their pending results. -/
def spendLa (iss : Mask) (la : SMap (Option Nat)) : SMap (Option Nat) :=
  (maskLanes iss).foldl (fun m i => SMap.mod none m i fun o => o.map (· - 1)) la
def Stream.spend (st : Stream) (iss : Mask) : Stream :=
  let iss := if st.resumes iss then 0 else iss
  { st with pend := st.pend.map fun p => { p with la := spendLa iss p.la },
            amos := st.amos.map fun a => { a with la := spendLa iss a.la } }

/-- The lookahead that a long-latency instruction gives its issuing lanes. -/
def startLa (iss : Mask) (la : Fin 16) : SMap (Option Nat) :=
  (maskLanes iss).foldl (fun m i => SMap.set none m i (some la.val)) []

/-- Registers of the X stream's accumulators are the group's: the X or fused stream holds their pending results. -/
def usesKeys (st : Stream) (us : List Use) : List Nat := us.flatMap fun u => u.keys st

/-! ## Redundant execution (R377, R378) -/

/-- The values and lines that the feed holds. -/
def nextWords (n : Nat) (f : List Feed) : Option (List (Nat × List Word)) :=
  f.findSome? fun x => match x with | .words k w => if k = n then some w else none | _ => none
def dropWords (n : Nat) : List Feed → List Feed
  | [] => []
  | .words k w :: l => if k = n then l else .words k w :: dropWords n l
  | x :: l => x :: dropWords n l
def nextLine (key : Nat) (f : List Feed) : Option (SMap Byte × List Nat) :=
  f.findSome? fun x => match x with | .line k b p => if k = key then some (b, p) else none | _ => none
def dropLine (key : Nat) : List Feed → List Feed
  | [] => []
  | .line k b p :: l => if k = key then l else .line k b p :: dropLine key l
  | x :: l => x :: dropLine key l

/-- Whether the pair lets the group issue now: the leader within 1,024 of the trailer, the trailer where the leader has
issued the same (R378). -/
def State.pairHolds (s : State) : Bool :=
  match s.myGroup.dmr, s.dmrPair s.cur.team s.cur.grp with
  | .alone, _ => false
  | .leader _, some q => q.forming.isSome || (decide (q.nT + 1024 ≤ q.nL) && !s.here.resumes s.cur.lanes)
  | .trailer _, some q => q.forming.isSome || !(s.here.resumes s.cur.lanes || (match nextStep q.feed with
      | some (.issue pc m) => pc == s.cur.pc && m == s.cur.lanes
      | _ => false))
  | _, none => false

/-- Counts an issue of a redundant group. -/
def State.pairIssued (s : State) : State :=
  match s.myGroup.dmr with
  | .alone => s
  | .leader p => s.modPair s.cur.team p fun q => { q with nL := q.nL + 1, feed := q.feed ++ [.issue s.cur.pc s.cur.lanes] }
  | .trailer p => s.modPair s.cur.team p fun q => { q with nT := q.nT + 1, feed := dropStep q.feed }

/-- Key of `relWait` for the mark that an issue of lanes has made its compare record (R378). -/
def recordMark (ex : Mask) : Nat := 128 + low ex

/-- The compare record of the issuing group. -/
def State.record (s : State) (what : Nat) (ex : Mask) (data : Bytes) : State :=
  s.recordOf s.cur.team s.cur.grp (what + 2 ^ 32 * s.cur.pc.toNat, ex.toNat, data)

/-! ## Fault injection (R381) -/

/-- The injection record of the bench names this group and is armed: with DMR 1 the trailing group of the first pair formed since
it was armed. -/
def State.injectHere (s : State) : Bool :=
  let x := (s.bench (benchKey s.myCore)).inject.toNat
  field x 0 1 == 1 &&
  (if field x 1 1 = 1 then (match s.myGroup.dmr with | .trailer p => (s.bench (benchKey s.myCore)).injPair == some p | _ => false)
   else field x 32 4 == s.myCore.core % 16 && field x 24 5 == s.cur.grp)

/-- The instruction's destinations cover a vector register. -/
def writesVec (us : List Use) (r : Nat) : Bool :=
  us.any fun u => match u with
    | .dst (.v d) n => decide (d.val ≤ r) && decide (r < d.val + n)
    | _ => false

/-- Counts an issue against the record, once, and fires it at the COUNT-th: on the result written now, or on the one that the
instruction has left pending, which alone covers the register. -/
def State.inject (s : State) (us : List Use) (ex : Mask) : State :=
  if !s.injectHere || s.resumed then s
  else
    let b := benchKey s.myCore
    let x := (s.bench b).inject
    let n := (s.bench b).injCount + 1
    if n < field x.toNat 96 32 then s.modBench b fun k => { k with injCount := n }
    else
      let s := s.modBench b fun k => { k with injCount := 0, inject := x &&& ~~~1, injPair := none }
      let lane := field x.toNat 8 5
      let r := field x.toNat 16 8
      let mask : Word := BitVec.ofNat 32 (field x.toNat 64 32)
      if !writesVec us r || !ex.getLsbD lane then s
      else s.modHere fun st =>
        if st.pend.any fun p => p.covers.contains (vecKey r) then
          { st with pend := st.pend.map fun p => { p with writes := p.writes.map (RegWrite.flip r lane mask) } }
        else if st.amos.any fun a => a.covers.contains (vecKey r) then
          { st with amos := st.amos.map fun a => if a.covers.contains (vecKey r) then { a with flip := some (r, lane, mask) } else a }
        else
          match st.watch with
          | some w => { st with watch := some { w with flip := some (lane, mask) } }
          | none => st.setVec r lane (st.vec r lane ^^^ mask)

/-! ## Shorthands for meanings -/

/-- A 32-bit source, a pair, a 32-bit destination, a destination pair. -/
def u1 (a : Src) : Use := .src a 1
def u2 (a : Src) : Use := .src a 2
def d1 (d : Dst) : Use := .dst d 1
def d2 (d : Dst) : Use := .dst d 2

/-- The register-file writes of one destination register. -/
def dstWrites (st : Stream) (d : Dst) (ex : Mask) (q : Nat) (f : Nat → Word) : List RegWrite :=
  match d with
  | .v r => (maskLanes ex).map fun i => if st.banked r.val then .bank r.val i (f i) else .vec r.val i (f i)
  | .s r => if ex = 0 then [] else [.uni r.val (f (low ex))]
  | .z => []
  | .q r => [.queue r.val q (pushLanes ex f)]

/-- Issues a long-latency result (R49): n registers from D, with the flags it raises when it is written (R104). A queue
takes its entry now, and its value then. -/
def State.longLat (s : State) (c : Ctx) (la : Fin 16) (d : Dst) (n : Nat) (f : Nat → Nat → Word) (fl : Flags) : State :=
  let (p, s) := s.fresh
  let st := s.here
  let ws := (List.range n).flatMap fun k => dstWrites st (dstShift d k) c.ex p (f k)
  let ws := if fl = 0 then ws else ws ++ [.fstat (fl.setWidth 32)]
  let s := match d with
    | .q q => s.push q.val false p []
    | _ => s
  let e : Pending := ⟨p, ws, (Use.dst d n).keys st, startLa c.iss la, none, none⟩
  (s.modHere fun st => { st with pend := st.pend ++ [e] }).later 1 (.longLatencyWriteback c.id p)

/-! ## The issue itself -/

/-- The issuing lanes pass to the next slot (R41). -/
def State.advance (s : State) (id : StreamId) (m : Mask) : State :=
  s.modStream id fun st => st.setPcs m fun i => nextPc (st.pc i)

/-- A trap taken by the issuing stream on the state before the instruction (R342); in handler mode, where none is held, a
leading group holds the instruction until its trailing group has reached it (R377). -/
def State.trapHere (s : State) (r : TrapRec) : State :=
  if s.here.mode ≠ .normal ∧ s.trapWaits s.cur.id then s.hold else { s.takeTrap s.cur.id r with trapped := true }

/-- Where a stream is still parked after an issue: the instruction at which it parked has issued, or no lane stands there. -/
def Stream.parkedAfter (st : Stream) (pc : DWord) : Option DWord :=
  st.parked.bind fun p => if p = pc ∨ st.lanesAt p = 0 then none else some p

/-- The stream parks at the program counter (R19, R31). -/
def State.park (s : State) : State := (s.modHere fun st => { st with parked := some s.cur.pc }).hold

/-- An issue counts once (R359): lookahead, E, the pair's count. -/
def State.countIssue (s : State) (iss : Mask) : State :=
  let again := s.here.resumes iss
  let s := { s.modHere fun st => { st.spend iss with parked := st.parkedAfter s.cur.pc } with resumed := again }
  let s := s.modMyTeam fun t => { t with ecount := t.ecount + bit01 (!again) }
  if again then s else s.pairIssued

/-- Runs an instruction's own effect: where it acts lane by lane and no lane executes, nothing of it happens, the checks of a tensor
entry neither (R133 says 'at issue' and not whether the guard matters; DESIGN CHOICE, log 42). -/
def State.runAct (s : State) (i : Info) (c : Ctx) (body : Ctx → State → Act) : State :=
  let s1 := (s.countIssue c.iss).popQueues i.uses
  let act := if i.lanes && c.ex == 0 then .done (s1.pushZeros i.uses) else body c s1
  match act with
  | .done t => (t.inject i.uses c.ex).advance c.id (c.iss &&& (t.stream c.id).amask)
  | .jump t => t.inject i.uses c.ex
  | .hold => s.hold
  | .park => s.park
  | .wait f => (f s).hold
  | .trap r => s.trapHere r
  | .trapIn t r => t.trapHere r
  | .trapBy f r => (f s).trapHere r
  | .halt r => s.haltGroup c.id r false

/-- An instruction whose lanes are the last of their group ends it, which asks for a checkpoint: it holds while one is pending (R212,
R366). -/
def State.endHolds (s : State) (id : StreamId) (stay : Mask) : Bool :=
  let g := s.group id.team id.grp
  g.depth == 0 && stay == 0 && !(g.stream (!id.x)).live && (s.team id.team).pending.isSome
def endFirst (c : Ctx) (s : State) (stay : Mask) (go : Act) : Act := if s.endHolds c.id stay then .hold else go

/-- The issue of an instruction at the cursor. -/
def issue (i : Info) (body : Ctx → State → Act) (s : State) : Host.Outcome State Fault Refusal :=
  let st := s.here
  if st.live = false ∨ s.cur.lanes = 0 then .fault .noIssuingStream
  else
    let iss := s.cur.lanes
    let c : Ctx := ⟨s.cur.id, s.cur.pc, iss, st.guarded i.g iss⟩
    .next <|
      match s.checkDecode i with
      | some code => s.trapHere ⟨code, 0, c.pc, iss⟩
      | none =>
        match s.checkContext i with
        | some code => s.trapHere ⟨code, 0, c.pc, iss⟩
        | none =>
          if s.pairHolds then s.hold
          else if st.interlocked iss (predKey i.g.p.val :: usesKeys st i.uses) then s.hold
          else if (match i.path with | some p => st.fences.any fun f => f.closes == p && !s.fenceDone c.id f | none => false)
            then s.hold
          else if !(s.myGroup.queuesReady i.uses) then s.park
          else
            match s.pcMatch c with
            | some (.halt r) => s.haltGroup c.id r false
            | some (.trap r) => s.trapHere r
            | _ => s.runAct i c body

end Sys2Proof.Machine
end

