-- ==== Sys2Proof/Machine/LineMem.lean ====
section
/-!
DEFINITION. Line memory: opening, closing and describing lines (R31, R225-R230, R304), fetches as they land (R204), loads
and stores (R223, R224, R231, R232).
-/

namespace Sys2Proof.Machine

/-! ## Registers of the issuing stream -/

/-- The line register that an instruction names; in routine mode the stream's own two (R389). -/
def State.lineRef (s : State) (id : StreamId) (ln : Fin 16) : LineRef :=
  let g := s.group id.team id.grp
  let m := (g.stream id.x).mode
  let routine := decide (m = .save ∨ m = .restore)
  ⟨id.team, id.grp, g.depth, routine, routine && id.x, ln.val⟩

/-- The address of a byte of a register's line as TADR gives it (R223); a key-value line gives its coordinate pair
(DEDUCED, log 18). -/
def LineReg.addr (l : LineReg) (o : Nat) : DWord :=
  match l.st with
  | .empty => 0
  | _ => if l.mode = 4 then BitVec.ofNat 64 l.line else BitVec.ofNat 64 (128 * l.line + o)

/-- The offset of each lane: computed without wrapping (R222). -/
def State.lineOff (s : State) (l : LOp) (i : Nat) : Nat := (s.src l.b i).toNat + l.off.toNat

/-- A line that names another member's scratchpad (R228). -/
def LineReg.windowed (l : LineReg) : Bool := l.mode != 3 && l.mode != 4 && inWindow (128 * l.line)

/-! ## Fetches (R203, R204) -/

/-- A line's bytes and poison in the form an entry keeps. -/
def lineOf (f : Nat → Byte) : SMap Byte := lineOffsets.filterMap fun i => if f i = 0 then none else some (i, f i)

/-- The bytes and poison of a register's line at its point of coherence (R207), in one indivisible read. -/
def State.pocLine (s : State) (l : LineReg) : SMap Byte × List Nat :=
  if l.windowed then
    let e := s.entry (s.teamCore (l.pa / 4 / 2 ^ 14)) l.pa
    (lineOf e.byte, (List.range 8).filter e.poisonAt)
  else if l.host then (lineOf fun i => s.readHost (l.pa + i), [])
  else (lineOf fun i => s.readPa l.kid (l.pa + i), (List.range 8).filter fun g => s.poisoned (l.pa + 16 * g))

/-- The bytes of a line that have departed from a core and not yet reached their point of coherence: stores of the core that
happened before a read of the line there (R198, R213; DEDUCED, log 35). -/
def State.waitingBytes (s : State) (c : CoreId) (key : Nat) : List LWrite :=
  let e := s.entry c key
  (s.core c).waiting.flatMap fun w =>
    match w.work with
    | .depart _ _ _ rep bs _ =>
      if w.work.leftFrom key e && rep.isNone then
        bs.map fun b => { LWrite.mk' b.team w.grp b.date false [(b.off, b.b)] with left := [b.off] }
      else []
    | _ => []

/-- Refreshes the entry of a register whose translation is known; a trailing group takes what its leader read, and waits
while there is none (R203, R377). -/
def State.refreshLine (s : State) (t g : Nat) (l : LineReg) : Option State :=
  let c := s.teamCore t
  match (s.group t g).dmr with
  | .trailer p =>
    match (s.dmrPair t g).bind fun q => nextLine (shadowed l.key) q.feed with
    | none => none
    | some (b, po) =>
      some ((s.modPair t p fun q => { q with feed := dropLine (shadowed l.key) q.feed }).modEntry c l.key fun e => e.refresh b po [] s.time)
  | _ =>
    let r := s.pocLine l
    some ((s.modEntry c l.key fun e => e.refresh r.1 r.2 (s.waitingBytes c l.key) s.time).feedTrailer t g fun _ => .line l.key r.1 r.2)

/-- A register's line has come: it becomes OPEN. -/
def State.lineOpens (s : State) (r : LineRef) (l : LineReg) : State := s.setLineAt r { l with st := .opened }

/-- The bytes are there once the entry is fetched, at the opening or now; a trailing group takes them either way (R377). -/
def State.lineArrives (s : State) (r : LineRef) (l : LineReg) : State :=
  if l.fetched ≠ 0 then
    let e := s.entry (s.teamCore r.team) l.key
    (s.feedTrailer r.team r.grp fun _ => .line l.key (lineOf e.byte) ((List.range 8).filter e.poisonAt)).lineOpens r l
  else
    match s.refreshLine r.team r.grp l with
    | none => s.again (.lineFetchLands r)
    | some s' => s'.lineOpens r { l with fetched := s.time }

/-- A fatal translation stays with the register until an access meets it (R294). -/
def State.lineFatal (s : State) (r : LineRef) (l : LineReg) (adr : Nat) : State := s.setLineAt r { l with fault := some adr }

/-- The member and the offset of a window address; none where R228 raises the fatal page trap. -/
def State.windowTarget (s : State) (t va : Nat) : Option (Nat × Nat) :=
  match s.clusterOf t with
  | none => none
  | some c =>
    match c.member (windowMember va) with
    | none => none
    | some m => if m = t ∨ (s.team m).spadSize ≤ windowOff va then none else some (m, windowOff va)

/-- The fetch of an OPENING register lands (R31, R204, R226, R288). -/
def execLineFetchLands (r : LineRef) (s : State) : Host.Outcome State Fault Refusal :=
  let l := s.lineAt r
  let again := fun (s : State) => s.again (.lineFetchLands r)
  let c := s.teamCore r.team
  let ctx := (s.group r.team r.grp).ctxAt r.depth
  .next <|
    if l.st ≠ .opening ∨ l.fault.isSome then s
    else if l.mode = 1 ∧ !l.windowed then s.lineOpens r { l with fetched := s.time }
    else if l.mode = 3 then
      if s.present r.team l.line then s.lineOpens r { l with fetched := s.time } else again s
    else if keyKind l.key = 3 then s.lineArrives r l
    else if l.mode = 4 then
      let q := s.kvTranslate c (if l.rw then .kvRw else .kvRead) ctx.asid ctx.kvroot l.line l.lanes r.grp 0 l.bound
      match q.1 with
      | .wait => again q.2
      | .fatal => q.2.lineFatal r l l.line
      | .ok e =>
        match q.2.kvDesc ctx.kvroot with
        | none => q.2.lineFatal r l l.line
        | some d =>
          let l := { l with pa := e.frame + d.lineOff l.line, size := d.psize, w := e.w, kid := e.key, root := ctx.kvroot }
          (q.2.modEntry c l.key fun x => { x with kv := some (l.pa, e.key) }).lineArrives r l
    else if l.windowed then
      match s.windowTarget r.team (128 * l.line) with
      | none => s.lineFatal r l (128 * l.line + l.byte)
      | some (m, off) =>
        let s := s.modEntry c l.key fun x => { x with win := some (m, off) }
        let l := { l with pa := scratchKey m (off / 128), w := true }
        if l.mode = 1 then s.lineOpens r { l with fetched := s.time }
        else if s.present m (off / 128) then s.lineArrives r l else again s
    else
      let k := if l.mode = 2 then FaultKind.openRw else FaultKind.openRead
      let q := s.translate c k ctx.asid (128 * l.line + l.byte) l.lanes r.grp 0 l.bound false
      match q.1 with
      | .wait => again q.2
      | .fatal => q.2.lineFatal r l (128 * l.line + l.byte)
      | .ok t => q.2.lineArrives r { l with pa := t.addr c.die (128 * l.line), size := t.size, host := t.host, w := t.w, kid := t.key }

/-! ## Opening (R225-R228, R304) -/

/-- The entry that a register uses for a line: a trailing group has its own but for scratchpad lines (R377). -/
def State.ownKey (s : State) (r : LineRef) (mode key : Nat) : Nat :=
  match (s.group r.team r.grp).dmr with
  | .trailer _ => if mode = 3 then key else shadowKey r.team key
  | _ => key

/-- Binds a line to a register (R31): what it held leaves, and the fetch is under way unless the core holds a copy
fetched since the stream's last acquire that crosses cores (R204). -/
def State.bindLine (s : State) (r : LineRef) (x : Bool) (mode line byte key : Nat) (rw : Bool) (lanes : Mask) : State :=
  let c := s.teamCore r.team
  let s := (s.leaveLine r).trimCopies c
  let key := s.ownKey r mode key
  let e := s.entry c key
  let have_ := decide (mode ≠ 3) && decide (keyKind key ≠ 3) && e.held && e.valid &&
    decide ((s.stream ⟨r.team, r.grp, x⟩).epoch ≤ e.fetched)
  let s := s.modEntry c key fun e => { e with held := true }
  let s := s.setLineAt r { LineReg.empty with st := .opening, mode := mode, line := line, key := key, rw := rw, lanes := lanes, byte := byte, bound := s.time,
                                              fetched := if have_ then e.fetched else 0 }
  s.later 1 (.lineFetchLands r)

/-- The departure of what a register holds finds room in the lehr (R205). -/
def State.leaveRoom (s : State) (r : LineRef) : Bool := s.recallTakes r.team [r]

/-- The mode of an opening (R225). -/
def openMode : OpenMode → Nat
  | .read => 0
  | .write => 1
  | .rw => 2

/-- The lanes whose address lies in the line of the lowest one. -/
def sameLine (ex : Mask) (a : Nat → Nat) : Mask := maskOf fun i => ex.getLsbD i && a i / 128 == a (low ex) / 128

def execOpenLine (g : Guard) (mode : OpenMode) (u : Bool) (d : Fin 8) (l : LOp) (b : Src) (s : State) :
    Host.Outcome State Fault Refusal :=
  issue { g := g, uses := [.pout d, u1 l.b, u2 b, .line l.ln], cls := s.openClass, path := some .ls }
    (fun c s =>
      let a := fun i => (s.srcPair b i + BitVec.ofNat 64 (s.lineOff l i)).toNat
      let a0 := a (low c.ex)
      let m := sameLine c.ex a
      let r := s.lineRef c.id l.ln
      let one := BitVec.twoPow 32 (low c.ex)
      if u && m != c.ex then c.uniformity
      else if 2 ^ 56 ≤ a0 then c.trapOf 8 l.ln.val (BitVec.ofNat 64 a0) one
      else if inWindow a0 && (s.windowTarget c.id.team (a0 / 128 * 128)).isNone then
        c.trapOf 8 l.ln.val (BitVec.ofNat 64 a0) one
      else if !s.leaveRoom r then .hold
      else
        let touch := maskOf fun i => c.ex.getLsbD i && s.samePage s.myAsid a0 (a i)
        let s := s.setPred d c.ex fun i => m.getLsbD i
        .done (s.bindLine r c.id.x (openMode mode) (a0 / 128) (a0 % 128) (s.lineKey c.id.team s.myAsid (a0 / 128)) false touch)) s

/-- OPEN.REOPEN: the same address is fetched again, in the address space and the cluster of now; the X stream may execute it in
handler mode (R227, R228). -/
def execOpenReopen (g : Guard) (ln : Fin 16) (s : State) : Host.Outcome State Fault Refusal :=
  issue { g := g, uses := [.line ln], cls := if s.here.mode = .normal then .a else .both, path := some .ls }
    (fun c s =>
      let r := s.lineRef c.id ln
      let l := s.lineAt r
      match l.st with
      | .empty => c.trapOf 5 ln.val 0 c.ex
      | .recalled =>
        let key := s.ownKey r l.mode (match l.mode with
          | 3 => scratchKey c.id.team l.line
          | 4 => kvKey s.myAsid l.line
          | _ => s.lineKey c.id.team s.myAsid l.line)
        let s := s.modEntry s.myCore key fun e => { e with held := true }
        let s := s.setLineAt r
          { l with st := .opening, key := key, fetched := 0, fault := none, lanes := c.ex, byte := 0, bound := s.time }
        .done (s.later 1 (.lineFetchLands r))
      | _ => .done s) s

def execOpens (g : Guard) (u : Bool) (d : Fin 8) (l : LOp) (s : State) : Host.Outcome State Fault Refusal :=
  issue { g := g, uses := [.pout d, u1 l.b, .line l.ln], cls := .a, noCalleeSp := true, path := some .ls }
    (fun c s =>
      let o := s.lineOff l
      let o0 := o (low c.ex)
      let m := sameLine c.ex o
      let r := s.lineRef c.id l.ln
      let size := s.myTeam.spadSize
      if u && m != c.ex then c.uniformity
      else if size ≤ o0 / 128 * 128 then
        c.trapOf 7 l.ln.val (BitVec.ofNat 64 o0) (maskOf fun i => c.ex.getLsbD i && decide (size ≤ o i / 128 * 128))
      else if !s.leaveRoom r then .hold
      else
        let s := s.setPred d c.ex fun i => m.getLsbD i
        .done (s.bindLine r c.id.x 3 (o0 / 128) (o0 % 128) (scratchKey c.id.team (o0 / 128)) false c.ex)) s

/-- KVOPEN (R304): its checks in order, then the binding. -/
def execKvopen (g : Guard) (rw u : Bool) (d : Fin 8) (ln : Fin 16) (b : Src) (s : State) :
    Host.Outcome State Fault Refusal :=
  issue { g := g, uses := [.pout d, u2 b, .line ln], cls := .a, path := some .ls }
    (fun c s =>
      let a := fun i => (s.srcPair b i).toNat
      let c0 := a (low c.ex)
      let m := maskOf fun i => c.ex.getLsbD i && a i == c0
      let r := s.lineRef c.id ln
      let out := decide (2 ^ 63 ≤ c0) || (match s.kvDesc s.myGroup.c.kvroot with
        | some k => !k.inRange c0
        | none => false)
      if u && m != c.ex then c.uniformity
      else if s.myGroup.c.kvroot = 0 then c.trapOf 9 ln.val (BitVec.ofNat 64 c0) c.ex
      else if out then c.trapOf 7 ln.val (BitVec.ofNat 64 c0) c.ex
      else if !s.leaveRoom r then .hold
      else
        let touch := maskOf fun i => c.ex.getLsbD i && kvPage (a i) == kvPage c0
        let s := s.setPred d c.ex fun i => m.getLsbD i
        .done (s.bindLine r c.id.x 4 c0 0 (kvKey s.myAsid c0) rw touch)) s

/-! ## Closing and describing (R229, R230) -/

def execClose (g : Guard) (ln : Fin 16) (s : State) : Host.Outcome State Fault Refusal :=
  issue { g := g, uses := [.line ln], cls := s.openClass, path := some .ls }
    (fun c s =>
      let r := s.lineRef c.id ln
      if !s.leaveRoom r then .hold else .done (s.closeLine r)) s

def execFlush (g : Guard) (ln : Fin 16) (s : State) : Host.Outcome State Fault Refusal :=
  issue { g := g, uses := [.line ln], path := some .ls }
    (fun c s =>
      let r := s.lineRef c.id ln
      if !s.leaveRoom r then .hold else .done (s.leaveLine r)) s

def lstateCode : LState → Nat
  | .empty => 0
  | .opening => 1
  | .opened => 2
  | .recalled => 3

/-- The 128-bit descriptor of a register (R30). -/
def State.descriptor (s : State) (r : LineRef) : BitVec 128 :=
  let l := s.lineAt r
  let dirty := l.st == .opened && !(s.entry (s.teamCore r.team) l.key).dirty.isEmpty
  if l.st = .empty then 0
  else BitVec.ofNat 128 (lstateCode l.st + 4 * l.mode + 32 * bit01 dirty + 2 ^ 64 * l.line)

def execLinfo (g : Guard) (la : Fin 16) (d : Dst) (ln : Fin 16) (s : State) : Host.Outcome State Fault Refusal :=
  issue { g := g, uses := [.dst d 4, .line ln], la := some la }
    (fun c s =>
      let s := s.drainGroup c.id.team c.id.grp
      let x := s.descriptor (s.lineRef c.id ln)
      .done (s.longLat c la d 4 (fun k _ => x.extractLsb' (32 * k) 32) 0)) s

/-! ## The checks of an access (R223, R224) -/

/-- What the checks of an access come to. -/
inductive LineCheck where
  | ok (r : LineRef) (l : LineReg)
  | stop (a : Act)

/-- The checks of R223 in their order, and the holds of R224: n bytes at each lane's offset. X parks on an EMPTY register
where the instruction lets it (R31). -/
def State.checkLine (s : State) (c : Ctx) (ln : Fin 16) (n : Nat) (o : Nat → Nat) (modeOk : LineReg → Bool)
    (park : Bool) : LineCheck :=
  let r := s.lineRef c.id ln
  let l := s.lineAt r
  let trap := fun (code : Nat) (m : Mask) => LineCheck.stop (c.trapOf code ln.val (l.addr (o (low m))) m)
  let odd := maskOf fun i => c.ex.getLsbD i && o i % n != 0
  let far := maskOf fun i => c.ex.getLsbD i && decide (128 < o i + n)
  if l.st = .empty then
    if park && c.id.x && !r.routine then .stop .park else trap 5 c.ex
  else if l.st = .recalled then trap 5 c.ex
  else if !modeOk l then trap 6 c.ex
  else if odd ≠ 0 then trap 10 odd
  else if far ≠ 0 then trap 7 far
  else
    match l.st, l.fault with
    | .opening, some a =>
      .stop (.trapBy (fun s => s.setLineAt r .empty) ⟨if l.mode = 4 then 9 else 8, ln.val, BitVec.ofNat 64 a, c.ex⟩)
    | .opening, none => .stop .hold
    | _, _ => if l.mode = 3 ∧ s.present c.id.team l.line = false then .stop .hold else .ok r l

/-- The data comparators see accesses to global lines only (R357). -/
def State.lineMatch (s : State) (c : Ctx) (l : LineReg) (n : Nat) (o : Nat → Nat) (rd wr : Bool) (go : Act) : Act :=
  if l.mode = 3 ∨ l.mode = 4 then go
  else
    match s.dataMatch c ((maskLanes c.ex).map fun i => (i, 128 * l.line + o i)) n rd wr with
    | some a => a
    | none => go

/-- The name of a granule of a line that poison is remembered by (R374). -/
def LineReg.granule (l : LineReg) (g : Nat) : Nat :=
  if l.mode = 3 ∨ l.windowed ∨ keyKind l.key = 3 then padGranule l.key g else memGranule (l.pa + 16 * g)

/-- Consumption of a poisoned granule (R374): a rollback the first time, then a machine check. -/
def Ctx.consume (c : Ctx) (s : State) (granule : Nat) (adr : DWord) : Act :=
  if (s.team c.id.team).poisoned.contains granule then .trap ⟨14, 0, adr, s.here.amask⟩
  else .wait fun s => s.consume c.id.team granule

/-- A read through a line register consumes what it reads; the stream's own queued stores count as stored (R202, R375). -/
def State.linePoison (s : State) (c : Ctx) (l : LineReg) (o : Nat → Nat) (go : Act) : Act :=
  let x := s.entry s.myCore l.key
  let q := (s.here.sq.filter fun w => w.line == l.key).map fun w => LWrite.mk' c.id.team c.id.grp s.time w.multi w.bytes
  let e := { x with log := x.log ++ q }
  match (maskLanes c.ex).find? fun i => e.poisonAt (o i / 16) with
  | some i => c.consume s (l.granule (o i / 16)) (l.addr 0)
  | none => go

/-- A word of a line as the issuing stream reads it: n bytes at an offset. -/
def State.lineNat (s : State) (id : StreamId) (l : LineReg) (o n : Nat) : Nat :=
  leNat ((List.range n).map fun k => s.readLine id l.key (o + k))

/-! ## Loads (R231) -/

def execLd (g : Guard) (la : Fin 16) (size : Size) (acq : Bool) (scope : Scope) (d : Dst) (l : LOp) (s : State) :
    Host.Outcome State Fault Refusal :=
  issue { g := g, uses := [.dst d size.regs, u1 l.b, .line l.ln], la := some la, path := some .ls }
    (fun c s =>
      let o := s.lineOff l
      let n := size.bytes
      match s.checkLine c l.ln n o (fun l => l.mode != 1) true with
      | .stop a => a
      | .ok _ lr =>
        s.lineMatch c lr n o true false <|
          let fresh := acq && crosses (s.scopeOf c.id.team scope) && lr.mode != 3
          match (if fresh then s.refreshLine c.id.team c.id.grp lr else some s) with
          | none => .hold
          | some s =>
            s.linePoison c lr o <|
              let f := fun k i => BitVec.ofNat 32 (s.lineNat c.id lr (o i + 4 * k) (min 4 n))
              let s := s.longLat c la d size.regs f 0
              .done (if acq then s.acquire c.id scope else s)) s

/-! ## Releases that an access waits for (R210, R231) -/

/-- The lanes of an access have the release that it waits for behind them. -/
def State.clearRel (s : State) (id : StreamId) (ex : Mask) : State :=
  s.modStream id fun st => { st with relWait := (maskLanes ex).foldl (fun m i => SMap.set none m i none) st.relWait }

/-- The lanes' releases begin at the first attempt that finds room for every departure that the scope asks for, and the
access is performed once they are complete. -/
def releaseFirst (c : Ctx) (s : State) (sc : Scope) (start : State → State) (done : Nat → State → Bool) (go : State → Act) : Act :=
  let st := s.here
  let dates := (maskLanes c.ex).map fun i => SMap.get none st.relWait i
  if dates.any Option.isNone then
    .wait fun s =>
      let s := start s
      if crosses (s.scopeOf c.id.team sc) && !s.allOut (s.teamCore c.id.team) then s
      else s.modStream c.id fun st =>
        { st with relWait := (maskLanes c.ex).foldl (fun m i =>
            if (SMap.get none m i).isNone then SMap.set none m i (some s.time) else m) st.relWait }
  else if dates.all fun d => done (d.getD 0) s then go (s.clearRel c.id c.ex)
  else .hold

/-- A release of a path that does not hold its instruction: it holds while the team has a checkpoint pending (R366) and until the lehr
has taken every departure that it causes (R205). -/
def departFirst (c : Ctx) (s : State) (p : Path) (sc : Scope) (go : Act) : Act :=
  let sc := s.scopeOf c.id.team sc
  let k := s.teamCore c.id.team
  if coreOrWider sc ∧ (s.team c.id.team).pending.isSome then .hold
  else if p = .ls ∧ crosses sc ∧ !((s.drainQueue c.id).departAll k c.id.team c.id.grp).allOut k then
    .wait fun s => ((s.drainQueue c.id).departAll k c.id.team c.id.grp).askRelease c.id sc
  else go

/-- A release of the LS path before an access: at GROUP and TEAM scope the drained store queue is enough (R210). -/
def lsRelease (c : Ctx) (s : State) (rel : Bool) (sc : Scope) (go : State → Act) : Act :=
  if !rel || !coreOrWider (s.scopeOf c.id.team sc) then go s
  else releaseFirst c s sc (fun s => s.beginRelease c.id sc) (fun d s => s.releaseDone c.id sc d) go

/-! ## Stores (R231, R232) -/

/-- The line records of a core's journal (R366): a team's writes to a line since its safe checkpoint make one. -/
def State.journalled (s : State) (c : CoreId) : List (Nat × Nat) :=
  (s.core c).lines.flatMap fun p =>
    ((p.2.log.filter fun w => decide ((s.team w.team).safe.date < w.date)).map fun w => (w.team, p.1)).eraseDups

/-- A store that would need a record waits while the journal holds its 2,048. -/
def State.journalRoom (s : State) (c : CoreId) (team key : Nat) : Bool :=
  let l := s.journalled c
  decide (l.length < 2048) || l.contains (team, key)

/-- Seven eighths full, checkpoints are taken of every team with records in it. -/
def State.journalCheck (s : State) (c : CoreId) : State :=
  let l := s.journalled c
  if 1792 ≤ l.length then (l.map (·.1)).eraseDups.foldl (fun s t => s.askCkpt t) s else s

/-- The bytes that the lanes of a store write, ascending: the higher lane's value stands. -/
def State.storeBytes (s : State) (c : Ctx) (size : Size) (o : Nat → Nat) (b : Src) : Bytes :=
  (maskLanes c.ex).flatMap fun i =>
    let x := leNat ((s.srcs b size.regs i).flatMap fun w => leBytes 4 w.toNat)
    (leBytes size.bytes x).zipIdx.map fun p => (o i + p.2, p.1)

/-- The compare record of an access through a line (R378): each lane's address, which is the line and the offset in it, and data. -/
def lineRecord (l : LineReg) (bs : Bytes) : Bytes := bs.map fun p => (128 * l.line + p.1, p.2)

/-- ST and MST: multi marks the bytes for every replica. A release store is performed before its program counter passes on (R231). -/
def storeBody (op : Nat) (multi : Bool) (size : Size) (rel : Bool) (scope : Scope) (l : LOp) (b : Src)
    (modeOk : LineReg → Bool) (c : Ctx) (s : State) : Act :=
  let o := s.lineOff l
  let n := size.bytes
  match s.checkLine c l.ln n o modeOk true with
  | .stop a => a
  | .ok _ lr =>
    s.lineMatch c lr n o false true <|
      if !s.journalRoom s.myCore c.id.team lr.key || (rel && !s.lehrTakes s.myCore c.id.team 4) then .hold
      else
        lsRelease c s rel scope fun s =>
          let bs := s.storeBytes c size o b
          let s := s.record (op + 256 * n) c.ex (lineRecord lr bs)
          let s := s.modHere fun st => { st with sq := st.sq ++ [⟨lr.key, bs, multi⟩] }
          let s := s.journalCheck s.myCore
          if !rel then .done s
          else
            let s := s.drainQueue c.id
            .done (if crosses (s.scopeOf c.id.team scope) then s.depart s.myCore c.id.team c.id.grp lr.key else s)

def execSt (g : Guard) (size : Size) (rel : Bool) (scope : Scope) (l : LOp) (b : Src) (s : State) :
    Host.Outcome State Fault Refusal :=
  issue { g := g, uses := [u1 l.b, .src b size.regs, .line l.ln], path := some .ls }
    (storeBody 0x84 false size rel scope l b fun l => l.mode != 0 && (l.mode != 4 || l.w || l.st == .opening)) s

def execMst (g : Guard) (size : Size) (rel : Bool) (scope : Scope) (l : LOp) (b : Src) (s : State) :
    Host.Outcome State Fault Refusal :=
  issue { g := g, uses := [u1 l.b, .src b size.regs, .line l.ln], cls := .a, path := some .ls }
    (storeBody 0x8D true size rel scope l b fun l => l.mode == 1 || l.mode == 2) s

end Sys2Proof.Machine
end

