-- ==== Sys2Proof/Machine/Atomics.lean ====
section
/-!
DEFINITION. Far atomics and reductions (R235, R236), SCAT (R277-R279), redundant and repeated execution of what returns a
value (R371, R377, R378), and CMCAST (R237).
-/

namespace Sys2Proof.Machine

/-! ## Addresses (R222, R223) -/

/-- The address of a lane. -/
def State.farAddr (s : State) (a : AOp) (i : Nat) : DWord :=
  s.srcPair a.a i + BitVec.ofNat 64 ((s.src a.b i).toNat + a.off.toNat)

/-- The checks of far addresses: alignment, then the 56-bit space and the cluster window (DEDUCED order, log 18). -/
def farCheck (c : Ctx) (n : Nat) (a : Nat → DWord) (go : Act) : Act :=
  let odd := maskOf fun i => c.ex.getLsbD i && (a i).toNat % n != 0
  let out := maskOf fun i => c.ex.getLsbD i && (decide (2 ^ 56 ≤ (a i).toNat) || inWindow (a i).toNat)
  if odd ≠ 0 then c.trapOf 10 0 (a (low odd)) odd
  else if out ≠ 0 then c.trapOf 8 0 (a (low out)) out
  else go

/-- Far operations are tested as reads and writes (R357). -/
def State.farMatch (s : State) (c : Ctx) (n : Nat) (a : Nat → DWord) (go : Act) : Act :=
  match s.dataMatch c ((maskLanes c.ex).map fun i => (i, (a i).toNat)) n true true with
  | some act => act
  | none => go

def farCode : FarOp → Nat
  | .add => 0 | .fadd => 1 | .min => 2 | .max => 3 | .and => 4 | .or => 5 | .xor => 6 | .xchg => 7 | .cas => 8 | .dadd => 9

/-- The registers of the operand, and of the value returned. -/
def farSrc : FarOp → Nat
  | .cas => 2
  | .dadd => 2
  | _ => 1
def farDst : FarOp → Nat
  | .dadd => 2
  | _ => 1

/-- The operand of a lane. -/
def State.farOperand (s : State) (op : FarOp) (b : Src) (i : Nat) : DWord :=
  if farSrc op = 2 then s.srcPair b i else (s.src b i).setWidth 64

/-- The compare record of an operation on addresses: each lane's address and operand bytes. -/
def farRecord (c : Ctx) (a x : Nat → DWord) : Bytes :=
  (maskLanes c.ex).flatMap fun i => (leBytes 8 (x i).toNat).zipIdx.map fun p => ((a i).toNat + p.2, p.1)

/-! ## Values that return (R371, R377, R378) -/

def State.setMark (s : State) (ex : Mask) (v : Option Nat) : State :=
  s.modHere fun st => { st with relWait := SMap.set none st.relWait (recordMark ex) v }

/-- An instruction whose result enters from outside: the leading group makes its record and waits until the trailing
group's has come and matched; the trailing group makes its own and takes the leader's result. -/
def dmrGate (c : Ctx) (s : State) (what : Nat) (data : Bytes) (go : Nat → State → Act)
    (serve : List (Nat × List Word) → State → Act) : Act :=
  let mark := SMap.get none s.here.relWait (recordMark c.ex)
  let marked := mark.isSome
  match s.myGroup.dmr with
  | .alone => go 0 s
  | .leader p =>
    if !marked then .wait fun s =>
      let s := (s.record what c.ex data).pairIssued
      s.setMark c.ex (some (((s.dmrPair c.id.team c.id.grp).map (·.nL)).getD 0))
    else
      match s.dmrPair c.id.team c.id.grp with
      | some q =>
        if q.recsL.isEmpty then
          go (mark.getD 0) ((s.setMark c.ex none).modPair c.id.team p fun q => { q with nL := q.nL - 1, feed := q.feed.dropLast })
        else .hold
      | none => go 0 s
  | .trailer p =>
    if !marked then .wait fun s => (s.record what c.ex data).setMark c.ex (some s.time)
    else
      match (s.dmrPair c.id.team c.id.grp).bind fun q => nextWords q.nT q.feed with
      | none => .hold
      | some w => serve w ((s.setMark c.ex none).modPair c.id.team p fun q => { q with feed := dropWords q.nT q.feed })

/-- Writes words by lane to a destination. -/
def State.setWords (s : State) (d : Dst) (n : Nat) (w : List (Nat × List Word)) : State :=
  let m := maskOf fun i => w.any fun p => p.1 == i
  s.setDsts d m n fun k i => (((w.find? fun p => p.1 == i).bind fun p => p.2[k]?).getD 0)

/-- What the records of a rolled-back run say of this instruction: nothing left, a match, or another instruction. -/
inductive Replay where
  | fresh
  | served (r : JRec)
  | differs
  deriving DecidableEq, Repr

def State.replayOf (s : State) (id : StreamId) (what : Nat) (ls : List (Nat × DWord × DWord)) : Replay :=
  match (s.team id.team).replay.find? fun j => j.grp == id.grp && j.x == id.x with
  | none => .fresh
  | some j =>
    if j.what = what ∧ (j.lanes.map fun l => (l.1, l.2.1, l.2.2.1)) = ls then .served j else .differs

/-- Takes the stream's next record into the journal of the new run. -/
def State.takeReplay (s : State) (j : JRec) (id : Nat) : State :=
  s.modTeam s.cur.team fun t => { t with replay := t.replay.filter fun k => k.id != j.id,
                                         journal := t.journal ++ [{ j with id := id, date := s.time }] }

/-- Discards the records that remain of a stream. -/
def State.dropReplay (s : State) (id : StreamId) : State :=
  s.modTeam id.team fun t => { t with replay := t.replay.filter fun k => !(k.grp == id.grp && k.x == id.x) }

/-! ## AMO (R235, R236) -/

/-- An update of this stream to one of the words still waits in the lehr: operations of one stream on one location are
performed in issue order (R215). -/
def State.wordWaits (s : State) (id : StreamId) (n : Nat) (as : List DWord) : Bool :=
  (s.core (s.teamCore id.team)).waiting.any fun e => e.of id && waitsOn e.work
where
  waitsOn : LWork → Bool
    | .update op _ va _ _ _ => as.any fun a => decide (a.toNat < va.toNat + farBytes op) && decide (va.toNat < a.toNat + n)
    | _ => false

/-- The release of the FR path that an access waits for (R236, R279). -/
def frRelease (c : Ctx) (s : State) (rel : Bool) (sc : Scope) (go : State → Act) : Act :=
  if !rel then go s
  else
    releaseFirst c s .team (fun s => s.askRelease c.id sc)
      (fun d s => s.pathDone c.id .fr sc d [] && (!coreOrWider (s.scopeOf c.id.team sc) || s.safeSince c.id.team d)) go

/-- The value of one or two words. -/
def dwordOf : List Word → DWord
  | [] => 0
  | [w] => w.setWidth 64
  | w :: v :: _ => pairOf w v

/-- Sends an AMO: the lanes that a record serves are not sent again, and bring the poison that the record holds (R371, R375). -/
def State.startAmo (s : State) (c : Ctx) (la : Fin 16) (op : FarOp) (acq : Bool) (scope : Scope) (d : Dst)
    (a x : Nat → DWord) (served : List (Nat × List Word)) (pois : List (Nat × Nat)) (nth : Nat) : State :=
  let (id, s) := s.fresh
  let st := s.here
  let ls := (maskLanes c.ex).map fun i =>
    match served.find? fun p => p.1 == i && !p.2.isEmpty with
    | some p => (⟨i, a i, x i, dwordOf p.2, true, false, (pois.find? fun q => q.1 == i).map (·.2)⟩ : AmoLane)
    | none => ⟨i, a i, x i, 0, false, false, none⟩
  let s := match d with
    | .q q => s.push q.val false id []
    | _ => s
  let m : Amo := ⟨id, nth, op, acq, scope, d, decide (st.mode ≠ .normal), ls, (Use.dst d (farDst op)).keys st, startLa c.iss la,
    s.myAsid, none⟩
  (s.modHere fun st => { st with amos := st.amos ++ [m] }).later 1 (.amoPerformed c.id id)

def execAmo (g : Guard) (la : Fin 16) (op : FarOp) (sem : Sem) (scope : Scope) (d : Dst) (a : AOp) (b : Src)
    (s : State) : Host.Outcome State Fault Refusal :=
  issue { g := g, uses := [.dst d (farDst op), u2 a.a, u1 a.b, 
                        .src b (farSrc op)], la := some la, cls := .a, path := some .fr }
    (fun c s =>
      let n := farBytes op
      let adr := s.farAddr a
      let x := s.farOperand op b
      let what := 0x89 + 256 * farCode op
      let ls := (maskLanes c.ex).map fun i => (i, adr i, x i)
      farCheck c n adr <| s.farMatch c n adr <|
        if s.wordWaits c.id n (ls.map fun l => l.2.1) then .wait fun s => s.askCkpt c.id.team
        else
          frRelease c s (sem == .rel || sem == .acqrel) scope fun s =>
            dmrGate c s what (farRecord c adr x)
              (fun nth s =>
                let acq := sem == .acq || sem == .acqrel
                match s.replayOf c.id what ls with
                | .differs => .trapBy (fun s => s.dropReplay c.id) ⟨14, 0, c.pc, s.here.amask⟩
                | .served j =>
                  let s' := s.takeReplay j s.nextId
                  .done (s'.startAmo c la op acq scope d adr x (j.lanes.map fun l => (l.1, l.2.2.2)) j.pois nth)
                | .fresh =>
                  let j : JRec := ⟨s.nextId, c.id.grp, c.id.x, s.time, what, ls.map fun l => (l.1, l.2.1, l.2.2, []), []⟩
                  .done ((s.modMyTeam fun t => { t with journal := t.journal ++ [j] }).startAmo c la op acq scope d adr x [] [] nth))
              (fun w s => .done (s.setWords d (farDst op) w))) s

/-- A returning AMO is performed at its partitions; when every lane is back its values are written (R236). With the state
comes the trap it raises: for lanes on fatal pages (R294), or a poisoned value consumed again (R374). -/
def State.amoStep (s : State) (id : StreamId) (n : Nat) : State × Option TrapRec :=
  match (s.stream id).amos.find? fun a => a.id == n with
  | none => (s, none)
  | some a =>
    if (s.stream id).amoBehind a then (s.again (.amoPerformed id n), none)
    else
      let r := s.sendAmo id a
      if !r.1.over then (r.2.again (.amoPerformed id n), none)
      else
        match r.1.lanes.find? fun l => l.pois.isSome with
        | some l =>
          let gr := l.pois.getD 0
          if (s.team id.team).poisoned.contains gr then
            (r.2.dropAmo id r.1,
              some ⟨14, 0, BitVec.ofNat 64 (l.addr.toNat / 128 * 128), (r.2.stream id).amask⟩)
          else (r.2.consume id.team gr, none)
        | none =>
          let s := r.2.writeAmo id r.1
          let s := if r.1.acq then s.acquireOn id .fr r.1.scope else s
          let s := s.feedTrailer id.team id.grp fun _ =>
            .words r.1.nth ((r.1.lanes.filter fun l => l.back).map fun l => (l.lane, r.1.words l))
          match r.1.lanes.filter fun l => l.bad with
          | [] => (s, none)
          | l :: ls => (s, some ⟨8, 0, l.addr, maskOf fun i => (l :: ls).any fun k => k.lane == i⟩)

/-- A trap that falls due for a stream that a call hides is held with it. -/
def State.holdTrap (s : State) (id : StreamId) (d : Nat) (r : TrapRec) : State :=
  s.modGroup id.team id.grp fun g =>
    let c := g.ctxAt d
    let st := c.stream id.x
    g.setCtxAt d (c.setStream id.x { st with traps := st.traps ++ [r] })

/-- An AMO comes back to the context that issued it, which a gate call may have hidden since (R318). -/
def execAmoPerformed (id : StreamId) (n : Nat) (s : State) : Host.Outcome State Fault Refusal :=
  .next <|
    let g := s.group id.team id.grp
    match (List.range (g.depth + 1)).find? fun d => ((g.ctxAt d).stream id.x).amos.any fun a => a.id == n with
    | none => s
    | some d =>
      if d = g.depth then
        let r := s.amoStep id n
        match r.2 with
        | none => r.1.endGroup id.team id.grp
        | some t => if t.code = 14 then r.1.takeTrap id t else r.1.lateTrap id t
      else
        let r := (s.modGroup id.team id.grp fun x => { x with c := x.ctxAt d }).amoStep id n
        let s := r.1.modGroup id.team id.grp fun x => { (x.setCtxAt d x.c) with c := g.c }
        match r.2 with
        | none => s
        | some t => s.holdTrap id d t

/-! ## RED and SCAT (R236, R277-R279) -/

/-- The lanes on the page of an address, and the address of the lowest. -/
def State.pageLanes (s : State) (c : Ctx) (a : Nat → DWord) (x : DWord) : Mask :=
  maskOf fun i => c.ex.getLsbD i && s.samePage s.myAsid x.toNat (a i).toNat

/-- The updates of an issue enter the lehr in order. -/
def State.enterUpdates (s : State) (c : Ctx) (op : FarOp) (a : Nat → DWord) (us : List (DWord × DWord)) : State :=
  us.foldl (fun s u =>
    let m := s.pageLanes c a u.1
    s.enterLehr s.myCore c.id.team c.id.grp c.id.x s.time (.update op s.myAsid u.1 u.2 (a (low m)) m)) s

/-- SCAT's combiner (R278): one update for each word, in the order of its lowest lane. -/
def combine (op : FarOp) (us : List (DWord × DWord)) : List (DWord × DWord) :=
  us.foldl (fun acc u =>
    if acc.any fun v => v.1 == u.1 then acc.map fun v => if v.1 = u.1 then (v.1, farComb op v.2 u.2) else v
    else acc ++ [u]) []

/-- RED and SCAT: a trailing group's updates stay with it (R377). -/
def redBody (code : Nat) (op : FarOp) (rel : Bool) (scope : Scope) (a : AOp) (b : Src)
    (merge : List (DWord × DWord) → List (DWord × DWord)) (c : Ctx) (s : State) : Act :=
  let n := farBytes op
  let adr := s.farAddr a
  let x := s.farOperand op b
  farCheck c n adr <| s.farMatch c n adr <|
    let us := merge ((maskLanes c.ex).map fun i => (adr i, x i))
    if !s.lehrTakes s.myCore c.id.team us.length || (s.here.amos.any fun b => b.acq && !b.over) then .hold
    else
      frRelease c s rel scope fun s =>
        let s := s.record (code + 256 * farCode op) c.ex (farRecord c adr x)
        match s.myGroup.dmr with
        | .trailer _ => .done s
        | _ => .done (s.enterUpdates c op adr us)

def execRed (g : Guard) (op : FarOp) (rel : Bool) (scope : Scope) (a : AOp) (b : Src) (s : State) :
    Host.Outcome State Fault Refusal :=
  issue { g := g, uses := [u2 a.a, u1 a.b, .src b (farSrc op)], cls := .a, path := some .fr }
    (redBody 0x8A op rel scope a b id) s

def execScat (g : Guard) (op : FarOp) (rel : Bool) (scope : Scope) (a : AOp) (b : Src) (s : State) :
    Host.Outcome State Fault Refusal :=
  issue { g := g, uses := [u2 a.a, u1 a.b, .src b (farSrc op)], cls := .a, path := some .fr }
    (redBody 0x8B op rel scope a b (combine op)) s

end Sys2Proof.Machine
end

