-- ==== Sys2Proof/Machine/Sched.lean ====
section
/-!
DEFINITION. Which stream issues next (R158-R163, R178): the front end's lines, ready program counters, the choice of one
opportunity, the partition's rotation, and the order in which the model takes its steps (log 2).
-/

namespace Sys2Proof.Machine

/-! ## Fetched lines (R39, R45) -/

def streamKey (id : StreamId) : Nat := id.team * 64 + id.grp * 2 + (if id.x then 1 else 0)

/-- A line that a stream has fetched, in an address space. -/
def fetchKey (id : StreamId) (asid : BitVec 16) (line : Nat) : Nat :=
  (streamKey id * 65536 + asid.toNat) * 2 ^ 50 + line

def State.fetchedLine (s : State) (id : StreamId) (line : Nat) : Option FetchLine :=
  SMap.get none s.fetched (fetchKey id (s.group id.team id.grp).c.asid line)
def State.setFetched (s : State) (id : StreamId) (line : Nat) (l : Option FetchLine) : State :=
  { s with fetched := SMap.set none s.fetched (fetchKey id (s.group id.team id.grp).c.asid line) l }
/-- Forgets every line a stream has fetched. -/
def State.dropFetched (s : State) (team : Nat) : State :=
  { s with fetched := s.fetched.filter fun p => p.1 / 2 ^ 66 / 64 != team }

/-! ## Ready program counters (R158) -/

/-- A redundant stream of the team has made the record of an instruction whose value returns, and must finish it before
the checkpoint can be taken. -/
def Team.marked (t : Team) : Bool :=
  t.st.groups.any fun q => q.2.c.a.relWait.any fun p => decide (128 ≤ p.1)

/-- The team's streams may issue: resident, started, not rolled back, saved or taking a checkpoint (R366). -/
def State.teamRuns (s : State) (t : Nat) : Bool :=
  let x := s.team t
  x.live && x.started && x.blocked.isNone && (!(x.wantCkpt && x.pending.isNone) || x.marked)

/-- The group may issue. -/
def Group.runs (g : Group) : Bool := g.live && !g.halted && g.abort.isNone

/-- The group may issue now: the checkpoint that it waits for is safe. -/
def State.groupRuns (s : State) (t g : Nat) : Bool :=
  (s.group t g).runs && decide ((s.group t g).wait ≤ (s.team t).safe.date)

/-- A lane's hold has ended, so that its held instruction is taken up again. -/
def State.holdOver (s : State) (id : StreamId) (i : Nat) : Bool :=
  match (s.stream id).holdOf i with
  | none => true
  | some (.mma _) => false
  | some (.park _) => false
  | some (.llk b _) =>
    match (s.team id.team).lock b with
    | none => true
    | h => heldBy h id.grp (lockLane id.x i)
  | some (.barrier _) => true
  | some .regrp => true

/-- The lanes that would issue at a program counter: those without a hold, else those whose hold may have ended. -/
def State.readyLanes (s : State) (id : StreamId) (pc : DWord) : Mask :=
  let st := s.stream id
  let m := st.lanesAt pc
  let fresh := maskOf fun i => m.getLsbD i && (st.holdOf i).isNone
  if fresh ≠ 0 then fresh else maskOf fun i => m.getLsbD i && s.holdOver id i

/-- The distinct program counters of a stream, ascending. -/
def Stream.pcs (st : Stream) : List DWord :=
  (((maskLanes st.amask).map fun i => (st.pc i).toNat).eraseDups.mergeSort).map fun n => BitVec.ofNat 64 n

/-- The trailing group issues only what its leader has issued (R377). -/
def State.trailerAllows (s : State) (id : StreamId) (pc : DWord) : Bool :=
  match (s.group id.team id.grp).dmr with
  | .trailer _ =>
    (s.stream id).resumes (s.readyLanes id pc) ||
    match (s.dmrPair id.team id.grp).bind fun q => nextStep q.feed with
    | some (.issue p _) => p == pc
    | _ => false
  | _ => true

/-- The A stream has stopped at a GCALL or GRET that waits, and with it the X stream (R318, R320). -/
def callMark : Nat := 36
def Group.calls (g : Group) : Bool := (SMap.get none g.c.a.relWait callMark).isSome

/-- A program counter was tried at this very state of affairs and found not ready. -/
def State.triedNow (s : State) (id : StreamId) (pc : DWord) : Bool :=
  s.marks.any fun m => m.1 == id && m.2.1 == pc && m.2.2 == s.epoch

/-- A stream that is parked issues nothing but the instruction it is parked at, while lanes stand there (R19, R31). -/
def Stream.parkedElsewhere (st : Stream) (pc : DWord) : Bool :=
  match st.parked with
  | none => false
  | some p => p != pc && st.lanesAt p != 0

/-- A program counter may issue as far as the model can say before it tries: POLL, LWAIT and holds are over, and the
try at this state of affairs has not already held. -/
def State.pcReady (s : State) (id : StreamId) (pc : DWord) : Bool :=
  let st := s.stream id
  st.live && st.entering.isNone && !(id.x && (s.group id.team id.grp).calls) && st.watch.isNone && (st.mode != .normal || st.traps.isEmpty) && s.readyLanes id pc != 0 &&
  (st.poll.all fun p => p.pc != pc || p.ready) &&
  !st.parkedElsewhere pc && !s.triedNow id pc && s.trailerAllows id pc

/-- Its line has been fetched. -/
def State.pcFetched (s : State) (id : StreamId) (pc : DWord) : Bool := (s.fetchedLine id (pcLine pc)).isSome && !(s.stream id).check

/-- The ready program counters of a stream. -/
def State.readyPcs (s : State) (id : StreamId) : List DWord :=
  if s.teamRuns id.team && s.groupRuns id.team id.grp then
    (s.stream id).pcs.filter fun pc => s.pcReady id pc && s.pcFetched id pc
  else []

/-- A program counter whose line must be fetched. -/
def State.needsFetch (s : State) (id : StreamId) : Option DWord :=
  if s.teamRuns id.team && s.groupRuns id.team id.grp then
    (s.stream id).pcs.find? fun pc => s.pcReady id pc && !s.pcFetched id pc
  else none

/-! ## One opportunity (R159) -/

def Rot.id (r : Rot) : StreamId := ⟨r.team, r.grp, r.x⟩
def Rot.age (r : Rot) (pc : DWord) : Nat := ((r.ages.find? fun a => a.1 == pc).map (·.2)).getD 0

/-- The one of largest population, which counts every active lane that holds it; the list ascends, so ties go to the lower
value. -/
def Stream.largest (st : Stream) : List DWord → Option DWord
  | [] => none
  | pc :: l =>
    match st.largest l with
    | none => some pc
    | some q => if popcount (st.lanesAt q) ≤ popcount (st.lanesAt pc) then some pc else some q

/-- The one of greatest age, ties to the lower value. -/
def Rot.oldest (r : Rot) : List DWord → Option DWord
  | [] => none
  | pc :: l =>
    match r.oldest l with
    | none => some pc
    | some q => if r.age q ≤ r.age pc then some pc else some q

/-- The program counter that takes the first slot among ready ones, and the one that takes the second beside a first: the
oldest of those aged 32 or more, else the one of largest population. -/
def State.firstSlot (s : State) (id : StreamId) (l : List DWord) : Option DWord := (s.stream id).largest l
def State.secondSlot (s : State) (r : Rot) (l : List DWord) : Option DWord :=
  let aged := l.filter fun q => decide (32 ≤ r.age q)
  if aged.isEmpty then (s.stream r.id).largest l else r.oldest aged

/-! ## Weights and rotation (R161-R163, R178) -/

/-- The weight of a stage (R178). -/
def State.stageWeight (s : State) (id : StreamId) : Nat :=
  match s.launchOf id.team with
  | none => 64
  | some l =>
    match l.roles[(s.group id.team id.grp).role]? with
    | none => 64
    | some r =>
      let outs := (List.range 4).filter fun k => r.ringout.testBit k
      let occ := fun k => SMap.get 0 (s.team id.team).st.rings k
      if outs.isEmpty then 64
      else if outs.any fun k => occ k == 0 then 128
      else if outs.all fun k => occ k == ((l.rings[k]?).map (·.depth)).getD 0 + 1 then 32
      else 64

/-- A stream's weight (R163). -/
def State.weight (s : State) (id : StreamId) : Nat := max 1 (s.stageWeight id / 2 ^ (s.stream id).back)

/-- Eligible by class (R162, R188). -/
def State.weak (s : State) (id : StreamId) : Bool := (s.team id.team).cls == .weak && !(s.team id.team).isWave

/-- The rotation from PTR round once, with positions. -/
def Part.order (p : Part) : List (Nat × Rot) :=
  let l := p.rot.zipIdx.map fun x => (x.2, x.1)
  l.drop p.ptr ++ l.take p.ptr

/-- The streams that may be ready, with their positions, in the order in which a grant looks at them (R161): in rotation order
from PTR, those of weakly parallel teams after the others, since they are eligible only where none of the others is ready (R162).
Whether one is ready shows when it is tried. -/
def State.candidates (s : State) (c : CoreId) (part : Nat) : List (Nat × Rot) :=
  let l := (SMap.get ⟨[], 0⟩ (s.core c).parts part).order.filter fun r => !(s.readyPcs r.2.id).isEmpty
  (l.filter fun r => !s.weak r.2.id) ++ l.filter fun r => s.weak r.2.id

/-- The stream that a grant tries first. -/
def State.pick (s : State) (c : CoreId) (part : Nat) : Option (Nat × Rot) := (s.candidates c part).head?

/-- A grant opens an issue opportunity of the first of a partition's streams that is found ready (R161): the program counters of
each are tried in the order of R159 until two are found ready or none is left. -/
def State.grant (s : State) (c : CoreId) (part : Nat) : State :=
  match s.candidates c part with
  | [] => s
  | (_, r) :: l => { s with held := true, opened := true, opp := r.id, rest := l.map fun x => x.2.id, found := [],
                            lastPart := coreKey c * 4 + part }

/-- The stream's place in its partition's rotation. -/
def State.rotOf (s : State) (id : StreamId) : Rot :=
  ((SMap.get ⟨[], 0⟩ (s.core (s.teamCore id.team)).parts (id.grp % 4)).rot.find? fun r => r.id == id).getD
    ⟨id.team, id.grp, id.x, 1, [], 0⟩

/-- The next program counter that the opportunity tries: for the first slot, or for the second beside the first. -/
def State.probe (s : State) : Option Cursor :=
  let id := s.opp
  let l := s.readyPcs id
  let pc := match s.found with
    | [] => s.firstSlot id l
    | [f] => s.secondSlot (s.rotOf id) (l.filter fun q => q != f.1.pc)
    | _ => none
  pc.map fun pc => ⟨id.team, id.grp, id.x, pc, s.readyLanes id pc, 0, []⟩

/-- The two instructions of an opportunity in the order in which they take effect: the lower address first (R127), but one
that traps after one that does not; of two that trap, the one at the lower address alone (R68; DEDUCED for other traps than
decode traps, log 43). -/
def inOrder : List (Cursor × Bool) → List Cursor
  | [a, b] =>
    let lo := if a.1.pc.toNat ≤ b.1.pc.toNat then a else b
    let hi := if a.1.pc.toNat ≤ b.1.pc.toNat then b else a
    if lo.2 && hi.2 then [lo.1] else if lo.2 then [hi.1, lo.1] else [lo.1, hi.1]
  | l => l.map (·.1)

/-- Rewrites a stream's place in its rotation. -/
def State.modRot (s : State) (id : StreamId) (f : Rot → Rot) : State :=
  s.modCore (s.teamCore id.team) fun x =>
    { x with parts := SMap.mod ⟨[], 0⟩ x.parts (id.grp % 4) fun p =>
        { p with rot := p.rot.map fun r => if r.id = id then f r else r } }

/-- A grant of a rotation (R161): the stream's quota falls and is refilled to its weight, PTR moves. -/
def Part.spend (p : Part) (id : StreamId) (weight : Nat) : Part :=
  match p.rot.findIdx? fun r => r.id == id with
  | none => p
  | some n =>
    let last := decide (((p.rot[n]?).map (·.quota)).getD 0 ≤ 1)
    { p with rot := p.rot.modify n fun r => { r with quota := if last then weight else r.quota - 1 }
             ptr := if last then (n + 1) % p.rot.length else n }

/-- An opportunity counts, and every program counter of the stream ages (R159). -/
def State.commit (s : State) (id : StreamId) : State :=
  let s' := s.modCore (s.teamCore id.team) fun x =>
    { x with parts := SMap.mod ⟨[], 0⟩ x.parts (id.grp % 4) fun p => p.spend id (s.weight id) }
  s'.modRot id fun r => { r with ages := (s.stream id).pcs.map fun q => (q, r.age q + 1) }

/-- The opportunity is decided: what was found ready issues, and where nothing was, the grant goes to the next stream. Two slots of
a line never issue as a pair, which R44 lets the device do and which changes no result (DESIGN CHOICE, log 36). -/
def State.decided (s : State) : State :=
  if s.found.isEmpty then
    match s.rest with
    | [] => { s with opened := false }
    | id :: l => { s with opp := id, rest := l }
  else { s.commit s.opp with opened := false, rest := [], toIssue := inOrder s.found, found := [] }

/-- A program counter that has issued is of age 0. -/
def State.resetAge (s : State) (id : StreamId) (pc : DWord) : State :=
  s.modRot id fun r => { r with ages := r.ages.filter fun a => a.1 != pc }

/-! ## The order of the model's steps (log 2) -/

/-- The agenda's events that are due. -/
def State.due (s : State) : List Nat :=
  (s.agenda.zipIdx.filter fun p => decide (p.1.1 ≤ s.time)).map (·.2)

/-- Takes the k-th due event off the agenda. -/
def State.takeEvent (s : State) (k : Nat) : Option (Instr × State) :=
  match s.due[k]? with
  | none => none
  | some n =>
    match s.agenda[n]? with
    | none => none
    | some e => some (e.2, { s with agenda := s.agenda.eraseIdx n })

/-- Takes the first input. -/
def State.takeInput (s : State) : Option (Instr × State) :=
  match s.inputs with
  | [] => none
  | i :: l => some (i, { s with inputs := l })

/-- The partitions that hold streams, from the one after the last granted. -/
def State.partsInTurn (s : State) : List (CoreId × Nat) :=
  let all := s.cores.flatMap fun p =>
    p.2.parts.map fun q => (p.1 * 4 + q.1, (⟨p.1 / 192, p.1 % 192⟩ : CoreId), q.1)
  let after := all.filter fun p => decide (s.lastPart < p.1)
  let upto := all.filter fun p => decide (p.1 ≤ s.lastPart)
  (after ++ upto).map fun p => p.2

/-- Every stream of the package. -/
def State.streams (s : State) : List StreamId :=
  s.teams.flatMap fun p => p.2.st.groups.flatMap fun q => q.2.sides.map fun x => ⟨p.1, q.1, x⟩

/-- The next step of the device where the schedule names none: a due event, an input, a fetch, a grant. -/
def State.nextStep (s : State) : Option (Instr × State) :=
  match s.takeEvent 0 with
  | some e => some e
  | none =>
    match s.takeInput with
    | some e => some e
    | none =>
      match s.streams.find? fun id => (s.needsFetch id).isSome with
      | some id => some (.fetchLine id 0, s)
      | none =>
        match s.partsInTurn.find? fun p => (s.pick p.1 p.2).isSome with
        | some p => some (.issueGrant p.1 p.2, s)
        | none => none

/-- The step that a choice names. -/
def State.chosen (s : State) (c : Choice) : Option (Instr × State) :=
  match c with
  | .event k => s.takeEvent k
  | .input => s.takeInput
  | .grant c p => if (s.pick c p).isSome then some (.issueGrant c p, s) else none

/-- One cycle passes. -/
def State.tick (s : State) : State := { s with time := s.time + 1 }

/-- A program counter has been tried and is not ready. -/
def State.mark (s : State) (id : StreamId) (pc : DWord) : State :=
  { s with marks := (id, pc, s.epoch) :: s.marks.filter fun m => !(m.1 == id && m.2.1 == pc) }

/-- After a step that had an effect, what held before may go on; after one that held, its program counter is not ready
until then. -/
def State.settleMarks (s : State) : State :=
  if s.held then { s with held := false }.mark s.cur.id s.cur.pc else { s with epoch := s.epoch + 1 }

/-- The cursor of the next issue, with the lanes that still stand there. -/
def State.cursorOk (s : State) (c : Cursor) : Option Cursor :=
  let m := c.lanes &&& (s.stream c.id).lanesAt c.pc
  if s.groupRuns c.team c.grp && (s.stream c.id).live && m != 0 then some { c with lanes := m } else none

/-- The instruction word at the cursor, from the fetched line. -/
def State.wordAt (s : State) (c : Cursor) : Option SlotWord :=
  (s.fetchedLine c.id (pcLine c.pc)).map fun l => l.slot (pcSlot c.pc)

/-- The store queue drains before any instruction but a load issues (R200, R202): only a load may pass a store, and not one
that pushes a queue, which is a release of GROUP scope (R210). -/
def isLoad : Instr → Bool
  | .ld _ _ _ _ _ d _ => match d with | .q _ => false | _ => true
  | _ => false
def State.drainFor (s : State) (i : Instr) (id : StreamId) : State := if isLoad i then s else s.drainQueue id

/-- An issue of the cursor is over: it holds, or its program counter has issued, and the lanes that resumed there after a
trap have had the issue that no comparator stops (R354). -/
def State.issued (s : State) (c : Cursor) (resumed : Mask) : State :=
  if s.held then s.settleMarks
  else ((s.resetAge c.id c.pc).modStream c.id fun st => { st with skipCmp := st.skipCmp &&& ~~~resumed }).settleMarks

/-- A stream at its start (R11, R352): every lane at the entry, which is a checked transfer. -/
def startStream (entry : DWord) (mask : Mask) (date : Nat) (check : Bool) : Stream :=
  ({ Stream.off with live := true, amask := mask, entry := entry, rgnEntry := entry, epoch := date, check := check }).setPcs
    (BitVec.allOnes 32) fun _ => entry

/-- A group at its start (R11, R28). The reserved bits of KVROOT read zero (R36). -/
def startGroup (role : Nat) (split : Bool) (vbud va lbud abud level : Nat) (asid : BitVec 16) (kvroot ttbase : DWord)
    (a x : Stream) : Group :=
  let g := { Group.off with
    live := true, role := role, split := split,
    c := { GCtx.off with vbud := vbud, va := va, lbud := lbud, abud := abud, level := level, asid := asid,
                         kvroot := kvroot &&& 0x000FFFFFFFFFFFC0, ttbase := ttbase, a := a, x := x } }
  [0, 1, 2, 3].foldl (fun g cv => g.setDecl cv (if split then x.amask else a.amask)) g

/-- A team of one privileged fused group with the widest budgets, at slot 0 of line 0 (log 8). -/
def probeTeam : Team :=
  let g := startGroup 0 false 12 0 16 8 2 0 0 0 (startStream 0 (BitVec.allOnes 32) 0 false) .off
  { (({ Team.off with live := true, started := true, priv := true, spadSize := 0x180000 } : Team).setGroup 0 g) with
    safe := ⟨({ Team.off with live := true } : Team).setGroup 0 g |>.st, 0⟩ }

end Sys2Proof.Machine
end

