-- ==== Sys2Proof/Machine/Tensor.lean ====
section
/-!
DEFINITION. The tensor table (04 R100-R102): its entries, where their elements and scales lie, and how an instruction reads
them.
-/

namespace Sys2Proof.Machine

/-! ## Entries (R100, R101) -/

/-- Bits of an element. -/
def Tensor.width (e : Tensor) : Nat :=
  match e.etype with
  | 0 => (NFmt.of e.nfd).width
  | 1 => 8
  | 2 => 16
  | 3 => 32
  | 4 => 16
  | 5 => 16
  | 6 => 32
  | _ => 64

/-- Quotient of naturals, rounded up. -/
def ceilDiv (a b : Nat) : Nat := (a + b - 1) / b

/-- Block length; 0 where the entry is unscaled. -/
def blockLen : Nat → Nat
  | 0 => 0
  | 1 => 16
  | 2 => 32
  | _ => 48

/-- The bytes of one packed row or column, which STRIDE must cover. -/
def Tensor.packed (e : Tensor) : Nat :=
  ceilDiv ((match e.layout with | 0 => e.cols | 1 => e.rows | _ => 64) * e.width) 8

/-- The conditions of R101, but for the reserved bits; a STRIDE that R100 does not allow counts as misaligned, and a nonzero
BASE bit 55:37 of SPACE 2, which R100 wants zero, as a reserved bit (DEDUCED, log 20). -/
def Tensor.wrong (e : Tensor) : Bool :=
  e.space == 3 || e.layout == 3 || decide (7 < e.etype) || decide (1 < e.sspace) || e.smode == 3 || e.ecm == 3 ||
  e.rows == 0 || e.cols == 0 || (e.blk == 0) != (e.scale == 0) ||
  (if e.etype = 0 then !(NFmt.of e.nfd).valid else e.nfd != 0 || e.blk != 0) ||
  (if e.space = 2 then e.stride != 0 || decide (2 ^ 37 ≤ e.base)
   else e.base % 16 != 0 || e.stride % 16 != 0 || decide (e.stride < e.packed))

/-- The entry that 64 bytes hold. -/
def Tensor.ofNat (x : Nat) : Tensor :=
  let e : Tensor :=
    { base := field x 0 56, space := field x 64 2, layout := field x 66 2, etype := field x 68 4, nfd := field x 72 24,
      rows := field x 96 32, cols := field x 128 32, stride := field x 160 64, scale := field x 224 56,
      sspace := field x 288 2, blk := field x 290 2, smid := field x 292 12, smode := field x 304 2,
      ecm := field x 306 2, bad := false }
  { e with bad := e.wrong || field x 56 8 != 0 || field x 280 8 != 0 || field x 308 204 != 0 }

/-- The address of an entry. -/
def tensorAddr (ttbase : DWord) (tid : Nat) : Nat := ttbase.toNat + 64 * tid

/-- An instruction reads the entry that it names (R101, R170, R319). A page of host memory serves no such read (R287;
DEDUCED, log 45). -/
def tensorAt (c : Ctx) (tid : Nat) (s : State) (go : Tensor → State → Act) : Act :=
  let g := s.group c.id.team c.id.grp
  let k := s.teamCore c.id.team
  let a := tensorAddr g.c.ttbase tid
  let look := fun (s : State) => s.translate k .openRead g.c.asid a c.iss c.id.grp 0 (2 * c.id.team + bit01 c.id.x) false
  if g.c.ttbase = 0 then c.illegal
  else
    match (look s).1 with
    | .wait => .wait fun s => (look s).2
    | .fatal => .trapBy (fun s => (look s).2) ⟨8, 0, BitVec.ofNat 64 a, c.iss⟩
    | .ok t =>
      if t.host then c.trapOf 8 0 (BitVec.ofNat 64 a) c.iss else
      let e := Tensor.ofNat (leNat ((List.range 64).map fun i => (look s).2.readTr t k.die (a + i)))
      if e.bad then c.trapOf 1 0 (BitVec.ofNat 64 a) c.iss
      else if e.space = 1 && !g.shares then c.bad 3
      else go e (look s).2

/-! ## Elements (R94, R98, R100) -/

/-- The byte and the bit at which element (r, c) begins. -/
def Tensor.place (e : Tensor) (r c : Nat) : Nat × Nat :=
  let w := e.width
  match e.layout with
  | 0 => (e.base + r * e.stride + c * w / 8, c * w % 8)
  | 1 => (e.base + c * e.stride + r * w / 8, r * w % 8)
  | _ => (e.base + (64 * (r / 64 * ceilDiv e.cols 64 + c / 64) + r % 64) * e.stride + c % 64 * w / 8, c % 64 * w % 8)

/-- The bytes that hold an element: the first and their number. -/
def Tensor.span (e : Tensor) (r c : Nat) : Nat × Nat :=
  let p := e.place r c
  (p.1, ceilDiv (p.2 + e.width) 8)

/-- The byte that holds the scale of element (r, c). -/
def Tensor.scaleAt (e : Tensor) (r c : Nat) : Nat :=
  let l := blockLen e.blk
  if e.layout = 1 then e.scale + c * ceilDiv e.rows l + r / l else e.scale + r * ceilDiv e.cols l + c / l

/-- The value of a code of an element type (R93, R141). -/
def Tensor.value (e : Tensor) (code : Nat) : FVal :=
  let code := code % 2 ^ e.width
  match e.etype with
  | 0 => (NFmt.of e.nfd).value code
  | 4 => f16.value code
  | 5 => bf16.value code
  | 6 => f32.value code
  | 7 => f64.value code
  | _ => FVal.ofInt (BitVec.ofNat e.width code).toInt

/-- A value times a power of two. -/
def FVal.scaled (k : Int) : FVal → FVal
  | .fin n m e => .fin n m (e + k)
  | x => x

/-- A value times its block's scale (R98). -/
def FVal.timesScale (x : FVal) (code : Nat) : FVal :=
  if code % 256 = 255 then .nan false else x.scaled ((code % 256 : Nat) - 127)

/-- The code of an element in a scratchpad entry. -/
def State.padCode (s : State) (t : Nat) (e : Tensor) (r c : Nat) : Nat :=
  let p := e.place r c
  s.spadNat t p.1 (e.span r c).2 / 2 ^ p.2 % 2 ^ e.width

/-- The value of an element in a scratchpad entry, with its scale. -/
def State.padValue (s : State) (t : Nat) (e : Tensor) (r c : Nat) : FVal :=
  let x := e.value (s.padCode t e r c)
  if e.blk = 0 then x else x.timesScale (s.spad t (e.scaleAt r c)).toNat

/-- The bytes that elements and their scales take, as spans. -/
def Tensor.spans (e : Tensor) (l : List (Nat × Nat)) : List (Nat × Nat) :=
  (l.map fun p => e.span p.1 p.2) ++ (if e.blk = 0 then [] else l.map fun p => (e.scaleAt p.1 p.2, 1))

/-- The lowest offset of spans at or beyond a scratchpad's end. -/
def spansBeyond (size : Nat) (l : List (Nat × Nat)) : Option Nat :=
  ((l.filter fun p => decide (size < p.1 + p.2)).map fun p => max size p.1).min?

/-- An ascending list without repeats. -/
def dedupSorted : List Nat → List Nat
  | [] => []
  | x :: l =>
    match dedupSorted l with
    | y :: m => if x = y then y :: m else x :: y :: m
    | [] => [x]

/-- The distinct 16-byte granules of spans, ascending. -/
def granulesOf (l : List (Nat × Nat)) : List Nat :=
  dedupSorted
    (l.flatMap fun p => (List.range ((p.1 + p.2 - 1) / 16 - p.1 / 16 + 1)).map fun k => p.1 / 16 + k).mergeSort

/-- A read of scratchpad through the MX path: line bounds, presence, and the consumption of poison (R101, R143, R374). -/
def readPad (c : Ctx) (s : State) (l : List (Nat × Nat)) (go : Act) : Act :=
  let t := c.id.team
  match spansBeyond (s.team t).spadSize l with
  | some o => c.trapOf 7 0 (BitVec.ofNat 64 o) c.ex
  | none =>
    let gs := granulesOf l
    if !gs.all fun g => s.present t (g / 8) then .hold
    else
      match gs.find? fun g => s.spadPoison t (16 * g) with
      | some g => c.consume s (padGranule (scratchKey t (g / 8)) (g % 8)) (BitVec.ofNat 64 (g / 8 * 128))
      | none => go

end Sys2Proof.Machine
end

