-- ==== Sys2Proof/Machine/Matrix.lean ====
section
/-!
DEFINITION. The matrix unit (06 R140-R148), moves of accumulators (R149, R150), softmax triples (R151-R154) and the cluster
reduction (R155).
-/

namespace Sys2Proof.Machine

/-! ## Tiles -/

/-- One row of an accumulator: its 64 elements and its row state (R27). -/
structure TRow where
  e : List Word
  m : Word
  hi : Word
  lo : Word

/-- The 64 rows of an accumulator. -/
abbrev Tile := List TRow

/-- The part of a map whose keys name accumulator a. -/
def cutAcc (a n : Nat) (l : SMap Word) : SMap Word := (l.filter fun p => p.1 / n == a).map fun p => (p.1 % n, p.2)

/-- The contents of an accumulator as the state keeps them. -/
def Group.image (g : Group) (a : Nat) : AccImage :=
  ⟨cutAcc a 4096 g.c.accs, cutAcc a 64 g.c.accM, cutAcc a 64 g.c.accHi, cutAcc a 64 g.c.accLo⟩

def AccImage.tile (x : AccImage) : Tile :=
  (List.range 64).map fun r =>
    let l := x.e.filter fun p => p.1 / 64 == r
    ⟨(List.range 64).map fun c => SMap.get 0 l (64 * r + c), SMap.get negInf x.m r, SMap.get 0 x.hi r, SMap.get 0 x.lo r⟩

/-- A column of words without those that equal the default. -/
def sparse (d : Word) (base : Nat) (l : List Word) : SMap Word :=
  l.zipIdx.filterMap fun p => if p.1 = d then none else some (base + p.2, p.1)

def Tile.image (t : Tile) : AccImage :=
  ⟨t.zipIdx.flatMap fun p => sparse 0 (64 * p.2) p.1.e, sparse negInf 0 (t.map (·.m)), sparse 0 0 (t.map (·.hi)),
    sparse 0 0 (t.map (·.lo))⟩

def Group.tile (g : Group) (a : Nat) : Tile := (g.image a).tile

/-- The canonical NaN (R88), and a poisoned row (R151). -/
def nan32 : Word := BitVec.ofNat 32 f32.qnan
def TRow.poison : TRow := ⟨List.replicate 64 nan32, nan32, nan32, nan32⟩
/-- An empty row: elements +0.0, m -inf (R27). -/
def TRow.empty : TRow := ⟨List.replicate 64 0, negInf, 0, 0⟩

/-- The binary32 value of a word. -/
def fval (w : Word) : FVal := f32.value w.toNat

/-- Issues a long-latency result of accumulators; its flags are raised when it is written (R104). -/
def State.accLater (s : State) (c : Ctx) (la : Fin 16) (outs : List (Nat × AccImage)) (fl : Flags) : State :=
  let (p, s) := s.fresh
  let ws := outs.map fun o => RegWrite.acc o.1 o.2.e o.2.m o.2.hi o.2.lo
  let ws := if fl = 0 then ws else ws ++ [.fstat (fl.setWidth 32)]
  let e : Pending := ⟨p, ws, outs.map fun o => accRegKey o.1, startLa c.iss la, none, none⟩
  (s.modStream c.id fun st => { st with pend := st.pend ++ [e] }).later 1 (.longLatencyWriteback c.id p)

/-! ## The operation (R140-R147) -/

/-- The parts of MMA and MMAS. -/
structure MmaOp where
  la : Fin 16
  r : Bool
  cv : Nat
  kept : Option Sparsity
  d : Nat
  a : Nat
  tid : Nat

def mmaOp : Instr → Option MmaOp
  | .mma _ la r cv d a _ _ tid => some ⟨la, r, cv.val, none, d.val, a.val, tid.toNat⟩
  | .mmas _ la r cv n d a _ _ tid => some ⟨la, r, cv.val, some n, d.val, a.val, tid.toNat⟩
  | _ => none

/-- The class of an element type (R141): 0 four bits, 1 eight bits, 2 16-bit, 3 FP32, 4 FP64. -/
def Tensor.mmaClass (e : Tensor) : Option Nat :=
  match e.etype with
  | 0 => some (if e.width ≤ 4 then 0 else 1)
  | 1 => some 1
  | 4 => some 2
  | 5 => some 2
  | 6 => some 3
  | 7 => some 4
  | _ => none

/-- The class of an operation: that of the wider type, where the two go together. -/
def classOf (ea eb : Tensor) : Option Nat :=
  match ea.mmaClass, eb.mmaClass with
  | some x, some y =>
    if (ea.etype = 1 ∧ 2 ≤ y) ∨ (eb.etype = 1 ∧ 2 ≤ x) ∨ (x = 4) ≠ (y = 4) then none else some (max x y)
  | _, _ => none

def classDepth : Nat → Nat
  | 0 => 64
  | 1 => 32
  | 2 => 16
  | 3 => 4
  | _ => 1

/-- Elements kept in each group of 48 (R147). -/
def keptOf : Sparsity → Nat
  | .n8 => 8
  | .n12 => 12
  | .n16 => 16
  | .n24 => 24

/-- One of two lengths divides the other. -/
def divides (l k : Nat) : Bool := l % k == 0 || k % l == 0

/-- The registers of the A rows (R142, R147): of one row's values, of its indices, of both rows' scales, and the scales of a
row. -/
structure APlan where
  vals : Nat
  idxs : Nat
  scales : Nat
  codes : Nat

def aPlan (e : Tensor) (kept : Option Sparsity) (k : Nat) : APlan :=
  let n := match kept with | none => k | some x => 2 * keptOf x
  let codes := if e.blk = 0 then 0 else max 1 (k / blockLen e.blk)
  ⟨ceilDiv (n * e.width) 32, (match kept with | none => 0 | some x => ceilDiv (2 * keptOf x * 6) 32), ceilDiv (2 * codes) 4, codes⟩

def APlan.regs (p : APlan) : Nat := 2 * p.vals + 2 * p.idxs + p.scales

/-- The stream of bits that n registers of a lane hold. -/
def regBits (rd : Nat → Nat → Word) (lane base n : Nat) : Nat :=
  (List.range n).foldl (fun x k => x + (rd (base + k) lane).toNat * 2 ^ (32 * k)) 0

/-- Row h of a lane: each value with the B row it multiplies, none where an index selects no row. -/
def aRow (e : Tensor) (kept : Option Sparsity) (k va : Nat) (rd : Nat → Nat → Word) (lane h : Nat) :
    List (FVal × Option Nat) :=
  let p := aPlan e kept k
  let vals := regBits rd lane (va + h * p.vals) p.vals
  let idxs := regBits rd lane (va + 2 * p.vals + h * p.idxs) p.idxs
  let scs := regBits rd lane (va + 2 * p.vals + 2 * p.idxs) p.scales
  let l := blockLen e.blk
  let scaled := fun (j i : Nat) =>
    let x := e.value (vals / 2 ^ (j * e.width))
    if e.blk = 0 then x else x.timesScale (scs / 2 ^ (8 * (h * p.codes + (if l < k then i / l else 0))))
  match kept with
  | none => (List.range k).map fun j => (scaled j j, some j)
  | some n => (List.range (2 * keptOf n)).map fun j =>
      let i := 48 * (j / keptOf n) + idxs / 2 ^ (6 * j) % 64
      if 48 ≤ idxs / 2 ^ (6 * j) % 64 then (.fin false 0 0, none) else (scaled j i, some i)

/-- One element of the result (R145): the exact sum of the accumulator and every product, rounded once. -/
def mmaElem (f : Fmt) (acc : FVal) (row : List (FVal × Option Nat)) (col : Array FVal) : Nat × Flags :=
  let ps := row.map fun p =>
    match p.2 with
    | some k => exactMul p.1 (col.getD k (.fin false 0 0))
    | none => (.fin false 0 0, 0)
  let t := exactSum false (acc :: ps.map (·.1))
  roundWith f .rn false (t.1, ps.foldl (fun x p => x ||| p.2) t.2)

/-- The tile of the result, as rows of bits, and the flags of its roundings. -/
def mmaTile (f : Fmt) (acc : List (List Nat)) (rows : List (List (FVal × Option Nat))) (cols : List (Array FVal)) :
    List (List Nat) × Flags :=
  let xs := (acc.zip rows).map fun p => (p.1.zip cols).map fun q => mmaElem f (f.value q.1) p.2 q.2
  (xs.map fun r => r.map (·.1), xs.foldl (fun fl r => r.foldl (fun fl x => fl ||| x.2) fl) 0)

/-- The elements of the B slice that an operation reads. -/
def bSlice (k0 n0 k : Nat) : List (Nat × Nat) :=
  (List.range k).flatMap fun i => (List.range 64).map fun j => (k0 + i, n0 + j)

/-- Whether an entry, as a stream would read it now, holds binary64; none while its page is missing. -/
def State.entryWide (s : State) (id : StreamId) (tid : Nat) : Option Bool :=
  let g := s.group id.team id.grp
  let k := s.teamCore id.team
  let a := tensorAddr g.c.ttbase tid
  let read := fun (t : Trans) => !t.host && (Tensor.ofNat (leNat ((List.range 64).map fun i => s.readTr t k.die (a + i)))).etype == 7
  if g.c.ttbase = 0 then some false
  else
    match s.walkOf k .openRead g.c.asid (BitVec.ofNat 64 a) id.grp (2 * id.team + bit01 id.x) with
    | some w => if w.phase = .fatal then some false else none
    | none =>
      match s.tlbFind k g.c.asid a with
      | some t => some (read t)
      | none => match s.walk g.c.asid a with
        | .ok t => some (read t)
        | .missing => none
        | .fatal => some false

/-- The accumulators that an MMA or MMAS names: the odd one of a pair too where the entry of its B holds binary64 (R141,
R148), or may hold it, its page being missing still. -/
def State.mmaAccs (s : State) (id : StreamId) (i : Instr) : List Nat :=
  match mmaOp i with
  | none => []
  | some o => if s.entryWide id o.tid = some false then [o.d] else [o.d, o.d + 1]

/-- An accumulator belongs to a pending set of another convergence register (R148). -/
def State.accHeld (s : State) (id : StreamId) (accs : List Nat) (own : Option Nat) : Bool :=
  (s.group id.team id.grp).c.mma.any fun k => some k.cv != own && (s.mmaAccs id k.i).any fun a => accs.contains a

/-- An instruction that waits for the accumulators of pending sets asks for the pages of their entries that are missing. -/
def State.askEntries (s : State) (id : StreamId) (lanes : Mask) : State :=
  let g := s.group id.team id.grp
  g.c.mma.foldl (fun s k => match mmaOp k.i with
    | none => s
    | some o =>
      if (s.entryWide id o.tid).isSome then s
      else
        (s.translate (s.teamCore id.team) .openRead g.c.asid (tensorAddr g.c.ttbase o.tid) lanes id.grp 0 (2 * id.team + bit01 id.x)
          false).2) s

/-- The latched A rows serve an operation (R146); the sparsity counts with the class (DEDUCED, log 21). -/
def Latch.serves (l : Latch) (o : MmaOp) (b : Word) (cls : Nat) : Bool :=
  l.a == o.a && l.b == b && l.cls == cls && l.sparse == o.kept

/-- What the registers of A must meet (R142). -/
def aOk (s : State) (id : StreamId) (e : Tensor) (o : MmaOp) (k : Nat) : Bool :=
  let g := s.group id.team id.grp
  (e.blk == 0 || divides (blockLen e.blk) k) && !(e.width == 64 && o.a % 2 == 1) &&
  decide (o.a + (aPlan e o.kept k).regs ≤ g.window id.x)

/-- What the B entry must meet (R143). -/
def bOk (e : Tensor) (k k0 : Nat) : Bool :=
  e.space == 1 &&
  (e.blk == 0 || (e.sspace == 1 && e.layout == 1 && divides (blockLen e.blk) k && k0 % min k (blockLen e.blk) == 0))

/-- The words of a result by rows, into the accumulator or the pair of accumulators of an operation. -/
def mmaOuts (g : Group) (o : MmaOp) (wide : Bool) (res : List (List Nat)) : List (Nat × AccImage) :=
  let put := fun (a sh : Nat) => (a, Tile.image (((g.tile a).zip res).map fun p =>
    { p.1 with e := p.2.map fun x => BitVec.ofNat 32 (x / 2 ^ sh) }))
  if wide then [put o.d 0, put (o.d + 1) 32] else [put o.d 0]

/-- The accumulator's elements as an operation reads them. -/
def mmaAcc (g : Group) (o : MmaOp) (wide : Bool) : List (List Nat) :=
  let lo := (g.tile o.d).map fun r => r.e.map (·.toNat)
  if wide then (lo.zip ((g.tile (o.d + 1)).map fun r => r.e.map (·.toNat))).map fun p =>
    (p.1.zip p.2).map fun q => q.1 + 2 ^ 32 * q.2
  else lo

/-- The operation issues (R144): it reads, computes its tile, and leaves its latch (R146). The rows of lanes outside the present
DECL are zero though the latch holds them: R142 says so of every operation, and R146 not which of the two holds for latched rows
(DEDUCED, log 21). -/
def mmaFire (k : MmaSet) (o : MmaOp) (ea eb : Tensor) (cls depth : Nat) (l : Latch) (c : Ctx) (s : State) : State :=
  let g := s.group c.id.team c.id.grp
  let wide := decide (cls = 4)
  let l := { l with decl := l.decl &&& g.decl k.cv }
  let rd := fun r i => if l.decl.getLsbD i then SMap.get 0 l.regs (32 * r + i) else 0
  let rows := (List.range 64).map fun r => aRow ea o.kept depth o.a rd (r / 2) (r % 2)
  let k0 := k.c.toNat % 65536
  let n0 := k.c.toNat / 65536
  let cols := (List.range 64).map fun j => ((List.range depth).map fun i => s.padValue c.id.team eb (k0 + i) (n0 + j)).toArray
  let res := mmaTile (if wide then f64 else f32) (mmaAcc g o wide) rows cols
  let s := s.modGroup c.id.team c.id.grp fun g => { g with c.latch := if o.r then some l else none }
  s.accLater c o.la (mmaOuts g o wide res.1) res.2

/-- The A rows as the registers hold them now. -/
def readLatch (s : State) (c : Ctx) (k : MmaSet) (o : MmaOp) (ea : Tensor) (cls depth : Nat) : Latch :=
  let st := s.stream c.id
  let decl := (s.group c.id.team c.id.grp).decl o.cv
  let regs := (List.range (aPlan ea o.kept depth).regs).foldl (fun m j =>
    (maskLanes decl).foldl (fun m i => SMap.set 0 m (32 * (o.a + j) + i) (st.vec (o.a + j) i)) m) []
  ⟨o.a, k.b, cls, o.kept, decl, regs⟩

/-- The checks of an operation's issue (R140-R143, R146, R147), for the held lanes. The trap of a slice beyond ROWS or COLS has the
slot in TADR and the held lanes in TLANE (R143 names neither; DESIGN CHOICE, log 38). -/
def mmaIssue (k : MmaSet) (o : MmaOp) (c : Ctx) (s : State) : Act :=
  if 4096 ≤ k.b.toNat then c.illegal
  else
    tensorAt c k.b.toNat s fun ea s => tensorAt c o.tid s fun eb s =>
      let g := s.group c.id.team c.id.grp
      match classOf ea eb with
      | none => c.illegal
      | some cls =>
        let wide := decide (cls = 4)
        let depth := if o.kept.isSome then 96 else classDepth cls
        let accs := if wide then [o.d, o.d + 1] else [o.d]
        let k0 := k.c.toNat % 65536
        let n0 := k.c.toNat / 65536
        let keys := accs.map accRegKey ++ (List.range (aPlan ea o.kept depth).regs).map fun j => vecKey (o.a + j)
        if (o.kept.isSome && decide (2 ≤ cls)) || (wide && (o.d % 2 == 1 || decide (g.c.abud ≤ o.d + 1))) then c.illegal
        else if !(match g.c.latch with | some l => l.serves o k.b cls | none => aOk s c.id ea o depth) then c.illegal
        else if !bOk eb depth k0 then c.illegal
        else if decide (eb.rows < k0 + depth) || decide (eb.cols < n0 + 64) then c.bad 7
        else
          readPad c s (eb.spans (bSlice k0 n0 depth)) <|
            if s.accHeld c.id accs (some o.cv) then .wait fun s => s.askEntries c.id c.iss
            else if (s.stream c.id).interlocked c.iss keys then .hold
            else
              let l := match g.c.latch with | some l => l | none => readLatch s c k o ea cls depth
              .done (mmaFire k o ea eb cls depth l c s)

/-! ## Pending sets (R144) -/

/-- A pending set is over: its signatures are cleared and its lanes are no longer held. -/
def State.endSet (s : State) (id : StreamId) (cv : Nat) : State :=
  let s := s.modGroup id.team id.grp fun g => (g.setSigned cv 0) |> fun g => { g with c.mma := g.c.mma.filter fun k => k.cv != cv }
  s.modStream id fun st => st.setHolds (st.heldFor (.mma cv)) none

/-- Tries to issue the operation of a set whose declared lanes have all signed. -/
def State.settleSet (s : State) (id : StreamId) (k : MmaSet) : State :=
  let g := s.group id.team id.grp
  let st := s.stream id
  match mmaOp k.i with
  | none => s
  | some o =>
    if st.mode ≠ .normal ∨ g.signed k.cv ≠ g.decl k.cv then s
    else
      let held := st.heldFor (.mma k.cv)
      let c : Ctx := ⟨id, k.slot, held, held⟩
      match mmaIssue k o c s with
      | .done t => (t.endSet id k.cv).advance id held
      | .wait f => f s
      | .trap r => (s.endSet id k.cv).takeTrap id r
      | .trapIn t r => (t.endSet id k.cv).takeTrap id r
      | .trapBy f r => ((f s).endSet id k.cv).takeTrap id r
      | _ => s

/-- The stream of a group that uses the matrix unit. -/
def Group.matrixSide (g : Group) : Bool := g.split

/-- Every complete set of every group that may issue. -/
def State.settleSets (s : State) : State :=
  s.teams.foldl (fun s p =>
    if !s.teamRuns p.1 then s
    else p.2.st.groups.foldl (fun s q =>
      if !q.2.runs then s else q.2.c.mma.foldl (fun s k => s.settleSet ⟨p.1, q.1, q.2.matrixSide⟩ k) s) s) s

/-- Signs for the executing lanes and holds them at the instruction. -/
def signMma (i : Instr) (cv : Nat) (b cr : Word) (c : Ctx) (s : State) : Act :=
  let g := s.myGroup
  let out := c.ex &&& ~~~g.decl cv
  let other := g.c.mma.any fun k => k.cv == cv && k.i != i
  if out ≠ 0 then c.trapOf 4 0 c.pc out
  else if other then c.trapOf 4 0 c.pc c.ex
  else if s.accHeld c.id (s.mmaAccs c.id i) (some cv) then .wait fun s => s.askEntries c.id c.iss
  else
    let k : MmaSet := ⟨cv, i, b, cr, c.pc⟩
    let s := s.modMyGroup fun g =>
      { g.setSigned cv (g.signed cv ||| c.ex) with c.mma := (g.c.mma.filter fun k => k.cv != cv) ++ [k] }
    let s := (s.modHere fun st => st.setHolds c.ex (some (.mma cv))).advance c.id (c.iss &&& ~~~c.ex)
    .jump (s.settleSet c.id k)

/-- What MMA and MMAS declare. -/
def mmaInfo (g : Guard) (la : Fin 16) (d : Fin 8) (a : Fin 192) (b cr : Fin 32) : Info :=
  { g := g, uses := [.acc d, u1 (.v a), u1 (.s b), u1 (.s cr)], cls := .x, la := some la, noHandler := true, path := some .mx }

def execMma (g : Guard) (la : Fin 16) (r : Bool) (cv : Fin 4) (d : Fin 8) (a : Fin 192) (b cr : Fin 32)
    (tid : BitVec 12) (s : State) : Host.Outcome State Fault Refusal :=
  issue (mmaInfo g la d a b cr)
    (fun c s => signMma (.mma g la r cv d a b cr tid) cv.val (s.here.uni b.val) (s.here.uni cr.val) c s) s

def execMmas (g : Guard) (la : Fin 16) (r : Bool) (cv : Fin 4) (n : Sparsity) (d : Fin 8) (a : Fin 192) (b cr : Fin 32)
    (tid : BitVec 12) (s : State) : Host.Outcome State Fault Refusal :=
  issue (mmaInfo g la d a b cr)
    (fun c s => signMma (.mmas g la r cv n d a b cr tid) cv.val (s.here.uni b.val) (s.here.uni cr.val) c s) s

def execMrel (g : Guard) (s : State) : Host.Outcome State Fault Refusal :=
  issue { g := g, cls := .x, noHandler := true, path := some .mx }
    (fun _ s => .done (s.modMyGroup fun g => { g with c.latch := none })) s

/-! ## Moving accumulators (R149, R150) -/

/-- What an instruction on accumulators declares. -/
def accInfo (g : Guard) (la : Fin 16) (uses : List Use) : Info :=
  { g := g, uses := uses, cls := .x, la := some la, noHandler := true, path := some .mx }

/-- An accumulator instruction waits for a pending set that names one of its accumulators (R148). -/
def accsFree (c : Ctx) (s : State) (accs : List (Fin 8)) (go : Act) : Act :=
  if s.accHeld c.id (accs.map (·.val)) none then .wait fun s => s.askEntries c.id c.iss else go

def execMaccZero (g : Guard) (la : Fin 16) (d : Fin 8) (s : State) : Host.Outcome State Fault Refusal :=
  issue (accInfo g la [.acc d])
    (fun c s => accsFree c s [d] (.done (s.accLater c la [(d.val, { s.myGroup.image d.val with e := [] })] 0))) s

def execMaccInit (g : Guard) (la : Fin 16) (d : Fin 8) (s : State) : Host.Outcome State Fault Refusal :=
  issue (accInfo g la [.acc d])
    (fun c s => accsFree c s [d] (.done (s.accLater c la [(d.val, ⟨[], [], [], []⟩)] 0))) s

def execMaccMov (g : Guard) (la : Fin 16) (d a : Fin 8) (s : State) : Host.Outcome State Fault Refusal :=
  issue (accInfo g la [.acc d, .acc a])
    (fun c s => accsFree c s [d, a] (.done (s.accLater c la [(d.val, s.myGroup.image a.val)] 0))) s

/-- The first of four columns that a lane moves. -/
def State.maccCol (s : State) (b : Src) (i : Nat) : Nat := 4 * ((s.src b i).toNat % 64 / 4)

def execMaccRd (g : Guard) (la : Fin 16) (d : Fin 192) (a : Fin 8) (b : Src) (s : State) :
    Host.Outcome State Fault Refusal :=
  issue (accInfo g la [.dst (.v d) 8, .acc a, u1 b])
    (fun c s => accsFree c s [a] <|
      .done (s.longLat c la (.v d) 8 (fun k i => s.myGroup.acc a.val (2 * i + k / 4) (s.maccCol b i + k % 4)) 0)) s

/-- Writes one element of an image. -/
def AccImage.setE (x : AccImage) (r c : Nat) (w : Word) : AccImage := { x with e := SMap.set 0 x.e (64 * r + c) w }
def AccImage.setRow (x : AccImage) (r : Nat) (m hi lo : Word) : AccImage :=
  { x with m := SMap.set negInf x.m r m, hi := SMap.set 0 x.hi r hi, lo := SMap.set 0 x.lo r lo }

def execMaccWr (g : Guard) (la : Fin 16) (d : Fin 8) (a : Fin 192) (b : Src) (s : State) :
    Host.Outcome State Fault Refusal :=
  issue (accInfo g la [.acc d, .src (.v a) 8, u1 b])
    (fun c s => accsFree c s [d] <|
      let x := (maskLanes c.ex).foldl (fun x i => (List.range 8).foldl (fun (x : AccImage) k =>
        x.setE (2 * i + k / 4) (s.maccCol b i + k % 4) (s.here.vec (a.val + k) i)) x) (s.myGroup.image d.val)
      .done (s.accLater c la [(d.val, x)] 0)) s

/-- One of the three words of a row state. -/
def Group.rowWord (g : Group) (a r : Nat) : Nat → Word
  | 0 => g.rowM a r
  | 1 => g.rowHi a r
  | _ => g.rowLo a r

def execMaccRdst (g : Guard) (la : Fin 16) (d : Fin 192) (a : Fin 8) (s : State) : Host.Outcome State Fault Refusal :=
  issue (accInfo g la [.dst (.v d) 6, .acc a])
    (fun c s => accsFree c s [a] <|
      .done (s.longLat c la (.v d) 6 (fun k i => s.myGroup.rowWord a.val (2 * i + k / 3) (k % 3)) 0)) s

def execMaccWrst (g : Guard) (la : Fin 16) (d : Fin 8) (a : Fin 192) (s : State) : Host.Outcome State Fault Refusal :=
  issue (accInfo g la [.acc d, .src (.v a) 6])
    (fun c s => accsFree c s [d] <|
      let w := fun i k => s.here.vec (a.val + k) i
      let x := (maskLanes c.ex).foldl (fun (x : AccImage) i =>
        (x.setRow (2 * i) (w i 0) (w i 1) (w i 2)).setRow (2 * i + 1) (w i 3) (w i 4) (w i 5)) (s.myGroup.image d.val)
      .done (s.accLater c la [(d.val, x)] 0)) s

def execMaccDecl (g : Guard) (la : Fin 16) (d : Fin 4) (s : State) : Host.Outcome State Fault Refusal :=
  issue (accInfo g la [])
    (fun c s =>
      if s.myGroup.signed d.val ≠ 0 then c.trapOf 4 0 c.pc c.ex
      else .done (s.modMyGroup fun g => (g.setDecl d.val c.ex).setSigned d.val 0)) s

/-! ## Softmax triples (R151-R154) -/

/-- A result of one rounding, as a word. -/
def word32 (x : Nat × Flags) : Word := BitVec.ofNat 32 x.1

/-- Accumulates words and flags over a row. -/
def rowMap (f : Word → Nat × Flags) (l : List Word) (fl : Flags) : List Word × Flags :=
  (l.map fun w => word32 (f w), l.foldl (fun a w => a ||| (f w).2) fl)

/-- The greater of two maxima, -0 below +0 (R119). -/
def maxWord (a b : Word) : Word := if fpLess (fval a) (fval b) then b else a

/-- The factor that takes a row from a maximum to a larger one. -/
def rescale (m mn : Word) : Nat × Flags :=
  let d := roundWith f32 .rn false (exactSum false [fval m, (fval mn).negate])
  let f := ex2CR (f32.value d.1)
  (f.1, f.2 ||| d.2)

/-- The pair after an exact total, raising no flag (R151). -/
def pairOfSum (l : List FVal) : Word × Word :=
  let p := pairRound (exactSum false l).1
  (BitVec.ofNat 32 p.1, BitVec.ofNat 32 p.2)

/-- A product of two words, exactly. -/
def fmulv (a b : Word) : FVal := (exactMul (fval a) (fval b)).1

/-- One row of SMAX: the score row folded into the triple's (R152). -/
def smaxRow (o sc : TRow) : TRow × Flags :=
  if (fval o.m).isNan || sc.e.any (fun w => (fval w).isNan) then
    (.poison, sigFlags (fval o.m :: sc.e.map fval))
  else
    let mn := sc.e.foldl maxWord o.m
    if mn = o.m then (o, 0)
    else if o.m = negInf then ({ o with m := mn }, 0)
    else
      let f := rescale o.m mn
      let fw := word32 f
      let e := rowMap (fun w => roundWith f32 .rn false (exactMul (fval w) (fval fw))) o.e f.2
      let p := pairOfSum [fmulv o.hi fw, fmulv o.lo fw]
      (⟨e.1, mn, p.1, p.2⟩, e.2)

/-- The columns of one row of SEXP, in order: the probabilities, the pair, whether a NaN came, the flags (R153). -/
def sexpCols (q : Option NFmt) (m : Word) : List Word → Word × Word → Flags → Option (List Word) × (Word × Word) × Flags
  | [], p, fl => (some [], p, fl)
  | w :: l, p, fl =>
    let d := roundWith f32 .rn false (exactSum false [fval w, (fval m).negate])
    if (f32.value d.1).isNan then (none, p, fl ||| d.2)
    else
      let x := ex2CR (f32.value d.1)
      let p' := pairOfSum [fval p.1, fval p.2, f32.value x.1]
      let y := match q with
        | none => x
        | some n =>
          let z := n.round .rn 0 true (f32.value x.1) false
          let u := roundTo f32 .rn false (n.value z.1)
          (u.1, u.2 ||| z.2 ||| x.2)
      let r := sexpCols q m l p' (fl ||| d.2 ||| y.2)
      (r.1.map fun t => word32 y :: t, r.2)

/-- One row of SEXP: the score row after, the triple's row after (R153). -/
def sexpRow (q : Option NFmt) (sc o : TRow) : TRow × TRow × Flags :=
  if (fval o.m).isNan then ({ sc with e := List.replicate 64 nan32 }, o, 0)
  else if o.m = negInf then ({ sc with e := List.replicate 64 0 }, o, 0)
  else
    match sexpCols q o.m sc.e (o.hi, o.lo) 0 with
    | (none, _, fl) => ({ sc with e := List.replicate 64 nan32 }, .poison, fl)
    | (some e, p, fl) => ({ sc with e := e }, { o with hi := p.1, lo := p.2 }, fl)

/-- One row of SMERGE (R154). -/
def smergeRow (d a : TRow) : TRow × Flags :=
  if (fval d.m).isNan || (fval a.m).isNan then (.poison, sigFlags [fval d.m, fval a.m])
  else if a.m = negInf then (d, 0)
  else if d.m = negInf then (a, 0)
  else
    let mn := maxWord d.m a.m
    let fd := rescale d.m mn
    let fa := rescale a.m mn
    let xs := (d.e.zip a.e).map fun p =>
      let x := exactMul (fval p.1) (f32.value fd.1)
      let y := exactMul (fval p.2) (f32.value fa.1)
      let t := exactSum false [x.1, y.1]
      roundWith f32 .rn false (t.1, t.2 ||| x.2 ||| y.2)
    let p := pairOfSum [fmulv d.hi (word32 fd), fmulv d.lo (word32 fd), fmulv a.hi (word32 fa), fmulv a.lo (word32 fa)]
    (⟨xs.map word32, mn, p.1, p.2⟩, xs.foldl (fun fl x => fl ||| x.2) (fd.2 ||| fa.2))

/-- The rows of two tiles, one by one. -/
def tileMap (f : TRow → TRow → TRow × Flags) (x y : Tile) : Tile × Flags :=
  let r := (x.zip y).map fun p => f p.1 p.2
  (r.map (·.1), r.foldl (fun fl p => fl ||| p.2) 0)

def execSmax (g : Guard) (la : Fin 16) (d a : Fin 8) (s : State) : Host.Outcome State Fault Refusal :=
  issue (accInfo g la [.acc d, .acc a])
    (fun c s => accsFree c s [d, a] <|
      let r := tileMap smaxRow (s.myGroup.tile d.val) (s.myGroup.tile a.val)
      .done (s.accLater c la [(d.val, Tile.image r.1)] r.2)) s

/-- The format that SEXP.Q narrows to (R153). -/
def sexpFormat (c : Ctx) (q : Option (BitVec 12)) (s : State) (go : Option NFmt → State → Act) : Act :=
  match q with
  | none => go none s
  | some tid => tensorAt c tid.toNat s fun e s =>
      if e.etype ≠ 0 ∨ e.blk ≠ 0 then c.illegal else go (some (NFmt.of e.nfd)) s

def execSexp (g : Guard) (la : Fin 16) (q : Option (BitVec 12)) (d a : Fin 8) (s : State) :
    Host.Outcome State Fault Refusal :=
  issue (accInfo g la [.acc d, .acc a])
    (fun c s => sexpFormat c q s fun f s => accsFree c s [d, a] <|
      let r := ((s.myGroup.tile d.val).zip (s.myGroup.tile a.val)).map fun p => sexpRow f p.1 p.2
      let fl := r.foldl (fun fl p => fl ||| p.2.2) 0
      .done (s.accLater c la [(d.val, Tile.image (r.map (·.1))), (a.val, Tile.image (r.map (·.2.1)))] fl)) s

def execSmerge (g : Guard) (la : Fin 16) (d a : Fin 8) (s : State) : Host.Outcome State Fault Refusal :=
  issue (accInfo g la [.acc d, .acc a])
    (fun c s => accsFree c s [d, a] <|
      let r := tileMap smergeRow (s.myGroup.tile d.val) (s.myGroup.tile a.val)
      .done (s.accLater c la [(d.val, Tile.image r.1)] r.2)) s

/-! ## CRED (R155, R366, R370) -/

/-- CRED: the n-th of a group is counted from its team's joining of the cluster (R155 does not say from where; DEDUCED, log 48).
Its contribution waits for a checkpoint in the lehr; acc[D] interlocks until the reduction's result is written. -/
def execCred (g : Guard) (la : Fin 16) (d : Fin 8) (s : State) : Host.Outcome State Fault Refusal :=
  issue { g := g, uses := [.acc d], cls := .x, la := some la, noHandler := true, noCallee := true, noDmr := true,
          path := some .cl }
    (fun c s => accsFree c s [d] <|
      match s.clusterOf c.id.team with
      | none => c.trapOf 13 0 c.pc c.ex
      | some _ =>
        if s.here.pend.any fun p => p.cred.isSome then .hold
        else if !s.lehrTakes s.myCore c.id.team 1 then .hold
        else
          let (p, s) := s.fresh
          let n := SMap.get 0 s.myTeam.credCount c.id.grp + 1
          let e : Pending := ⟨p, [], [accRegKey d.val], startLa c.iss la, some c.pc, none⟩
          let s := s.modHere fun st => { st with pend := st.pend ++ [e] }
          let s := s.modMyTeam fun t => { t with credCount := SMap.set 0 t.credCount c.id.grp n }
          let s := s.enterLehr s.myCore c.id.team c.id.grp c.id.x s.time (.cred (benchKey s.myCore) c.id.team c.id.grp n)
          .done (s.askCkpt c.id.team)) s

/-- The open CRED of a group: the stream that issued it and its accumulator. -/
def Group.openCred (g : Group) : Option (Bool × Pending) :=
  [false, true].findSome? fun x => ((g.stream x).pend.find? fun p => p.cred.isSome).map fun p => (x, p)
def Pending.accOf (p : Pending) : Nat := p.covers.headD 0 / 4

/-- Flags of the interrupted code: in handler or routine mode they go to the FSTAT that is kept aside (R104, R346). -/
def Stream.raiseKept (st : Stream) (f : Flags) : Stream :=
  if st.mode = .normal then st.raise f else { st with kept.fstat := st.kept.fstat ||| f.setWidth 32 }

/-- A group takes the result of its reduction: acc[D] and the flags; or nothing, where the reduction has ended. -/
def Group.finishCred (g : Group) (r : Option (AccImage × Flags)) : Group :=
  match g.openCred with
  | none => g
  | some (x, p) =>
    let g := g.setStream x { g.stream x with pend := (g.stream x).pend.filter fun q => q.id != p.id }
    match r with
    | none => g
    | some (i, fl) =>
      let g := (RegWrite.acc p.accOf i.e i.m i.hi i.lo).apply g x
      g.setStream x ((g.stream x).raiseKept fl)

/-- The result of a reduction: contributions merged in ascending member number. -/
def credResult (got : List (Nat × AccImage)) : AccImage × Flags :=
  match got.mergeSort fun a b => decide (a.1 ≤ b.1) with
  | [] => (⟨[], [], [], []⟩, 0)
  | x :: l =>
    let r := l.foldl (fun (a : Tile × Flags) y =>
      let z := tileMap smergeRow a.1 y.2.tile
      (z.1, a.2 ||| z.2)) (x.2.tile, 0)
    (Tile.image r.1, r.2)

/-- A member still takes part in a reduction: it has contributed, or its group has not ended. -/
def State.credTakes (s : State) (r : CredRed) (cl : Cluster) (m : Nat) : Bool :=
  r.got.any (fun p => p.1 == m) ||
  (match cl.member m with
   | some t => (s.group t r.grp).live
   | none => false)

/-- Writes the result of a complete reduction into every contributing group that is here, whether its team has left the
cluster since or not, and a group that waited for it may end (R155, R167); a team that is switched out takes it at its restore
(R394). -/
def State.credWrite (s : State) (bench : Nat) (r : CredRed) : State :=
  let res := credResult r.got
  let waits := fun (p : Nat × Nat) => ((s.group p.2 r.grp).openCred.map fun q => q.2.id) == some (SMap.get 0 r.pends p.1)
  let s := (r.who.filter fun p => (s.team p.2).live && waits p).foldl (fun s p =>
    (s.modTeam p.2 fun x => x.mapCores true fun k =>
      k.modGroup r.grp fun g => g.finishCred (some res)).endGroup p.2 r.grp) s
  let away := r.who.filter fun p => !(s.team p.2).live && (s.team p.2).out
  let is := fun (q : CredRed) => q.cluster == r.cluster && q.grp == r.grp && q.n == r.n
  let kept := fun (l : List CredRed) =>
    if away.isEmpty then l.filter (fun q => !is q) else l.map (fun q => if is q then { r with members := [] } else q)
  s.modBench bench fun b => { b with creds := kept b.creds }

/-- Completes the reductions of a bench whose members have all contributed. -/
def State.checkCreds (s : State) (bench : Nat) : State :=
  (s.bench bench).creds.foldl (fun s r =>
    match (s.bench bench).clusters.find? fun c => c.id == r.cluster with
    | none => s
    | some cl =>
      if r.members.isEmpty then s
      else if (r.members.filter fun m => s.credTakes r cl m).all (fun m => r.got.any fun p => p.1 == m) then
        s.credWrite bench r
      else s) s

/-- Every reduction of the package. -/
def State.settleCreds (s : State) : State :=
  s.benches.foldl (fun s p => if p.2.creds.isEmpty then s else s.checkCreds p.1) s

/-- A contribution reaches the cluster reduction unit: acc[D] of its group. -/
def State.contribute (s : State) (t g : Nat) : State :=
  match (s.team t).cluster, s.clusterOf t, (s.group t g).openCred with
  | some (_, m), some cl, some (_, p) =>
    let b := benchKey (s.teamCore t)
    let n := SMap.get 0 (s.team t).credCount g
    let img := (s.group t g).image p.accOf
    let is := fun (q : CredRed) => q.cluster == cl.id && q.grp == g && q.n == n
    let new : CredRed := ⟨cl.id, g, n, (cl.current.filter fun q => (s.group q.2 g).live).map (·.1), [], [], []⟩
    let r := ((s.bench b).creds.find? is).getD new
    let r := { r with got := r.got ++ [(m, img)], who := r.who ++ [(m, t)], pends := SMap.set 0 r.pends m p.id }
    (s.modBench b fun k => { k with creds := (k.creds.filter fun q => !is q) ++ [r] }).checkCreds b
  | _, _, _ => s

def execCredContribution (t g : Nat) (s : State) : Host.Outcome State Fault Refusal := .next (s.contribute t g)

/-- The steps that follow every step: pending sets and open reductions that have become complete. -/
def State.settleAll (s : State) : State := s.settleSets.settleCreds

end Sys2Proof.Machine
end

