-- ==== Sys2Proof/Machine/Cluster.lean ====
section
/-!
DEFINITION. Elastic clusters (10 R246, R247): CJOIN, CLEAVE, and what a team's leaving does to the others.
-/

namespace Sys2Proof.Machine

/-! ## Joining -/

/-- The forming cluster of a key on a bench. -/
def Bench.forming (b : Bench) (asid : BitVec 16) (key : Word) : Option Cluster :=
  b.clusters.find? fun c => !c.complete && c.asid == asid && c.key == key

/-- The cluster that a team has entered, complete or forming. -/
def State.enteredCluster (s : State) (t : Nat) : Option (Cluster × Nat) :=
  (s.team t).cluster.bind fun p => ((s.bench (benchKey (s.teamCore t))).clusters.find? fun c => c.id == p.1).map fun c => (c, p.2)

/-- A team joins the forming cluster of a key, or starts one; with its n-th member the cluster is complete. -/
def State.joinCluster (s : State) (t : Nat) (asid : BitVec 16) (key : Word) (n : Nat) : State :=
  let b := benchKey (s.teamCore t)
  let (id, s) := s.fresh
  let c := ((s.bench b).forming asid key).getD ⟨id, asid, key, n, [], 0, false⟩
  let m := c.joined
  let c := { c with members := SMap.set none c.members m (some t), joined := m + 1, complete := decide (m + 1 = n) }
  (s.modBench b fun k => { k with clusters := (k.clusters.filter fun x => x.id != c.id) ++ [c] }).modTeam t
    fun x => { x with cluster := some (c.id, m), credCount := [] }

/-- The release that a join waits for. -/
def joinFirst (c : Ctx) (s : State) (go : State → Act) : Act :=
  releaseFirst c s .bench (fun s => s.beginRelease c.id .bench) (fun d s => s.releaseDone c.id .bench d) go

/-- CJOIN holds its lanes until its cluster is complete; the join is a release of the cluster's scope, which reaches other
cores (R208, R246). -/
def execCjoin (g : Guard) (d : Dst) (a b : Src) (s : State) : Host.Outcome State Fault Refusal :=
  issue { g := g, uses := [d1 d, u1 a, u1 b], cls := .a, noHandler := true, noCallee := true, noDmr := true, path := some .cl }
    (fun c s =>
      let i := low c.ex
      let key := s.src a i
      let n := (s.src b i).toNat
      let wrong := c.trapOf 13 0 c.pc c.ex
      if n < 2 ∨ 16 < n then wrong
      else
        match s.enteredCluster c.id.team with
        | some (cl, m) =>
          if cl.key ≠ key ∨ cl.n ≠ n then wrong
          else if cl.complete then .done ((s.setDst d c.ex fun _ => BitVec.ofNat 32 m).acquire c.id .cluster)
          else .hold
        | none =>
          match (s.bench (benchKey s.myCore)).forming s.myAsid key with
          | some cl =>
            if cl.n ≠ n then wrong
            else joinFirst c s fun s =>
              if cl.joined + 1 = n then
                let m := cl.joined
                let s := s.joinCluster c.id.team s.myAsid key n
                .done ((s.setDst d c.ex fun _ => BitVec.ofNat 32 m).acquire c.id .cluster)
              else .wait fun s => (s.clearRel c.id c.ex).joinCluster c.id.team s.myAsid key n
          | none => joinFirst c s fun _ => .wait fun s => (s.clearRel c.id c.ex).joinCluster c.id.team s.myAsid key n) s

/-! ## Leaving -/

/-- The registers of the other members on a leaver's scratchpad, and the leaver's on the others'. -/
def State.windowRegs (s : State) (t : Nat) : List LineRef :=
  let others := ((s.clusterOf t).map fun c => c.current.map (·.2)).getD []
  s.boundRegs.filter fun r =>
    let l := s.lineAt r
    l.windowed && l.st != .recalled && (r.team == t || (others.contains r.team &&
      (match s.windowTarget r.team (128 * l.line) with | some (m, _) => m == t | none => false)))

/-- Recalls them (R247). -/
def State.recallWindow (s : State) (t : Nat) : State := (s.windowRegs t).foldl (fun s r => s.recallReg r) s

/-- Writes to a team's scratchpad that entered a lehr by a date and are not applied. -/
def State.writesTo (s : State) (t date : Nat) : Bool :=
  s.cores.any fun p => p.2.waiting.any fun e => decide (e.date ≤ date) && (match e.work with
    | .depart _ _ (.window m _) _ _ _ => m == t
    | .land _ m _ _ _ => m == t
    | _ => false)

/-- A group that waits for a reduction that has ended takes the barrier-error trap, and a contribution of its own that has not
arrived is taken back (R155). -/
def State.dropCred (s : State) (t grp : Nat) : State :=
  match (s.group t grp).openCred with
  | none => s
  | some (x, p) =>
    let s := s.modCore (s.teamCore t) fun k => { k with lehr := k.lehr.filter fun e =>
      !(match e.work with | .cred _ u g _ => u == t && g == grp | _ => false) }
    let s := { s with agenda := s.agenda.filter fun e => e.2 != Instr.credContribution t grp }
    let s := s.modTeam t fun y => y.mapCores true fun k => k.modGroup grp fun g => g.finishCred none
    let id : StreamId := ⟨t, grp, x⟩
    (s.lateTrap id ⟨13, 0, p.cred.getD 0, (s.stream id).amask⟩).endGroup t grp

/-- A group waits for a reduction: its contribution stands in it, or the group's last CRED in that cluster names it. -/
def State.waitsFor (s : State) (r : CredRed) (t : Nat) : Bool :=
  match (s.group t r.grp).openCred with
  | none => false
  | some (_, p) => r.pends.any (fun q => q.2 == p.id) ||
    (((s.team t).cluster.any fun q => q.1 == r.cluster) && SMap.get 0 (s.team t).credCount r.grp == r.n)

/-- The reductions that lack a leaver end (R155): every group that waits for one takes the barrier-error trap, and so does a
group of the leaver whose contribution has not arrived. -/
def State.endCreds (s : State) (t cl m : Nat) : State :=
  let b := benchKey (s.teamCore t)
  let lacks := fun (r : CredRed) => r.cluster == cl && r.members.contains m && !r.got.any fun p => p.1 == m
  let rs := (s.bench b).creds.filter lacks
  let s := s.modBench b fun k => { k with creds := k.creds.filter fun r => !lacks r }
  let teams := (((s.bench b).clusters.find? fun c => c.id == cl).map fun c => c.current.map (·.2)).getD []
  let s := rs.foldl (fun s r => (teams ++ r.who.map (·.2)).eraseDups.foldl (fun s u =>
    if s.waitsFor r u then s.dropCred u r.grp else s) s) s
  let arrived := fun (id : Nat) => (s.bench b).creds.any fun r => r.pends.any fun q => q.2 == id
  (s.team t).groupIds.foldl (fun s g => match (s.group t g).openCred with
    | none => s
    | some (_, p) => if arrived p.id then s else s.dropCred t g) s

/-- A team is out of its cluster (R247 steps 3 and 4). -/
def State.leaveCluster (s : State) (t : Nat) : State :=
  match (s.team t).cluster with
  | none => s
  | some (id, m) =>
    let b := benchKey (s.teamCore t)
    let s := s.endCreds t id m
    let s := s.modTeam t fun x => { x with cluster := none }
    let s := s.modBench b fun k =>
      let cs := k.clusters.map fun c => if c.id = id then { c with members := SMap.set none c.members m none } else c
      { k with clusters := cs.filter fun c => !c.members.isEmpty }
    (s.checkCluster b id).settleCreds

/-- CLEAVE: a register that a member binds to the leaver's scratchpad while it waits is recalled in its turn. -/
def execCleave (g : Guard) (s : State) : Host.Outcome State Fault Refusal :=
  issue { g := g, cls := .a, noHandler := true, noCallee := true, noDmr := true, path := some .cl }
    (fun c s =>
      let t := c.id.team
      let pending := (s.team t).st.groups.any fun q =>
        match SMap.get .clear q.2.barriers (scopeCode .cluster) with | .clear => false | _ => true
      if (s.clusterOf t).isNone then .done s
      else if pending then c.trapOf 13 0 c.pc c.ex
      else
        if !s.recallTakes t (s.windowRegs t) then .hold else
        releaseFirst c s .cluster (fun s => (s.recallWindow t).beginRelease c.id .cluster)
          (fun d s => s.releaseDone c.id .cluster d && !s.writesTo t d) fun s =>
            if (s.windowRegs t).isEmpty then .done (s.leaveCluster t) else .wait fun s => s.clearRel c.id c.ex) s

end Sys2Proof.Machine
end

