-- ==== Sys2Proof/Machine/Int.lean ====
section
/-!
DEFINITION. Integers, bits, moves and predicates (05 R108-R117).
-/

namespace Sys2Proof.Machine

/-! ## Integer arithmetic (R110, R111, R112) -/

/-- A 32-bit value read signed or unsigned (R87). -/
def readInt (uns : Bool) (w : Word) : Int := if uns then (w.toNat : Int) else w.toInt
def readInt64 (uns : Bool) (w : DWord) : Int := if uns then (w.toNat : Int) else w.toInt

/-- The lowest and highest of a range of w bits. -/
def intLo (w : Nat) (uns : Bool) : Int := if uns then 0 else -(2 ^ (w - 1) : Int)
def intHi (w : Nat) (uns : Bool) : Int := if uns then 2 ^ w - 1 else 2 ^ (w - 1) - 1

/-- The bits of an exact result, saturated or wrapped (R110). -/
def intBits (w : Nat) (uns sat : Bool) (x : Int) : BitVec w :=
  BitVec.ofInt w (if sat then min (max x (intLo w uns)) (intHi w uns) else x)

/-- A two-source integer instruction. -/
def int2 (g : Guard) (uns sat : Bool) (d : Dst) (a b : Src) (f : Int → Int → Int) (s : State) :
    Host.Outcome State Fault Refusal :=
  issue { g := g, uses := [d1 d, u1 a, u1 b] }
    (fun c s => .done (s.setDst d c.ex fun i => intBits 32 uns sat (f (readInt uns (s.src a i)) (readInt uns (s.src b i))))) s

def execIadd (g : Guard) (uns sat : Bool) (d : Dst) (a b : Src) (s : State) : Host.Outcome State Fault Refusal :=
  int2 g uns sat d a b (fun x y => x + y) s

def execIsub (g : Guard) (uns sat : Bool) (d : Dst) (a b : Src) (s : State) : Host.Outcome State Fault Refusal :=
  int2 g uns sat d a b (fun x y => x - y) s

def execImul (g : Guard) (uns sat : Bool) (d : Dst) (a b : Src) (s : State) : Host.Outcome State Fault Refusal :=
  int2 g uns sat d a b (fun x y => x * y) s

/-- Bits 63:32 of the exact product. -/
def execImulh (g : Guard) (uns : Bool) (d : Dst) (a b : Src) (s : State) : Host.Outcome State Fault Refusal :=
  int2 g uns false d a b (fun x y => (x * y) / 2 ^ 32) s

def execImad (g : Guard) (uns sat : Bool) (d : Dst) (a b e : Src) (s : State) : Host.Outcome State Fault Refusal :=
  issue { g := g, uses := [d1 d, u1 a, u1 b, u1 e] }
    (fun c s => .done (s.setDst d c.ex fun i => intBits 32 uns sat
      (readInt uns (s.src a i) * readInt uns (s.src b i) + readInt uns (s.src e i)))) s

def execImin (g : Guard) (uns : Bool) (d : Dst) (a b : Src) (s : State) : Host.Outcome State Fault Refusal :=
  int2 g uns false d a b min s

def execImax (g : Guard) (uns : Bool) (d : Dst) (a b : Src) (s : State) : Host.Outcome State Fault Refusal :=
  int2 g uns false d a b max s

def execIabs (g : Guard) (sat : Bool) (d : Dst) (a : Src) (s : State) : Host.Outcome State Fault Refusal :=
  issue { g := g, uses := [d1 d, u1 a] }
    (fun c s => .done (s.setDst d c.ex fun i => intBits 32 false sat ((s.src a i).toInt.natAbs : Int))) s

def execIadd64 (g : Guard) (uns sat : Bool) (d : Dst) (a b : Src) (s : State) : Host.Outcome State Fault Refusal :=
  issue { g := g, uses := [d2 d, u2 a, u2 b] }
    (fun c s => .done (s.setPair d c.ex fun i => intBits 64 uns sat
      (readInt64 uns (s.srcPair a i) + readInt64 uns (s.srcPair b i)))) s

def execImad64 (g : Guard) (uns sat : Bool) (d : Dst) (a b e : Src) (s : State) : Host.Outcome State Fault Refusal :=
  issue { g := g, uses := [d2 d, u1 a, u1 b, u2 e] }
    (fun c s => .done (s.setPair d c.ex fun i => intBits 64 uns sat
      (readInt uns (s.src a i) * readInt uns (s.src b i) + readInt64 uns (s.srcPair e i)))) s

/-- Base plus a scaled index, modulo 2^64. -/
def execLea (g : Guard) (zext : Bool) (sh : Fin 8) (d : Dst) (a b : Src) (s : State) :
    Host.Outcome State Fault Refusal :=
  issue { g := g, uses := [d2 d, u2 a, u1 b] }
    (fun c s => .done (s.setPair d c.ex fun i =>
      let w := s.src b i
      s.srcPair a i + ((if zext then w.setWidth 64 else w.signExtend 64) <<< sh.val))) s

def execSel (g : Guard) (d : Dst) (a b : Src) (p : Fin 8) (s : State) : Host.Outcome State Fault Refusal :=
  issue { g := g, uses := [d1 d, u1 a, u1 b, .pin p] }
    (fun c s => .done (s.setDst d c.ex fun i => if (s.here.pred p).getLsbD i then s.src a i else s.src b i)) s

/-- The ten relations of ICMP (R112). -/
def intRel (r : IRel) (a b : Word) : Bool :=
  match r with
  | .eq => a == b
  | .ne => a != b
  | .lt => decide (a.toInt < b.toInt)
  | .le => decide (a.toInt ≤ b.toInt)
  | .gt => decide (b.toInt < a.toInt)
  | .ge => decide (b.toInt ≤ a.toInt)
  | .ult => decide (a.toNat < b.toNat)
  | .ule => decide (a.toNat ≤ b.toNat)
  | .ugt => decide (b.toNat < a.toNat)
  | .uge => decide (b.toNat ≤ a.toNat)

def execIcmp (g : Guard) (rel : IRel) (d : Fin 8) (a b : Src) (s : State) : Host.Outcome State Fault Refusal :=
  issue { g := g, uses := [.pout d, u1 a, u1 b] }
    (fun c s => .done (s.setPred d c.ex fun i => intRel rel (s.src a i) (s.src b i))) s

/-- IDIV's result (R111): truncated, with the two cases the manual fixes. -/
def divBits (uns sat : Bool) (a b : Word) : Word :=
  if b = 0 then 0xFFFFFFFF
  else intBits 32 uns sat (Int.tdiv (readInt uns a) (readInt uns b))

/-- IREM's result (R111). -/
def remBits (uns : Bool) (a b : Word) : Word :=
  if b = 0 then a else BitVec.ofInt 32 (Int.tmod (readInt uns a) (readInt uns b))

def execIdiv (g : Guard) (la : Fin 16) (uns sat : Bool) (d : Dst) (a b : Src) (s : State) :
    Host.Outcome State Fault Refusal :=
  issue { g := g, uses := [d1 d, u1 a, u1 b], la := some la }
    (fun c s => .done (s.longLat c la d 1 (fun _ i => divBits uns sat (s.src a i) (s.src b i)) 0)) s

def execIrem (g : Guard) (la : Fin 16) (uns : Bool) (d : Dst) (a b : Src) (s : State) :
    Host.Outcome State Fault Refusal :=
  issue { g := g, uses := [d1 d, u1 a, u1 b], la := some la }
    (fun c s => .done (s.longLat c la d 1 (fun _ i => remBits uns (s.src a i) (s.src b i)) 0)) s

/-! ## Bits (R113, R114) -/

/-- A two-source instruction on bits. -/
def bits2 (g : Guard) (d : Dst) (a b : Src) (f : Word → Word → Word) (s : State) : Host.Outcome State Fault Refusal :=
  issue { g := g, uses := [d1 d, u1 a, u1 b] }
    (fun c s => .done (s.setDst d c.ex fun i => f (s.src a i) (s.src b i))) s
/-- A one-source instruction on bits. -/
def bits1 (g : Guard) (d : Dst) (a : Src) (f : Word → Word) (s : State) : Host.Outcome State Fault Refusal :=
  issue { g := g, uses := [d1 d, u1 a] } (fun c s => .done (s.setDst d c.ex fun i => f (s.src a i))) s

def execAnd (g : Guard) (d : Dst) (a b : Src) (s : State) : Host.Outcome State Fault Refusal :=
  bits2 g d a b (fun x y => x &&& y) s
def execOr (g : Guard) (d : Dst) (a b : Src) (s : State) : Host.Outcome State Fault Refusal :=
  bits2 g d a b (fun x y => x ||| y) s
def execXor (g : Guard) (d : Dst) (a b : Src) (s : State) : Host.Outcome State Fault Refusal :=
  bits2 g d a b (fun x y => x ^^^ y) s
/-- Shifts by 32 or more give zeros, or copies of the sign (R113). -/
def execShl (g : Guard) (d : Dst) (a b : Src) (s : State) : Host.Outcome State Fault Refusal :=
  bits2 g d a b (fun x n => if 32 ≤ n.toNat then 0 else x <<< n.toNat) s
def execShr (g : Guard) (d : Dst) (a b : Src) (s : State) : Host.Outcome State Fault Refusal :=
  bits2 g d a b (fun x n => if 32 ≤ n.toNat then 0 else x >>> n.toNat) s
def execSar (g : Guard) (d : Dst) (a b : Src) (s : State) : Host.Outcome State Fault Refusal :=
  bits2 g d a b (fun x n => x.sshiftRight (min 31 n.toNat)) s
def execRot (g : Guard) (right : Bool) (d : Dst) (a b : Src) (s : State) : Host.Outcome State Fault Refusal :=
  bits2 g d a b (fun x n => if right then x.rotateRight (n.toNat % 32) else x.rotateLeft (n.toNat % 32)) s
def execPopc (g : Guard) (d : Dst) (a : Src) (s : State) : Host.Outcome State Fault Refusal :=
  bits1 g d a (fun x => BitVec.ofNat 32 (popcount x)) s
def execClz (g : Guard) (d : Dst) (a : Src) (s : State) : Host.Outcome State Fault Refusal :=
  bits1 g d a (fun x => BitVec.ofNat 32 (32 - bitLen x.toNat)) s
def execBrev (g : Guard) (d : Dst) (a : Src) (s : State) : Host.Outcome State Fault Refusal :=
  bits1 g d a (fun x => maskOf fun k => x.getLsbD (31 - k)) s

/-- The position and effective length of a field (R114). -/
def fieldOf (b : Word) : Nat × Nat :=
  let pos := (b.extractLsb' 0 8).toNat
  (pos, if pos < 32 then min (b.extractLsb' 8 8).toNat (32 - pos) else 0)

def bfeBits (uns : Bool) (a b : Word) : Word :=
  let f := fieldOf b
  if f.2 = 0 then 0
  else
    let x := a.extractLsb' f.1 f.2
    if uns then x.setWidth 32 else x.signExtend 32

def bfiBits (a b e : Word) : Word :=
  let f := fieldOf b
  let m : Word := ((1 <<< f.2) - 1 : Word) <<< f.1
  let m : Word := if f.2 = 32 then BitVec.allOnes 32 else m
  (e &&& ~~~m) ||| ((a <<< f.1) &&& m)

def execBfe (g : Guard) (uns : Bool) (d : Dst) (a b : Src) (s : State) : Host.Outcome State Fault Refusal :=
  bits2 g d a b (bfeBits uns) s

def execBfi (g : Guard) (d : Dst) (a b e : Src) (s : State) : Host.Outcome State Fault Refusal :=
  issue { g := g, uses := [d1 d, u1 a, u1 b, u1 e] }
    (fun c s => .done (s.setDst d c.ex fun i =>
      if (fieldOf (s.src b i)).2 = 0 then s.src e i else bfiBits (s.src a i) (s.src b i) (s.src e i))) s

/-! ## Moves and predicates (R115, R116) -/

def execMov (g : Guard) (wide : Bool) (d : Dst) (a : Src) (s : State) : Host.Outcome State Fault Refusal :=
  issue { g := g, uses := if wide then [d2 d, u2 a] else [d1 d, u1 a] }
    (fun c s => .done (if wide then s.setPair d c.ex fun i => s.srcPair a i else s.setDst d c.ex fun i => s.src a i)) s

def plopMask (op : PlopOp) (a b : Mask) : Mask :=
  match op with
  | .and => a &&& b
  | .or => a ||| b
  | .xor => a ^^^ b
  | .andn => a &&& ~~~b
  | .orn => a ||| ~~~b
  | .not => ~~~a

def execPlop (g : Guard) (op : PlopOp) (d a b : Fin 8) (s : State) : Host.Outcome State Fault Refusal :=
  issue { g := g, uses := [.pout d, .pin a, .pin b] }
    (fun c s => .done (s.modHere fun st => st.setPred d c.ex (plopMask op (st.pred a) (st.pred b)))) s

def execPmov (g : Guard) (form : PmovForm) (s : State) : Host.Outcome State Fault Refusal :=
  match form with
  | .mask d p =>
    issue { g := g, uses := [d1 d, .pin p] } (fun c s => .done (s.setDst d c.ex fun _ => s.here.pred p)) s
  | .set p a =>
    issue { g := g, uses := [.pout p, u1 a] } (fun c s => .done (s.setPred p c.ex fun i => (s.src a i).getLsbD i)) s
  | .nz p a =>
    issue { g := g, uses := [.pout p, u1 a] } (fun c s => .done (s.setPred p c.ex fun i => s.src a i != 0)) s

/-! ## Special registers (R36, R117) -/

/-- CLK of a die (R38). -/
def State.clk (s : State) (d : Nat) : DWord := (s.die d).clk + BitVec.ofNat 64 s.time

/-- A special register as a lane of the issuing stream reads it; in handler mode AMASK and LPC are the interrupted
state's (R346). -/
def State.sreg (s : State) (r : SReg) (i : Nat) : DWord :=
  let st := s.here
  let t := s.myTeam
  let n := fun (x : Nat) => BitVec.ofNat 64 x
  match r with
  | .lane => n i
  | .grp => n s.cur.grp
  | .teamx => n t.tx
  | .teamy => n t.ty
  | .teamz => n t.tz
  | .role => n s.myGroup.role
  | .core => n t.core
  | .bench => n (t.core / 16)
  | .dieid => n t.die
  | .pkgid => n s.pkg.id
  | .clk => s.clk t.die
  | .partw => st.partw.setWidth 64
  | .fstat => st.fstat.setWidth 64
  | .amask => (if st.mode = .normal then st.amask else st.kept.amask).setWidth 64
  | .lpc => if st.mode = .normal then st.pc i else SMap.get 0 st.kept.lpc i
  | .tcause => st.tcause.setWidth 64
  | .tadr => st.tadr
  | .tlane => st.tlane.setWidth 64
  | .rgncnt => st.rgncnt.setWidth 64
  | .kvroot => s.myGroup.c.kvroot
  | .asid => s.myGroup.c.asid.setWidth 64
  | .gatedepth => n s.myGroup.depth

def sregWide : SReg → Bool
  | .clk => true
  | .lpc => true
  | .tadr => true
  | .kvroot => true
  | _ => false

/-- The results that pending long-latency instructions may still add to FSTAT, those of a CRED among them (R104): a read of it
waits for them. -/
def Stream.flagsPending (st : Stream) : Bool :=
  st.pend.any fun p => p.cred.isSome || p.writes.any fun w => match w with | .fstat _ => true | _ => false

/-- A trailing group takes MOVSR's result from its leader (R377). -/
def execMovsr (g : Guard) (d : Dst) (r : SReg) (s : State) : Host.Outcome State Fault Refusal :=
  issue { g := g, uses := [if sregWide r then d2 d else d1 d] }
    (fun c s =>
      if r = .fstat ∧ s.here.flagsPending then .hold
      else
        let put := fun (s : State) (f : Nat → DWord) =>
          if sregWide r then s.setPair d c.ex f else s.setDst d c.ex fun i => (f i).setWidth 32
        match s.myGroup.dmr with
        | .trailer p =>
          match (s.dmrPair s.cur.team s.cur.grp).bind fun q => nextWords q.nT q.feed with
          | none => .hold
          | some ws =>
            let f := fun i => match (ws.find? fun w => w.1 == i).map (·.2) with
              | some [lo, hi] => Sys2Proof.Machine.pairOf lo hi
              | _ => 0
            .done (put (s.modPair s.cur.team p fun q => { q with feed := dropWords q.nT q.feed }) f)
        | _ =>
          let s' := s.feedTrailer s.cur.team s.cur.grp fun n =>
            .words n ((maskLanes c.ex).map fun i => (i, [(s.sreg r i).setWidth 32, (s.sreg r i).extractLsb' 32 32]))
          .done (put s' fun i => s.sreg r i)) s

end Sys2Proof.Machine
end

