-- ==== Sys2Proof/Machine/Control.lean ====
section
/-!
DEFINITION. Branches and checked transfers (02 R41, R42; 07 R164, R165), EXIT and TDONE (R166, R185), rejoin registers
(R169), YIELD (R197), BRK, TRAP and RGN (R168, R350, R352), SETSR (R324).
-/

namespace Sys2Proof.Machine

/-! ## Checked transfers (R42) -/

/-- No change. -/
def keepState (s : State) : State := s

/-- The outcome of a target's check. -/
inductive Target where
  | ok (s : State)
  | wait (f : State → State)
  | trap (f : State → State) (r : TrapRec)

/-- The fetch line in memory at an address, as the front end reads it. -/
def State.lineBytes (s : State) (t : Trans) (die va : Nat) : FetchLine :=
  BitVec.ofNat 512 (leNat ((List.range 64).map fun i => s.readTr t die (va + i)))

/-- Checks a target: the TGT bit in the line already fetched, else in the line read through its translation, after its parity
and its reserved bits (R43, R67). A page of host memory holds no code (R287). -/
def State.checkTarget (s : State) (id : StreamId) (pc : DWord) (m : Mask) : Target :=
  match s.fetchedLine id (pcLine pc) with
  | some l => if l.tgt (pcSlot pc) then .ok s else .trap keepState ⟨2, 0, pc, m⟩
  | none =>
    let c := s.teamCore id.team
    let look := fun (s : State) => s.translate c .fetch (s.group id.team id.grp).c.asid (pcAddr pc) m id.grp 0 (2 * id.team + bit01 id.x) false
    let r := look s
    match r.1 with
    | .wait => .wait fun s => (look s).2
    | .fatal => .trap (fun s => (look s).2) ⟨8, 0, BitVec.ofNat 64 (pcAddr pc), m⟩
    | .ok t =>
      let l := r.2.lineBytes t c.die (pcAddr pc)
      if t.host then .trap keepState ⟨8, 0, BitVec.ofNat 64 (pcAddr pc), m⟩
      else if !l.parityOk then .trap keepState ⟨14, 0, BitVec.ofNat 64 (pcAddr pc), m⟩
      else if !l.reservedOk then .trap keepState ⟨2, 0, BitVec.ofNat 64 (pcAddr pc), m⟩
      else if l.tgt (pcSlot pc) then .ok r.2 else .trap keepState ⟨2, 0, pc, m⟩

/-- Checks every distinct target in ascending order of the last lane that goes to it, then moves the lanes. The spec leaves open which
of several failing targets TADR names, and whether TLANE names the lanes that go to it or all that execute: the first that fails, and
all that execute (DEDUCED, log 48; R42, R164). -/
def State.checkTargets (s : State) (c : Ctx) (m : Mask) (f : Nat → DWord) (go : State → Act) : List Nat → Act
  | [] => go s
  | i :: l =>
    if l.any fun j => f j == f i then s.checkTargets c m f go l
    else match s.checkTarget c.id (f i) m with
      | .ok s => s.checkTargets c m f go l
      | .wait f => .wait f
      | .trap f r => .trapBy f r

/-- A branch: uniformity, then the layout of register targets, then their checks, then the move (R164, R165). -/
def branch (c : Ctx) (u : Bool) (s : State) (f : Nat → DWord) (link : State → State) : Act :=
  let ls := maskLanes c.ex
  let same := ls.all fun i => f i == f (low c.ex)
  if u && ((c.ex != c.iss && c.ex != 0) || !same) then c.uniformity
  else if c.ex = 0 then .done s
  else
    match ls.find? fun i => !pcValid (f i) with
    | some i => c.trapOf 2 0 (f i) (maskOf fun j => c.ex.getLsbD j && !pcValid (f j))
    | none =>
      s.checkTargets c c.ex f (fun s =>
        let s := link s
        .jump ((s.advance c.id (c.iss &&& ~~~c.ex)).modStream c.id fun st => st.setPcs c.ex f)) ls

/-- NOP takes one issue slot and changes nothing else (R64). -/
def execNop (s : State) : Host.Outcome State Fault Refusal :=
  issue { g := ⟨false, 0⟩ } (fun _ s => .done s) s

def execBra (g : Guard) (u : Bool) (slot : Fin 5) (toff : BitVec 37) (s : State) : Host.Outcome State Fault Refusal :=
  issue { g := g, lanes := false } (fun c s => branch c u s (fun _ => branchPc c.pc slot toff) id) s

def execBrx (g : Guard) (u : Bool) (a : Src) (s : State) : Host.Outcome State Fault Refusal :=
  issue { g := g, uses := [u2 a], lanes := false } (fun c s => branch c u s (fun i => s.srcPair a i) id) s

def execCall (g : Guard) (u : Bool) (d : Dst) (slot : Fin 5) (toff : BitVec 37) (s : State) :
    Host.Outcome State Fault Refusal :=
  issue { g := g, uses := [d2 d], lanes := false }
    (fun c s => branch c u s (fun _ => branchPc c.pc slot toff) fun s => s.setPair d c.ex fun _ => nextPc c.pc) s

def execRet (g : Guard) (u : Bool) (a : Src) (s : State) : Host.Outcome State Fault Refusal :=
  issue { g := g, uses := [u2 a], lanes := false } (fun c s => branch c u s (fun i => s.srcPair a i) id) s

/-! ## Leaving (R166, R185) -/

def execExit (g : Guard) (s : State) : Host.Outcome State Fault Refusal :=
  issue { g := g, noHandler := true, noCallee := true }
    (fun c s => endFirst c s (s.here.amask &&& ~~~c.ex) <| .done ((s.dropLanes c.id c.ex).endStream c.id)) s

/-- A task's status is the first nonzero one that its lane records (R185). -/
def execTdone (g : Guard) (a : Src) (s : State) : Host.Outcome State Fault Refusal :=
  issue { g := g, uses := [u1 a], noHandler := true, noCallee := true, wave := true }
    (fun c s =>
      endFirst c s (s.here.amask &&& ~~~c.ex) <|
        let s := s.modMyTeam fun t => { t with taskStatus := (maskLanes c.ex).foldl (fun m i =>
          if SMap.get 0 m i = 0 then SMap.set 0 m i (s.src a i) else m) t.taskStatus }
        .done ((s.dropLanes c.id c.ex).endStream c.id)) s

/-! ## Rejoin registers (R169) -/

def execEnrol (g : Guard) (r : Fin 4) (s : State) : Host.Outcome State Fault Refusal :=
  issue { g := g, uses := [.rejoin r], level := 1, noHandler := true, noDmr := false }
    (fun c s => .done (s.modMyGroup fun x =>
      { x with c.rjEnr := SMap.set 0 x.c.rjEnr r.val (x.enrolled r.val ||| c.ex) }.checkRejoin r.val)) s

/-- Enrolled lanes are held here until every enrolled lane has arrived; the others pass. -/
def execPark (g : Guard) (r : Fin 4) (s : State) : Host.Outcome State Fault Refusal :=
  issue { g := g, uses := [.rejoin r], level := 1, noHandler := true }
    (fun c s =>
      let held := c.ex &&& s.myGroup.enrolled r.val
      let s := s.advance c.id (c.iss &&& ~~~held)
      let s := s.modHere fun st => st.setHolds held (some (.park r.val))
      .jump (s.modMyGroup fun x =>
        { x with c.rjArr := SMap.set 0 x.c.rjArr r.val (x.arrived r.val ||| held) }.checkRejoin r.val)) s

def execStrike (g : Guard) (r : Fin 4) (s : State) : Host.Outcome State Fault Refusal :=
  issue { g := g, uses := [.rejoin r], level := 1, noHandler := true }
    (fun c s => .done (s.modMyGroup fun x => x.strike r.val c.ex)) s

/-! ## YIELD (R197) -/

/-- The turn of the issuing stream ends: its quota is refilled and PTR passes it. -/
def State.endTurn (s : State) : State :=
  let k := s.cur.grp % 4
  s.modCore s.myCore fun x =>
    let p := SMap.get ⟨[], 0⟩ x.parts k
    match p.rot.findIdx? fun r => r.id == s.cur.id with
    | none => x
    | some n =>
      let rot := p.rot.modify n fun r => { r with quota := s.weight s.cur.id }
      { x with parts := SMap.set ⟨[], 0⟩ x.parts k ⟨rot, (n + 1) % p.rot.length⟩ }

def execYield (g : Guard) (s : State) : Host.Outcome State Fault Refusal :=
  issue { g := g } (fun _ s => .done s.endTurn) s

/-! ## Traps that instructions ask for (R168, R350) and regions (R352) -/

def execBrk (g : Guard) (num : BitVec 8) (s : State) : Host.Outcome State Fault Refusal :=
  issue { g := g }
    (fun c s => .trapIn (s.advance c.id c.ex)
      ⟨12, 255, (num.setWidth 64 <<< 56) ||| (c.pc &&& 0x00FFFFFFFFFFFFFF), c.ex⟩) s

def execTrap (g : Guard) (num : BitVec 8) (s : State) : Host.Outcome State Fault Refusal :=
  issue { g := g } (fun c s => .trapIn (s.advance c.id c.ex) ⟨15, num.toNat, c.pc, c.ex⟩) s

/-- The identifier of a region has no effect of its own. -/
def execRgn (g : Guard) (_region : BitVec 16) (s : State) : Host.Outcome State Fault Refusal :=
  issue { g := g, noHandler := true, lanes := false }
    (fun c s =>
      if c.iss ≠ s.here.amask then c.uniformity
      else if c.ex = 0 then .done s
      else .done (s.modHere fun st => { st with rgncnt := st.rgncnt + 1, rgnEntry := nextPc c.pc })) s

/-! ## SETSR (R324) -/

/-- A value with a nonzero reserved bit (R36, R103, R343). -/
def sregReserved (r : SReg) (x : DWord) : Bool :=
  match r with
  | .fstat => x.extractLsb' 5 27 != 0
  | .tcause => x.extractLsb' 17 15 != 0
  | .asid => x.extractLsb' 16 16 != 0
  | .kvroot => x.extractLsb' 0 6 != 0 || x.extractLsb' 52 12 != 0
  | _ => false

/-- Any line register of the group is bound. -/
def Group.linesOpen (g : Group) : Bool := g.c.lines.any fun p => p.2.st != .empty

/-- Writes a special register of a stream or group; in handler mode the trap registers keep the value until ERET
(R343). -/
def State.setSreg (s : State) (r : SReg) (x : DWord) : State :=
  let w : Word := x.setWidth 32
  let inH := decide (s.here.mode ≠ .normal)
  let defer := fun (k : Nat) => s.modHere fun st =>
    { st with kept := { st.kept with later := SMap.set none st.kept.later k (some x) } }
  match r with
  | .fstat => s.modHere fun st => { st with fstat := w }
  | .tcause => if inH then defer 0x15 else s.modHere fun st => { st with tcause := w }
  | .tadr => if inH then defer 0x16 else s.modHere fun st => { st with tadr := x }
  | .tlane => if inH then defer 0x17 else s.modHere fun st => { st with tlane := w }
  | .rgncnt => s.modHere fun st => { st with rgncnt := w }
  | .kvroot => s.modMyGroup fun g => { g with c.kvroot := x }
  | .asid => s.modMyGroup fun g => { g with c.asid := x.setWidth 16 }
  | _ => s

def sregLevel : SReg → Nat
  | .fstat => 0
  | .asid => 2
  | .kvroot => 2
  | _ => 1

def execSetsr (g : Guard) (r : SReg) (a : Src) (s : State) : Host.Outcome State Fault Refusal :=
  issue { g := g, uses := [if sregWide r then u2 a else u1 a], level := sregLevel r,
          noCallee := r == .asid || r == .kvroot }
    (fun c s =>
      let x := if sregWide r then s.srcPair a (low c.ex) else (s.src a (low c.ex)).setWidth 64
      if r = .fstat ∧ s.here.flagsPending then .hold
      else if sregReserved r x then c.illegal
      else if r = .asid ∧ s.myGroup.linesOpen then c.illegal
      else .done (s.setSreg r x)) s

/-- AMASK: in handler mode the interrupted mask, at ERET; outside it, lanes leave at once as by EXIT (R324, R354). -/
def execSetsrAmask (g : Guard) (a : Src) (s : State) : Host.Outcome State Fault Refusal :=
  issue { g := g, uses := [u1 a], level := 1 }
    (fun c s =>
      let x := s.src a (low c.ex)
      if s.here.mode ≠ .normal then
        .done (s.modHere fun st => { st with kept := { st.kept with amask := x &&& st.kept.m0 } })
      else endFirst c s (s.here.amask &&& x) <| .done ((s.dropLanes c.id (s.here.amask &&& ~~~x)).endStream c.id)) s

/-- LPC: in handler mode the interrupted lanes' program counters; outside it each executing lane moves, a checked
transfer but for a lane that names the next slot, and a lane that moves is struck (R324). -/
def execSetsrLpc (g : Guard) (a : Src) (s : State) : Host.Outcome State Fault Refusal :=
  issue { g := g, uses := [u2 a], level := 1 }
    (fun c s =>
      let f := fun i => s.srcPair a i
      if !(maskLanes c.ex).all fun i => pcValid (f i) then c.illegal
      else if s.here.mode ≠ .normal then
        .done (s.modHere fun st => { st with kept := { st.kept with
          lpc := (maskLanes c.ex).foldl (fun m i => SMap.set 0 m i (f i)) st.kept.lpc } })
      else
        let mv := maskOf fun i => c.ex.getLsbD i && f i != nextPc c.pc
        s.checkTargets c mv f (fun s =>
          let s := s.advance c.id (c.iss &&& ~~~mv)
          let s := s.modStream c.id fun st => st.setPcs mv f
          .jump (s.modGroup c.id.team c.id.grp fun g => (g.strikeAll c.id.x mv).unsign c.id.x mv)) (maskLanes mv)) s

end Sys2Proof.Machine
end

