-- ==== Sys2Proof/Machine/Stage.lean ====
section
/-!
DEFINITION. Stage barrier objects (R244, R245) and the occupancy of rings that they count (R178).
-/

namespace Sys2Proof.Machine

/-- The fields of an object (R244); rsvd holds the reserved bits in their places. -/
structure StageObj where
  txexp : Nat
  txarr : Nat
  narr : Nat
  arrv : Nat
  phase : Nat
  err : Bool
  pois : Bool
  ecode : Nat
  init : Bool
  rsvd : Nat
  deriving DecidableEq, Repr

def StageObj.ofNat (x : Nat) : StageObj :=
  { txexp := field x 0 32, txarr := field x 32 32, narr := field x 64 6, arrv := field x 72 6, phase := field x 80 16,
    err := field x 96 1 == 1, pois := field x 97 1 == 1, ecode := field x 98 6, init := field x 104 1 == 1,
    rsvd := 2 ^ 70 * field x 70 2 + 2 ^ 78 * field x 78 2 + 2 ^ 105 * field x 105 23 }

def StageObj.toNat (o : StageObj) : Nat :=
  o.txexp + 2 ^ 32 * o.txarr + 2 ^ 64 * o.narr + 2 ^ 72 * o.arrv + 2 ^ 80 * o.phase + 2 ^ 96 * bit01 o.err +
    2 ^ 97 * bit01 o.pois + 2 ^ 98 * o.ecode + 2 ^ 104 * bit01 o.init + o.rsvd

/-- ERR with the first ECODE. -/
def StageObj.fail (o : StageObj) (code : Nat) : StageObj := { o with err := true, ecode := if o.ecode = 0 then code else o.ecode }

/-- The completion rule (R245): the object after it, and whether a phase has completed. -/
def StageObj.settle (o : StageObj) : StageObj × Bool :=
  if o.arrv = o.narr ∧ (0 < o.narr ∨ 0 < o.txexp) ∧ o.txexp ≤ o.txarr then
    let o := if o.txexp < o.txarr then o.fail 1 else o
    ({ o with phase := (o.phase + 1) % 65536, arrv := 0, txarr := 0, txexp := 0 }, true)
  else (o, false)

/-- SBEXP adds n bytes; SBARV adds n bytes and an arrival. -/
def StageObj.expect (o : StageObj) (n : Nat) (arrive : Bool) : StageObj × Bool :=
  if 2 ^ 32 ≤ o.txexp + n then (o.fail 3, false)
  else if arrive ∧ o.narr < o.arrv + 1 then (o.fail 4, false)
  else { o with txexp := o.txexp + n, arrv := if arrive then o.arrv + 1 else o.arrv }.settle

/-- A count of landed bytes. TXARR wraps modulo 2^32, for which R245 gives no test (DESIGN CHOICE, log 49). -/
def StageObj.count (o : StageObj) (n : Nat) (pois : Bool) : StageObj × Bool :=
  { o with txarr := (o.txarr + n) % 2 ^ 32, pois := o.pois || pois }.settle

/-- The object at an offset of a team's scratchpad. -/
def State.stage (s : State) (t off : Nat) : StageObj := .ofNat (s.spadNat t off 16)

/-- A phase of the barriers of a ring completes: its occupancy follows, between 0 and the number of slots (R178). -/
def ringStep (off : Nat) (r : Ring) (occ : Nat) : Nat :=
  let n := r.depth + 1
  if !r.valid || decide (off < r.off) || (off - r.off) % 16 != 0 then occ
  else if (off - r.off) / 16 < n then min (occ + 1) n
  else if (off - r.off) / 16 < 2 * n then occ - 1
  else occ

/-- The occupancies after a completed phase of the object at an offset. -/
def ringsAfter (rings : List Ring) (off : Nat) (m : SMap Nat) : SMap Nat :=
  rings.zipIdx.foldl (fun m p => SMap.mod 0 m p.2 (ringStep off p.1)) m

/-- Counts a completed phase into the rings of a team's launch. -/
def State.ringPhase (s : State) (t off : Nat) : State :=
  match s.launchOf t with
  | none => s
  | some l => s.modTeam t fun x => { x with st := { x.st with rings := ringsAfter l.rings off x.st.rings } }

/-- Writes an object back; a completed phase is counted. -/
def State.putStage (s : State) (t grp date off : Nat) (o : StageObj × Bool) : State :=
  let s := s.spadWrite t t grp date off (leBytes 16 o.1.toNat) []
  if o.2 then s.ringPhase t off else s

/-- An instruction writes an object back once the journal has room for the line (R366). -/
def stagePut (c : Ctx) (s : State) (off : Nat) (o : StageObj × Bool) : Act :=
  if !s.journalRoom s.myCore c.id.team (scratchKey c.id.team (off / 128)) then .hold
  else .done ((s.putStage c.id.team c.id.grp s.time off o).journalCheck s.myCore)

/-! ## The instructions (R245) -/

/-- The object at the offset of the lowest executing lane, after the checks of R223. -/
def stageAt (c : Ctx) (s : State) (l : LOp) (go : Nat → State → Act) : Act :=
  let one : Ctx := { c with ex := BitVec.twoPow 32 (low c.ex) }
  match s.checkLine one l.ln 16 (s.lineOff l) (fun l => l.mode == 3) false with
  | .stop a => a
  | .ok _ lr => go (128 * lr.line + s.lineOff l (low c.ex)) s

/-- An object that is not initialised, or has a reserved bit set, raises the barrier-error trap. -/
def stageLive (c : Ctx) (s : State) (off : Nat) (go : StageObj → Act) : Act :=
  let o := s.stage c.id.team off
  if !o.init || o.rsvd != 0 then c.trapOf 13 0 c.pc c.ex else go o

def execSbinit (g : Guard) (l : LOp) (b : Src) (s : State) : Host.Outcome State Fault Refusal :=
  issue { g := g, uses := [u1 l.b, u1 b, .line l.ln], noCalleeSp := true, path := some .ls }
    (fun c s => stageAt c s l fun off s =>
      let n := (s.src b (low c.ex)).toNat
      if 32 < n then c.illegal
      else stagePut c s off ({ StageObj.ofNat 0 with narr := n, init := true }, false)) s

def execSbexp (g : Guard) (l : LOp) (b : Src) (s : State) : Host.Outcome State Fault Refusal :=
  issue { g := g, uses := [u1 l.b, u1 b, .line l.ln], noCalleeSp := true, path := some .ls }
    (fun c s => stageAt c s l fun off s => stageLive c s off fun o =>
      stagePut c s off (o.expect (s.src b (low c.ex)).toNat false)) s

def execSbarv (g : Guard) (l : LOp) (b : Src) (s : State) : Host.Outcome State Fault Refusal :=
  issue { g := g, uses := [u1 l.b, u1 b, .line l.ln], noCalleeSp := true, path := some .ls }
    (fun c s => stageAt c s l fun off s => stageLive c s off fun o =>
      stagePut c s off (o.expect (s.src b (low c.ex)).toNat true)) s

/-- SBWAIT holds until the phase has changed, and traps once ERR is set. -/
def execSbwait (g : Guard) (d : Dst) (l : LOp) (b : Src) (s : State) : Host.Outcome State Fault Refusal :=
  issue { g := g, uses := [d1 d, u1 l.b, u1 b, .line l.ln], noCalleeSp := true, path := some .ls }
    (fun c s => stageAt c s l fun off s => stageLive c s off fun o =>
      if o.err then c.trapOf 13 0 c.pc c.ex
      else if o.phase = (s.src b (low c.ex)).toNat % 65536 then .hold
      else .done (s.setDst d c.ex fun _ => BitVec.ofNat 32 (o.toNat / 2 ^ 96))) s

end Sys2Proof.Machine
end

