-- ==== Sys2Proof/Machine/Units.lean ====
section
/-!
DEFINITION. Engine commands at work (11 R248-R254): pending counts, counting, completion and failure, and the units of
every kind of command (R256, R261-R267).
-/

namespace Sys2Proof.Machine

/-! ## Commands of a core -/

def State.cmd (s : State) (c : CoreId) (id : Nat) : Option Cmd := (s.core c).cmds.find? fun k => k.id == id
def State.modCmd (s : State) (c : CoreId) (id : Nat) (f : Cmd → Cmd) : State :=
  s.modCore c fun k => { k with cmds := k.cmds.map fun x => if x.id = id then f x else x }
def State.dropCmd (s : State) (c : CoreId) (id : Nat) : State :=
  s.modCore c fun k => { k with cmds := k.cmds.filter fun x => x.id != id }

/-- The copy tag of a CPY. -/
def Cmd.tag (k : Cmd) : Option Nat :=
  match k.kind with
  | .cpyGs n _ => some n
  | .cpySg n _ => some n
  | _ => none

/-- Reads and writes a tag state, at the call depth of its command. -/
def State.tagAt (s : State) (t g d n : Nat) : TagState := SMap.get .zero ((s.group t g).ctxAt d).tags n
def State.setTagAt (s : State) (t g d n : Nat) (x : TagState) : State :=
  s.modGroup t g fun y => y.setCtxAt d { y.ctxAt d with tags := SMap.set .zero (y.ctxAt d).tags n x }

/-- A unit of the command waits on a missing translation (R253). -/
def Cmd.suspended (k : Cmd) : Bool := k.stopped.any (·.2)

/-- A unit waits for its translation. -/
def Cmd.stop (k : Cmd) (u : Nat) (susp : Bool) : Cmd := { k with stopped := (u, susp) :: k.stopped.filter (·.1 != u) }

/-- A unit of the command may not go on while another of them waits: a command has one suspension at a time, and the lane
transfers of a copy are separate (R253, R292). -/
def Cmd.barred (k : Cmd) (u : Nat) : Bool := k.tag.isNone && k.stopped.any (·.1 != u)

/-- A command under the tag is suspended (R257). -/
def State.tagSusp (s : State) (t g d n : Nat) : Bool :=
  (s.core (s.teamCore t)).cmds.any fun k => k.team == t && k.grp == g && k.depth == d && k.tag == some n && k.suspended

/-- The words of a command's source tensor row: packed bytes, bytes as landed, scale bytes (R263). -/
def Tensor.rowBytes (e : Tensor) : Nat := ceilDiv (e.cols * e.width) 8
def round16 (n : Nat) : Nat := ceilDiv n 16 * 16
def Tensor.scaleBytes (e : Tensor) : Nat := if e.blk = 0 then 0 else ceilDiv e.cols (blockLen e.blk)

/-- The bytes of a pooled row (R265). -/
def pooledBytes (e : Tensor) : Nat := round16 (4 * e.cols)

/-- The number of units of a command, and the bytes each counts. -/
def tileUnit (d : Tensor) (nr nc : Nat) : Nat × Nat :=
  let n := if d.layout = 1 then nr else nc
  (if d.layout = 1 then nc else nr, ceilDiv (n * d.width) 8 + (if d.blk = 0 then 0 else ceilDiv n (blockLen d.blk)))

/-! ## Pending counts (R250, R251) -/

/-- The scratchpad lines of spans. -/
def spanLines (l : List (Nat × Nat)) : List Nat :=
  l.flatMap fun p => if p.2 = 0 then [] else (List.range ((p.1 + p.2 - 1) / 128 - p.1 / 128 + 1)).map fun k => p.1 / 128 + k

/-- How often each line stands in an ascending list. -/
def runs : List Nat → List (Nat × Nat)
  | [] => []
  | x :: l =>
    match runs l with
    | (y, n) :: m => if x = y then (y, n + 1) :: m else (x, 1) :: (y, n) :: m
    | [] => [(x, 1)]

/-- The pending counts of units, each given by its spans: one for each unit and line. -/
def creditOf (units : List (List (Nat × Nat))) : List (Nat × Nat) :=
  runs (units.flatMap fun u => dedupSorted (spanLines u).mergeSort).mergeSort

/-- Raises the pending counts of a command. -/
def State.raisePending (s : State) (t : Nat) (credit : List (Nat × Nat)) : State :=
  credit.foldl (fun s p => s.addPend t p.1 p.2) s

/-- Credits lines of a command as landed. -/
def State.creditLines (s : State) (c : CoreId) (k : Cmd) (ls : List Nat) : State :=
  let hits := ls.filter fun l => k.credit.any fun p => p.1 == l && decide (0 < p.2)
  let s := hits.foldl (fun s l => s.subPend k.team l 1) s
  let less := fun (p : Nat × Nat) =>
    if !hits.contains p.1 then some p else if p.2 ≤ 1 then none else some (p.1, p.2 - 1)
  s.modCmd c k.id fun x => { x with credit := x.credit.filterMap less }

/-- Credits everything that a command still had to write. -/
def State.creditAll (s : State) (k : Cmd) : State := k.credit.foldl (fun s p => s.subPend k.team p.1 p.2) s

/-! ## Counting (R251, R253, R257) -/

/-- A count or an error into the tag or the stage barrier of a command. -/
def State.applyCount (s : State) (t grp : Nat) (x : Count) : State :=
  match x.tag with
  | some (g, d, n) =>
    let y := s.tagAt t g d n
    s.setTagAt t g d n { y with landed := y.landed + BitVec.ofNat 32 x.bytes, pois := y.pois || x.pois,
                                err := y.err || x.fault.isSome, faddr := if y.err then y.faddr else x.fault.getD y.faddr }
  | none =>
    let o := s.stage t x.off
    if x.ecode ≠ 0 then s.putStage t grp s.time x.off ({ o.fail x.ecode with pois := o.pois || x.pois }, false)
    else s.putStage t grp s.time x.off (o.count x.bytes x.pois)

/-- Counts a unit of a command, and remembers the count until a checkpoint after it is safe. -/
def State.countUnit (s : State) (k : Cmd) (bytes : Nat) (pois : Bool) (ecode : Nat) (fault : Option DWord) : State :=
  let x : Count := ⟨s.time, k.date, k.tag.map fun n => (k.grp, k.depth, n), k.sb.getD 0, bytes, pois, ecode, fault⟩
  (s.applyCount k.team k.grp x).modTeam k.team fun t => { t with counts := t.counts ++ [x] }

/-! ## Tickets (R249, R268) -/

/-- The longest prefix of units that have landed. -/
def prefixLen (landed : List Nat) : Nat → Nat → Nat
  | 0, n => n
  | fuel + 1, n => if landed.contains n then prefixLen landed fuel (n + 1) else n

/-- The status of a command's ticket. -/
def Cmd.status (k : Cmd) : Ticket :=
  ⟨if k.suspended then 2 else k.state, k.ecode, k.pois, prefixLen k.landed k.landed.length 0 * k.bytes, k.units * k.bytes, k.sb.getD 0⟩

/-- A ticket is among the latest 1,024 of its team. -/
def State.latest (s : State) (t n : Nat) : Bool :=
  let age := ((s.team t).st.tickets - BitVec.ofNat 32 n).toNat
  decide (1 ≤ age) && decide (age ≤ 1024)

/-- Keeps the status of a command's ticket. -/
def State.noteTicket (s : State) (k : Cmd) : State :=
  if k.tag.isSome || !s.latest k.team k.ticket then s
  else s.modTeam k.team fun t => { t with statuses := SMap.set .unknown t.statuses k.ticket k.status }

/-- Takes the next ticket of a team; the status of the one 1,024 before it is dropped. -/
def State.takeTicket (s : State) (t : Nat) : Nat × State :=
  let n := (s.team t).st.tickets
  let s := s.modTeam t fun x =>
    let old := SMap.set .unknown x.statuses (n - 1024).toNat .unknown
    { x with st := { x.st with tickets := n + 1 }, statuses := old }
  (n.toNat, s)

/-! ## Completion and failure (R253) -/

/-- A command fails: nothing more of it lands, its lines are credited, and its stage barrier records the error. -/
def State.failCmd (s : State) (c : CoreId) (k : Cmd) (code : Nat) : State :=
  let mine := fun (e : LehrEntry) => match e.work with | .engine n _ _ _ => n == k.id | _ => false
  let s := s.modCore c fun x => { x with lehr := x.lehr.filter fun e => !mine e }
  let s := (s.creditAll k).countUnit k 0 false code none
  let k := { k with state := 4, ecode := code, stopped := [] }
  (s.noteTicket k).dropCmd c k.id

/-- Takes a command whose every unit has landed or failed off its core. -/
def State.checkDone (s : State) (c : CoreId) (id : Nat) : State :=
  match s.cmd c id with
  | none => s
  | some k =>
    if k.landed.length + k.failed.length < k.units then s.noteTicket k
    else (s.noteTicket { k with state := 3, stopped := [] }).dropCmd c id

/-- A lane transfer fails alone (R253, R257). -/
def State.failLane (s : State) (c : CoreId) (k : Cmd) (lane adr : Nat) (lines : List Nat) : State :=
  let s := s.creditLines c k lines
  let s := s.modCmd c k.id fun x => { x with failed := lane :: x.failed, stopped := x.stopped.filter (·.1 != lane) }
  (s.countUnit k k.bytes false 0 (some (BitVec.ofNat 64 adr))).checkDone c k.id

/-- Lands bytes in scratchpad, by offset (R251). -/
def State.padLand (s : State) (t grp date : Nat) (bs : Bytes) (pois : List Nat) : State :=
  ((bs.map fun p => p.1 / 128).eraseDups).foldl (fun s l =>
    let mine : Bytes := (bs.filter fun p => p.1 / 128 == l).map fun p => (p.1 % 128, p.2)
    let bad := (pois.filter fun a => a / 128 == l).map fun a => a % 128 / 16
    s.storeLine (s.teamCore t) (scratchKey t l)
      { LWrite.mk' t grp date false mine with left := mine.map (·.1), pois := bad }) s

/-- Puts an entry into one bank of an activation table. -/
def TeamCore.putBank (st : TeamCore) (one : Bool) (i : Nat) (x : BitVec 128) (pois : Bool) : TeamCore :=
  let st := if one then { st with bank1 := SMap.set 0 st.bank1 i x } else { st with bank0 := SMap.set 0 st.bank0 i x }
  { st with bankPois := SMap.set false st.bankPois (256 * bit01 one + i) pois }

/-- Writes an entry of the bank that is not current (R261, R125), in every checkpoint too that the command's issue precedes: a rollback
to it leaves the unit landed (R370). -/
def State.bankLand (s : State) (t date i : Nat) (bs : Bytes) (pois : Bool) : State :=
  let x : BitVec 128 := BitVec.ofNat 128 (leNat (bs.map (·.2)))
  s.modTeam t fun y =>
    let put := fun (st : TeamCore) => st.putBank (!y.st.bankCur) i x pois
    let keep := fun (k : Ckpt) => if date ≤ k.date then { k with st := put k.st } else k
    { y with st := put y.st, safe := keep y.safe, pending := y.pending.map keep }

/-- A unit has been written: its scratchpad part lands now, its lines are credited, and it is counted. -/
def State.landUnit (s : State) (c : CoreId) (k : Cmd) (unit : Nat) (o : UnitOut) : State :=
  let s := match k.kind with
    | .table _ _ _ => s.bankLand k.team k.date unit o.glob o.pois
    | _ => s.padLand k.team k.grp k.date o.pad o.padPois
  let s := s.creditLines c k ((o.pad.map fun p => p.1 / 128).eraseDups)
  let s := s.modCmd c k.id fun x => { x with landed := unit :: x.landed, sent := x.sent.filter (· != unit),
                                             stopped := x.stopped.filter (·.1 != unit), pois := x.pois || o.pois }
  ((s.countUnit k k.bytes o.pois 0 none).checkDone c k.id).journalCheck c

/-! ## Reading (R252, R253) -/

/-- What the service of a unit comes to. -/
inductive Serve where
  | wait (s : State) (susp : Bool)
  | fail (code adr : Nat) (s : State)
  | out (o : UnitOut) (s : State)

/-- What tells the walks of a command's units apart: the command and the lane in service. -/
def Cmd.who (k : Cmd) : Nat := 64 * (k.id + 1) + k.lane

/-- The walk that a unit waits for has found its translation missing. -/
def State.walkMissed (s : State) (c : CoreId) (k : Cmd) : Bool :=
  (s.core c).walks.any fun w => w.phase == .faulted && w.who == k.who && (w.need == .engRead || w.need == .engWrite || w.need == .kvFill)

/-- Bytes of global memory for an engine: each byte and whether its granule is poisoned. -/
def engGlobal (c : CoreId) (k : Cmd) (host : Bool) (va n : Nat) (s : State) (go : (Nat → Byte) → (Nat → Bool) → State → Serve) :
    Serve :=
  if n = 0 then go (fun _ => 0) (fun _ => false) s
  else if decide (2 ^ 56 < va + n) || inWindow va || inWindow (va + n - 1) then .fail 2 va s
  else
    match s.translateSpan c .engRead k.asid va n 0 k.grp (BitVec.ofNat 32 k.ticket) k.who with
    | (.wait, s) => .wait s (s.walkMissed c k)
    | (.fatal, s) => .fail 2 va s
    | (.ok _, s) =>
      if !host && (List.range n).any (fun i => ((s.tlbFind c k.asid (va + i)).map (·.host)).getD false) then .fail 2 va s
      else go (fun i => s.readVa c k.asid (va + i)) (fun i => s.vaPoison c k.asid (va + i) 1) s

/-- Bytes of the team's scratchpad for an engine. -/
def engPad (k : Cmd) (off n : Nat) (s : State) (go : (Nat → Byte) → (Nat → Bool) → State → Serve) : Serve :=
  if (s.team k.team).spadSize < off + n then .fail 5 off s
  else go (fun i => s.spad k.team (off + i)) (fun i => s.spadPoison k.team (off + i)) s

/-- Bytes of a space: 0 global, 1 scratchpad. -/
def engRead (c : CoreId) (k : Cmd) (host : Bool) (space a n : Nat) (s : State)
    (go : (Nat → Byte) → (Nat → Bool) → State → Serve) : Serve :=
  if space = 1 then engPad k a n s go else engGlobal c k host a n s go

/-- An engine's write to global memory needs its translations (R253). -/
def engWriteOk (c : CoreId) (k : Cmd) (host : Bool) (va n : Nat) (s : State) (go : State → Serve) : Serve :=
  if n = 0 then go s
  else if decide (2 ^ 56 < va + n) || inWindow va || inWindow (va + n - 1) then .fail 2 va s
  else
    match s.translateSpan c .engWrite k.asid va n 0 k.grp (BitVec.ofNat 32 k.ticket) k.who with
    | (.wait, s) => .wait s (s.walkMissed c k)
    | (.fatal, s) => .fail 2 va s
    | (.ok t, s) => if t.host && !host then .fail 2 va s else go s

/-- Reads a tensor entry during service (R101). -/
def engTensor (c : CoreId) (k : Cmd) (tid : Nat) (s : State) (go : Tensor → State → Serve) : Serve :=
  if k.ttbase = 0 then .fail 5 0 s
  else engGlobal c k false (tensorAddr k.ttbase tid) 64 s fun b _ s =>
    let e := Tensor.ofNat (leNat ((List.range 64).map b))
    if e.bad then .fail 5 (tensorAddr k.ttbase tid) s else go e s

/-- A byte's granules that a poisoned unit poisons. -/
def granuleAddrs (bs : Bytes) : List Nat := (bs.map fun p => p.1 / 16 * 16).eraseDups

/-- n bytes of a function at consecutive addresses. -/
def bytesAt (a n : Nat) (b : Nat → Byte) : Bytes := (List.range n).map fun i => (a + i, b i)

/-- A unit of scratchpad bytes. -/
def padUnit (bs : Bytes) (pois : Bool) : UnitOut := ⟨[], bs, [], if pois then granuleAddrs bs else [], pois, []⟩
def globUnit (bs : Bytes) (pois : Bool) : UnitOut := ⟨bs, [], if pois then granuleAddrs bs else [], [], pois, []⟩

def anyIn (n : Nat) (p : Nat → Bool) : Bool := (List.range n).any p

/-- The values of elements, with their scales, and whether each was computed from poison (R252, R262). -/
def engElems (c : CoreId) (k : Cmd) (e : Tensor) (s : State) (go : List (FVal × Bool) → State → Serve) :
    List (Nat × Nat) → Serve
  | [] => go [] s
  | p :: l =>
    let at_ := e.place p.1 p.2
    let n := (e.span p.1 p.2).2
    engRead c k false e.space at_.1 n s fun b po s =>
      let x := e.value (leNat ((List.range n).map b) / 2 ^ at_.2)
      let next := fun (v : FVal × Bool) (s : State) => engElems c k e s (fun r s => go (v :: r) s) l
      if e.blk = 0 then next (x, anyIn n po) s
      else engRead c k false e.sspace (e.scaleAt p.1 p.2) 1 s fun sb sp s =>
        next (x.timesScale (sb 0).toNat, anyIn n po || sp 0) s

/-! ## The units of each command -/

/-- CPY: one lane transfer of 32 bytes (R256). -/
def serveCpyGs (c : CoreId) (k : Cmd) (a : DWord) (d v : Nat) (s : State) : Serve :=
  engGlobal c k true a.toNat v s fun b po s =>
    .out (padUnit (bytesAt d 32 fun i => if i < v then b i else 0) (anyIn v po)) s

/-- The bytes of the unit were read at issue. -/
def serveCpySg (c : CoreId) (k : Cmd) (a : DWord) (bs : Bytes) (pois : List Nat) (s : State) : Serve :=
  engWriteOk c k true a.toNat bs.length s fun s =>
    .out (globUnit (bs.map fun p => (a.toNat + p.1, p.2)) (!pois.isEmpty)) s

/-- A 16-byte block of a linear request (R261). -/
def serveLinear (c : CoreId) (k : Cmd) (ssp dsp a b u : Nat) (s : State) : Serve :=
  engRead c k true ssp (a + 16 * u) 16 s fun f po s =>
    let bs := bytesAt (b + 16 * u) 16 f
    if dsp = 1 then .out (padUnit bs (anyIn 16 po)) s
    else engWriteOk c k true (b + 16 * u) 16 s fun s => .out (globUnit bs (anyIn 16 po)) s

/-- The conditions of a linear request. -/
def linearOk (size ssp dsp a b n : Nat) : Bool :=
  a % 16 == 0 && b % 16 == 0 && n % 16 == 0 && decide (16 ≤ n) && decide (n ≤ 2 ^ 24) &&
  (ssp != 1 || decide (a + n ≤ size)) && (dsp != 1 || decide (b + n ≤ size))

/-- An entry of the activation table (R261). -/
def serveTable (c : CoreId) (k : Cmd) (ssp a u : Nat) (s : State) : Serve :=
  engRead c k false ssp (a + 16 * u) 16 s fun f po s => .out ⟨bytesAt 0 16 f, [], [], [], anyIn 16 po, []⟩ s

/-! ### Tiles (R261, R262) -/

/-- The conditions of a tile request on its entries. -/
def tileOk (e d : Tensor) (sr0 sc0 dr0 dc0 nr nc : Nat) : Bool :=
  let x0 := if d.layout = 1 then dr0 else dc0
  let n := if d.layout = 1 then nr else nc
  let whole := if d.layout = 1 then d.rows else d.cols
  let l := blockLen d.blk
  decide (e.space ≤ 1) && decide (d.space ≤ 1) && decide (sr0 + nr ≤ e.rows) && decide (sc0 + nc ≤ e.cols) &&
  decide (dr0 + nr ≤ d.rows) && decide (dc0 + nc ≤ d.cols) && x0 * d.width % 8 == 0 && n * d.width % 8 == 0 &&
  (d.blk == 0 || (x0 % l == 0 && (n % l == 0 || x0 + n == whole)))

/-- The elements of unit u: in the source, and in the destination. -/
def tileElems (layout sr0 sc0 dr0 dc0 nr nc u : Nat) : List (Nat × Nat) × List (Nat × Nat) :=
  if layout = 1 then
    ((List.range nr).map fun r => (sr0 + r, sc0 + u), (List.range nr).map fun r => (dr0 + r, dc0 + u))
  else ((List.range nc).map fun x => (sr0 + u, sc0 + x), (List.range nc).map fun x => (dr0 + u, dc0 + x))

/-- Cuts a list into pieces of n; the last may be shorter. -/
def chunks {α : Type} (n : Nat) : Nat → List α → List (List α)
  | 0, _ => []
  | _, [] => []
  | fuel + 1, l => l.take n :: chunks n fuel (l.drop n)

/-- The code of a converted value in a destination without scales. -/
def tileCode (d : Tensor) (x : FVal) : Nat :=
  match d.etype with
  | 0 => ((NFmt.of d.nfd).round .rn 0 false x false).1
  | 4 => (roundTo f16 .rn false x).1
  | 5 => (roundTo bf16 .rn false x).1
  | 6 => (roundTo f32 .rn false x).1
  | 7 => (roundTo f64 .rn false x).1
  | _ => (BitVec.ofInt d.width (fpToInt .rn (-(2 ^ (d.width - 1) : Int)) (2 ^ (d.width - 1) - 1) x).1).toNat

/-- The codes of one block and its scale. -/
def tileBlock (d : Tensor) (xs : List FVal) : List Nat × Nat :=
  let f := NFmt.of d.nfd
  let k := ue8Choose xs f
  (xs.map fun x => (f.round .rn 0 true (x.scaled (127 - k)) false).1, k)

/-- The destination bits of a unit's codes as bytes by address: each code stands at its element's place. -/
def packCodes (d : Tensor) (l : List ((Nat × Nat) × Nat)) : Bytes :=
  let bits := l.map fun p => (d.place p.1.1 p.1.2, p.2)
  let adrs := dedupSorted ((bits.flatMap fun b =>
    (List.range (ceilDiv (b.1.2 + d.width) 8)).map fun i => b.1.1 + i).mergeSort)
  adrs.map fun a => (a, BitVec.ofNat 8 (bits.foldl (fun x b =>
    if decide (b.1.1 ≤ a) && decide (a < b.1.1 + ceilDiv (b.1.2 + d.width) 8) then
      x + b.2 * 2 ^ b.1.2 / 2 ^ (8 * (a - b.1.1)) % 256 else x) 0))

/-- Converts values into a unit's bytes: the elements, the scales, and the granules that poison reaches. -/
def tileBytes (d : Tensor) (ds : List (Nat × Nat)) (xs : List (FVal × Bool)) : Bytes × Bytes × List Nat × List Nat :=
  let held := fun (p : Nat × Nat) =>
    let q := d.span p.1 p.2
    [q.1 / 16 * 16, (q.1 + q.2 - 1) / 16 * 16]
  if d.blk = 0 then
    let bad := (ds.zip xs).filter fun p => p.2.2
    (packCodes d (ds.zip (xs.map fun x => tileCode d x.1)), [], (bad.flatMap fun p => held p.1).eraseDups, [])
  else
    let l := blockLen d.blk
    let bs := (chunks l ds.length (ds.zip xs)).map fun b => (b, tileBlock d (b.map fun p => p.2.1))
    let codes := bs.flatMap fun b => (b.1.map (·.1)).zip b.2.1
    let scs := bs.filterMap fun b => (b.1.head?).map fun p => (d.scaleAt p.1.1 p.1.2, BitVec.ofNat 8 b.2.2)
    let bad := bs.filter fun b => b.1.any fun p => p.2.2
    (packCodes d codes, scs, (bad.flatMap fun b => b.1.flatMap fun p => held p.1).eraseDups,
      (bad.filterMap fun b => (b.1.head?).map fun p => d.scaleAt p.1.1 p.1.2 / 16 * 16).eraseDups)

/-- The parts of a unit in the spaces they go to. -/
def tileOut (d : Tensor) (x : Bytes × Bytes × List Nat × List Nat) (pois : Bool) : UnitOut :=
  let eg := d.space = 0
  let sg := d.sspace = 0
  { glob := (if eg then x.1 else []) ++ (if sg then x.2.1 else []), pad := (if eg then [] else x.1) ++ (if sg then [] else x.2.1),
    globPois := (if eg then x.2.2.1 else []) ++ (if sg then x.2.2.2 else []),
    padPois := (if eg then [] else x.2.2.1) ++ (if sg then [] else x.2.2.2), pois := pois, via := [] }

/-- Every byte of a unit's global part may be written, and its scratchpad part lies below SPAD. -/
def outOk (c : CoreId) (k : Cmd) (o : UnitOut) (s : State) (go : State → Serve) : List Nat → Serve
  | [] =>
    match o.pad.find? fun p => decide ((s.team k.team).spadSize ≤ p.1) with
    | some p => .fail 5 p.1 s
    | none => go s
  | a :: l => engWriteOk c k false a 1 s fun s => outOk c k o s go l

/-- One row or column of a tile. -/
def serveTile (c : CoreId) (k : Cmd) (e d : Tensor) (v : Option Tensor) (sr0 sc0 dr0 dc0 nr nc u : Nat) (s : State) : Serve :=
  let el := tileElems d.layout sr0 sc0 dr0 dc0 nr nc u
  let finish := fun (xs : List (FVal × Bool)) (s : State) =>
    let o := tileOut d (tileBytes d el.2 xs) (xs.any (·.2))
    outOk c k o s (fun s => .out o s) (o.glob.map (·.1))
  engElems c k e s (fun xs s =>
    match v with
    | none => finish (xs.map fun x => (f32.value (roundTo f32 .rn false x.1).1, x.2)) s
    | some v =>
      engElems c k v s (fun ws s =>
        finish ((xs.zip ws).map fun p => (f32.value (roundWith f32 .rn false (exactMul p.1.1 p.2.1)).1, p.1.2 || p.2.2)) s)
        (el.1.map fun p => (0, p.1))) el.1

/-- The entries of a tile request, and its smoothing vector (R102). -/
def withTile (c : CoreId) (k : Cmd) (stid dtid : Nat) (s : State) (go : Tensor → Tensor → Option Tensor → State → Serve) :
    Serve :=
  engTensor c k stid s fun e s => engTensor c k dtid s fun d s =>
    if e.smode ≠ 2 then go e d none s
    else engTensor c k e.smid s fun v s =>
      if v.etype = 6 ∧ v.rows = 1 ∧ v.cols = e.rows ∧ v.space ≤ 1 then go e d (some v) s else .fail 5 0 s

/-! ### Rows (R263, R265-R267) -/

/-- A word of scratchpad. -/
def State.padWord (s : State) (t off : Nat) : Nat := s.spadNat t off 4

/-- One gathered row (R263); poison of its index word is poison of the row (R252). -/
def serveGather (c : CoreId) (k : Cmd) (x y n : Nat) (e : Tensor) (j : Nat) (s : State) : Serve :=
  let r := s.padWord k.team (x + 4 * j)
  let rb := e.rowBytes
  let ds := round16 rb
  let sb := e.scaleBytes
  let pi := s.spadPoison k.team (x + 4 * j)
  if e.rows ≤ r then .fail 7 r s
  else engRead c k false e.space (e.base + r * e.stride) rb s fun f po s =>
    let row := bytesAt (y + j * ds) ds fun i => if i < rb then f i else 0
    if sb = 0 then .out (padUnit row (pi || anyIn rb po)) s
    else engRead c k false e.sspace (e.scale + r * sb) sb s fun g pg s =>
      .out (padUnit (row ++ bytesAt (y + n * ds + j * sb) sb g) (pi || anyIn rb po || anyIn sb pg)) s

/-- The fields of an embedding descriptor (R264). -/
def embIdx (d : Nat) : Nat := field d 0 32
def embN (d : Nat) : Nat := field d 32 32
def embBag (d : Nat) : Nat := field d 64 32
def embNb (d : Nat) : Nat := field d 96 32
def embDst (d : Nat) : Nat := field d 128 32
def embSb (d : Nat) : Nat := field d 160 32
def embPool (d : Nat) : Nat := field d 192 2
def embOwners (d : Nat) : Nat := field d 224 10 + 1
def embFirst (d : Nat) : Nat := field d 234 10
def embNext (d : Nat) : Nat := field d 256 32
def embNextN (d : Nat) : Nat := field d 288 32
def embHot (d : Nat) : Nat := field d 320 32
def embHotRow (d : Nat) : Nat := field d 352 32
def embHotN (d : Nat) : Nat := field d 384 13

/-- An entry that describes hot row h as it lies in scratchpad, in the layout of GTHR (R266). -/
def hotTensor (e : Tensor) (d : Nat) : Tensor :=
  { e with base := embHotRow d, space := 1, stride := round16 e.rowBytes, rows := embHotN d,
           scale := embHotRow d + embHotN d * round16 e.rowBytes, sspace := 1 }

/-- The elements of a row as binary32 (R265). -/
def rowWords (xs : List (FVal × Bool)) : List Word := xs.map fun x => BitVec.ofNat 32 (roundTo f32 .rn false x.1).1

/-- The rows of a bag, each from the hot set or from what was gathered; none where the owner has no such row. -/
def bagRows (c : CoreId) (k : Cmd) (e : Tensor) (desc : Nat) (hot : List (Nat × Bool)) (rows : List (Nat × Option (List Word) × Bool))
    (s : State) (go : Option (List (List Word × Bool)) → State → Serve) : List (Nat × Bool) → Serve
  | [] => go (some []) s
  | (r, pi) :: l =>
    let next := fun (v : Option (List Word × Bool)) (s : State) =>
      bagRows c k e desc hot rows s (fun t s => go (match v, t with | some v, some t => some (v :: t) | _, _ => none) s) l
    match hot.findIdx? (·.1 == r) with
    | some h =>
      let ph := pi || ((hot[h]?).map (·.2)).getD false
      engElems c k (hotTensor e desc) s (fun xs s => next (some (rowWords xs, ph || xs.any (·.2))) s)
        ((List.range e.cols).map fun j => (h, j))
    | none =>
      match rows.find? fun p => p.1 == r with
      | some (_, some w, po) => next (some (w, pi || po)) s
      | _ => next none s

/-- Pools one column of a bag: additions rounded once each, in ascending position, and the mean (R265). -/
def poolColumn (mean : Bool) (xs : List Word) : Word :=
  match xs with
  | [] => 0
  | x :: l =>
    let t := l.foldl (fun a y => BitVec.ofNat 32 (roundWith f32 .rn false (exactSum false [f32.value a.toNat, f32.value y.toNat])).1) x
    if mean then BitVec.ofNat 32 (fpDiv f32 .rn (f32.value t.toNat) (FVal.ofInt xs.length)).1 else t

/-- One bag; poison of the words that its lists give it is poison of the bag (R252). -/
def serveBag (c : CoreId) (k : Cmd) (e : Tensor) (desc : Nat) (idx bag hot : List (Nat × Bool))
    (rows : List (Nat × Option (List Word) × Bool)) (b : Nat) (s : State) : Serve :=
  let lo := bag.getD b (0, false)
  let hi := bag.getD (b + 1) (0, false)
  let ds := pooledBytes e
  bagRows c k e desc hot rows s (fun rs s =>
    match rs with
    | none => .fail 7 b s
    | some rs =>
      let out := (List.range e.cols).flatMap fun j =>
        leBytes 4 (poolColumn (embPool desc == 1) (rs.map fun r => r.1.getD j 0)).toNat
      .out (padUnit (bytesAt (embDst desc + b * ds) ds fun i => out.getD i 0) (lo.2 || hi.2 || rs.any (·.2))) s)
    ((idx.drop lo.1).take (hi.1 - lo.1))

/-- One token of a key-value fill (R267). -/
def serveFill (c : CoreId) (k : Cmd) (seq layer head kv t0 y desc u : Nat) (s : State) : Serve :=
  match KvDesc.ofNat desc with
  | none => .fail 6 0 s
  | some d =>
    let ds := round16 d.rowb
    let coord := kvCoord seq layer head kv (t0 + u) 0
    let land := fun (f : Nat → Byte) (po : Bool) (s : State) => Serve.out (padUnit (bytesAt (y + u * ds) ds f) po) s
    let walk := fun (s : State) =>
      match s.kvTranslate c .kvFill k.asid k.kvroot coord 0 k.grp (BitVec.ofNat 32 k.ticket) k.who with
      | (.wait, s) => .wait s (s.walkMissed c k)
      | (.fatal, s) => .fail 6 coord s
      | (.ok e, s) =>
        let a := e.frame + d.lineOff coord
        land (fun i => if i < d.rowb then s.readPa e.key (a + i) else 0) (anyIn d.rowb fun i => s.poisoned (a + i)) s
    match s.kvSeqRec d seq with
    | none => .fail 6 coord s
    | some none => walk s
    | some (some (_, vlen)) => if vlen ≤ t0 + u then land (fun _ => 0) false s else walk s

end Sys2Proof.Machine
end

