-- ==== Sys2Proof/Machine/Engines.lean ====
section
/-!
DEFINITION. Copy, request, gather and embedding engines and the reports of their status (11 R248-R268), key-value fill (R267),
and the steps in which commands are served and their units land.
-/

namespace Sys2Proof.Machine

/-! ## Issue (R248-R250) -/

/-- The command queue of a core holds 256 entries. -/
def State.queueRoom (s : State) (c : CoreId) (n : Nat) : Bool := decide ((s.core c).cmds.length + n ≤ 256)

/-- A command enters the queue with its pending counts raised. -/
def State.addCmd (s : State) (c : Ctx) (kind : CmdKind) (ticket : Nat) (sb : Option Nat) (units bytes : Nat)
    (credit : List (Nat × Nat)) : State :=
  let (id, s) := s.fresh
  let g := s.group c.id.team c.id.grp
  let k : Cmd :=
    { id := id, team := c.id.team, grp := c.id.grp, x := c.id.x, depth := g.depth, date := s.time, asid := g.c.asid,
      kvroot := g.c.kvroot, ttbase := g.c.ttbase, ticket := ticket, sb := sb, kind := kind, state := 0, ecode := 0,
      pois := false, stopped := [], lane := 0, landed := [], sent := [], failed := [], units := units, bytes := bytes, credit := credit }
  let core := s.teamCore c.id.team
  let s := s.raisePending c.id.team credit
  let s := (s.modCore core fun x => { x with cmds := x.cmds ++ [k] }).noteTicket k
  s.later 1 (.commandServiceStart core id)

/-- What an engine instruction declares (R319, R347, R377). -/
def engInfo (g : Guard) (uses : List Use) : Info :=
  { g := g, uses := uses, cls := .a, noHandler := true, noCalleeSp := true, noDmr := true, path := some .cp }

/-! ## CPY (R256) -/

/-- The checks of CPY, in the order of R223. -/
def cpyCheck (c : Ctx) (size : Nat) (a : Nat → DWord) (d v : Nat → Nat) (go : Act) : Act :=
  let odd := maskOf fun i => c.ex.getLsbD i && d i % 32 != 0
  let far := maskOf fun i => c.ex.getLsbD i && (decide (size < d i + 32) || decide (32 < v i))
  let out := maskOf fun i => c.ex.getLsbD i && (decide (2 ^ 56 ≤ (a i).toNat) || inWindow (a i).toNat)
  if odd ≠ 0 then c.trapOf 10 0 (BitVec.ofNat 64 (d (low odd))) odd
  else if far ≠ 0 then c.trapOf 7 0 (BitVec.ofNat 64 (d (low far))) far
  else if out ≠ 0 then c.trapOf 8 0 (a (low out)) out
  else go

/-- The bytes and poison of a scratchpad span, by their place in it. -/
def State.padSpan (s : State) (t d v : Nat) : Bytes × List Nat :=
  ((List.range v).map fun i => (i, s.spad t (d + i)), (List.range v).filter fun i => s.spadPoison t (d + i))

def execCpy (g : Guard) (toGlobal : Bool) (tag : Fin 8) (a b e : Src) (s : State) : Host.Outcome State Fault Refusal :=
  issue (engInfo g [u2 a, u1 b, u1 e])
    (fun c s =>
      let t := c.id.team
      let adr := s.srcPair a
      let d := fun i => (s.src b i).toNat
      let v := fun i => (s.src e i).toNat
      cpyCheck c s.myTeam.spadSize adr d v <|
        if !s.queueRoom s.myCore 1 then .hold
        else if toGlobal && !(maskLanes c.ex).all fun i => s.presentRange t (d i) (v i) then .hold
        else
          let ls := maskLanes c.ex
          let kind := if toGlobal then
              .cpySg tag.val (ls.map fun i => (i, adr i, (s.padSpan t (d i) (v i)).1, (s.padSpan t (d i) (v i)).2))
            else CmdKind.cpyGs tag.val (ls.map fun i => (i, adr i, d i, v i))
          let credit := if toGlobal then [] else creditOf (ls.map fun i => [(d i, 32)])
          let y := s.tagAt t c.id.grp s.myGroup.depth tag.val
          let s := s.setTagAt t c.id.grp s.myGroup.depth tag.val
            { y with issued := y.issued + BitVec.ofNat 32 (32 * ls.length) }
          .done (s.addCmd c kind 0 none ls.length 32 credit)) s

/-! ## CPWAIT and CPST (R258, R268) -/

/-- CPWAIT holds until what had been issued under its tag has landed, and traps where a lane transfer failed. -/
def execCpwait (g : Guard) (tag : Fin 8) (s : State) : Host.Outcome State Fault Refusal :=
  issue { g := g, noCalleeSp := true }
    (fun c s =>
      let y := s.tagAt c.id.team c.id.grp s.myGroup.depth tag.val
      let i0 := fun i => (SMap.get none s.here.cpwait i).getD y.issued
      if (maskLanes c.ex).any fun i => decide (2 ^ 31 ≤ (y.landed - i0 i).toNat) then
        .wait fun s => s.modStream c.id fun st => { st with cpwait := (maskLanes c.ex).foldl (fun m i =>
          if (SMap.get none m i).isNone then SMap.set none m i (some y.issued) else m) st.cpwait }
      else
        let s := s.modHere fun st => { st with cpwait := (maskLanes c.ex).foldl (fun m i => SMap.set none m i none) st.cpwait }
        if y.err && !(s.here.mode == .save || s.here.mode == .restore) then
          .trapBy (fun s => s.setTagAt c.id.team c.id.grp s.myGroup.depth tag.val { y with err := false }) ⟨8, 0, y.faddr, c.ex⟩
        else .done s) s

/-- The four words of a tag's report. -/
def tagWord (y : TagState) (susp : Bool) : Nat → Word
  | 0 => y.issued
  | 1 => y.landed
  | 2 => BitVec.ofNat 32 (bit01 y.err + 2 * bit01 y.pois + 4 * bit01 susp)
  | _ => 0

def execCpstBt (g : Guard) (la : Fin 16) (tag : Fin 8) (d : Dst) (s : State) : Host.Outcome State Fault Refusal :=
  issue { g := g, uses := [.dst d 4], la := some la, noCalleeSp := true }
    (fun c s =>
      let dep := s.myGroup.depth
      let y := s.tagAt c.id.team c.id.grp dep tag.val
      let su := s.tagSusp c.id.team c.id.grp dep tag.val
      .done (s.longLat c la d 4 (fun k _ => tagWord y su k) 0)) s

/-- The four words of a ticket's report. -/
def ticketWord (t : Ticket) : Nat → Word
  | 0 => BitVec.ofNat 32 (t.state + 16 * t.ecode + 1024 * bit01 t.pois)
  | 1 => BitVec.ofNat 32 t.done
  | 2 => BitVec.ofNat 32 t.total
  | _ => BitVec.ofNat 32 t.sb

/-- The status of a ticket: a queued, running or suspended command, or what its end left. -/
def State.ticket (s : State) (t n : Nat) : Ticket :=
  if !s.latest t n then .unknown
  else
    match (s.core (s.teamCore t)).cmds.find? fun k => k.team == t && k.tag.isNone && k.ticket == n with
    | some k => k.status
    | none => SMap.get .unknown (s.team t).statuses n

def execCpstTkt (g : Guard) (la : Fin 16) (d : Dst) (a : Src) (s : State) : Host.Outcome State Fault Refusal :=
  issue { g := g, uses := [.dst d 4, u1 a], la := some la, noCalleeSp := true }
    (fun c s => .done (s.longLat c la d 4 (fun k i => ticketWord (s.ticket c.id.team (s.src a i).toNat) k) 0)) s

/-! ## KICK (R259, R260) -/

/-- A request record's fields. -/
def recKind (x : Nat) : Nat := field x 0 4
def recSb (x : Nat) : Nat := 16 * field x 40 17

/-- The checks of a record at KICK. -/
def recOk (size x : Nat) : Bool :=
  let kind := recKind x
  let ssp := field x 4 2
  let dsp := field x 6 2
  decide (kind ≤ 2) && decide (ssp ≤ 1) && decide (dsp ≤ 1) && (kind != 1 || ssp == 0) && (kind == 0 || dsp == 0) &&
  field x 8 8 == 0 && (kind == 1 || (field x 16 12 == 0 && field x 28 12 == 0)) && field x 57 7 == 0 && field x 256 256 == 0 &&
  decide (recSb x + 16 ≤ size)

/-- What a record asks for. -/
def recCmd (x : Nat) : CmdKind :=
  let wa := field x 64 64
  let wb := field x 128 64
  let wc := field x 192 64
  match recKind x with
  | 0 => .linear (field x 4 2) (field x 6 2) wa wb wc
  | 1 => .tile (field x 16 12) (field x 28 12) (wa % 2 ^ 32) (wa / 2 ^ 32) (wb % 2 ^ 32) (wb / 2 ^ 32) (wc % 2 ^ 32) (wc / 2 ^ 32)
  | _ => .table (field x 4 2) wa (wb + wc)

/-- A tensor entry, where its page is present. -/
def State.peekTensor (s : State) (asid : BitVec 16) (ttbase : DWord) (die tid : Nat) : Option Tensor :=
  match s.walkFor .engRead asid (tensorAddr ttbase tid) with
  | .ok t =>
    let e := Tensor.ofNat (leNat ((List.range 64).map fun i => s.readTr t die (tensorAddr ttbase tid + i)))
    if e.bad then none else some e
  | _ => none

/-- The scratchpad spans of each unit of a tile request. -/
def tileSpans (d : Tensor) (dr0 dc0 nr nc : Nat) : List (List (Nat × Nat)) :=
  (List.range (tileUnit d nr nc).1).map fun u =>
    let l := (tileElems d.layout 0 0 dr0 dc0 nr nc u).2
    (if d.space = 1 then l.map fun p => d.span p.1 p.2 else []) ++
    (if d.blk ≠ 0 ∧ d.sspace = 1 then l.map fun p => (d.scaleAt p.1 p.2, 1) else [])

/-- The destination entries of the records that stand in pages now missing. -/
def State.missingEntries (s : State) (c : Ctx) (recs : List Nat) : List Nat :=
  let g := s.group c.id.team c.id.grp
  (recs.filterMap fun x => match recCmd x with
    | .tile _ dtid _ _ _ _ _ _ =>
      let a := tensorAddr g.c.ttbase dtid
      match s.walkFor .engRead g.c.asid a with | .missing => some a | _ => none
    | _ => none).eraseDups

/-- The missing pages of destination entries are asked for: what a KICK waits for before its records are known, and the state once
each is answered, a fatal answer leaving its tile without a plan until its service fails (R250, R268; DEDUCED, log 22). -/
def State.askKick (s : State) (c : Ctx) (recs : List Nat) : Option (State → State) × State :=
  let ask := fun (s : State) (a : Nat) => s.translate (s.teamCore c.id.team) .engRead (s.group c.id.team c.id.grp).c.asid a c.iss
    c.id.grp 0 (2 * c.id.team + bit01 c.id.x) false
  let late := fun (s : State) => (s.missingEntries c recs).filter fun a => match (ask s a).1 with | .wait => true | _ => false
  if (late s).isEmpty then (none, (s.missingEntries c recs).foldl (fun s a => (ask s a).2) s)
  else (some fun s => (late s).foldl (fun s a => (ask s a).2) s, s)

/-- The units of a request, their bytes, and its pending counts; a tile whose destination entry no page holds has none. -/
def State.recPlan (s : State) (c : Ctx) (x : Nat) : Nat × Nat × List (Nat × Nat) :=
  let g := s.group c.id.team c.id.grp
  let size := (s.team c.id.team).spadSize
  match recCmd x with
  | .linear ssp dsp a b n =>
    if !linearOk size ssp dsp a b n then (n / 16, 16, [])
    else (n / 16, 16, if dsp = 1 then creditOf ((List.range (n / 16)).map fun u => [(b + 16 * u, 16)]) else [])
  | .tile _ dtid _ _ dr0 dc0 nr nc =>
    match s.peekTensor g.c.asid g.c.ttbase (s.teamCore c.id.team).die dtid with
    | none => (0, 0, [])
    | some d =>
      let u := tileUnit d nr nc
      let fits := decide (dr0 + nr ≤ d.rows) && decide (dc0 + nc ≤ d.cols)
      let spans := if fits then tileSpans d dr0 dc0 nr nc else []
      (u.1, u.2, if (spansBeyond size spans.flatten).isSome then [] else creditOf spans)
  | _ => (256, 16, [])

/-- Queues the records of a KICK in order; the first ticket is returned. -/
def State.kickAll (s : State) (c : Ctx) : List Nat → State
  | [] => s
  | x :: l =>
    let t := s.takeTicket c.id.team
    let p := t.2.recPlan c x
    (t.2.addCmd c (recCmd x) t.1 (some (recSb x)) p.1 p.2.1 p.2.2).kickAll c l

def execKick (g : Guard) (d : Dst) (a e : Src) (s : State) : Host.Outcome State Fault Refusal :=
  issue (engInfo g [d1 d, u1 a, u1 e])
    (fun c s =>
      let t := c.id.team
      let i := low c.ex
      let one := BitVec.twoPow 32 i
      let r := (s.src a i).toNat
      let n := (s.src e i).toNat
      let size := s.myTeam.spadSize
      let recs := (List.range n).map fun k => s.spadNat t (r + 64 * k) 64
      let at_ := fun (x : Nat) => BitVec.ofNat 64 x
      if n = 0 then .done s
      else if r % 64 ≠ 0 then c.trapOf 10 0 (at_ r) one
      else if 64 < n then c.trapOf 1 0 (at_ r) one
      else if size < r + 64 * n then c.trapOf 7 0 (at_ r) one
      else if !s.presentRange t r (64 * n) then .hold
      else
        match recs.findIdx? fun x => !recOk size x with
        | some k => c.trapOf 1 0 (at_ (r + 64 * k)) one
        | none =>
          if !s.queueRoom s.myCore n then .hold
          else
            match s.askKick c recs with
            | (some f, _) => .wait f
            | (none, s) =>
              let first := s.myTeam.st.tickets
              .done ((s.kickAll c recs).setDst d c.ex fun _ => first)) s

/-! ## GTHR, EMB and KVFILL (R263, R264, R267) -/

/-- The first offset of a list that is not a multiple of its alignment; the first extent beyond SPAD. -/
def extentCheck (c : Ctx) (size : Nat) (al : List (Nat × Nat)) (ext : List (Nat × Nat)) (go : Act) : Act :=
  let one := BitVec.twoPow 32 (low c.ex)
  match al.find? fun p => p.1 % p.2 != 0 with
  | some p => c.trapOf 10 0 (BitVec.ofNat 64 p.1) one
  | none =>
    match ext.find? fun p => decide (size < p.1 + p.2) with
    | some p => c.trapOf 7 0 (BitVec.ofNat 64 p.1) one
    | none => go

/-- Queues one command with a ticket in D. -/
def State.queueOne (s : State) (c : Ctx) (d : Dst) (kind : CmdKind) (sb units bytes : Nat)
    (spans : List (List (Nat × Nat))) : Act :=
  if !s.queueRoom s.myCore 1 then .hold
  else
    let t := s.takeTicket c.id.team
    .done ((t.2.addCmd c kind t.1 (some sb) units bytes (creditOf spans)).setDst d c.ex fun _ => BitVec.ofNat 32 t.1)

def execGthr (g : Guard) (d : Dst) (a b e : Src) (tid : BitVec 12) (s : State) : Host.Outcome State Fault Refusal :=
  issue (engInfo g [d1 d, u1 a, u1 b, u2 e])
    (fun c s =>
      let i := low c.ex
      let x := (s.src a i).toNat
      let y := (s.src b i).toNat
      let n := ((s.srcPair e i).setWidth 32).toNat
      let sb := ((s.srcPair e i).extractLsb' 32 32).toNat
      if n = 0 then .done s
      else tensorAt c tid.toNat s fun t s =>
        let ds := round16 t.rowBytes
        let w := t.scaleBytes
        if 1 < t.space ∨ t.layout ≠ 0 then c.illegal
        else
          extentCheck c s.myTeam.spadSize [(x, 4), (y, 16), (sb, 16)] [(x, 4 * n), (y, n * (ds + w)), (sb, 16)] <|
            s.queueOne c d (.gather x y n t) sb n (ds + w)
              ((List.range n).map fun j => [(y + j * ds, ds), (y + n * ds + j * w, w)])) s

/-- Reserved bits and codes of an embedding descriptor (R264). -/
def embReserved (d : Nat) : Bool :=
  decide (1 < embPool d) || field d 194 30 != 0 || field d 244 12 != 0 || field d 397 115 != 0

/-- The extents that a descriptor names. -/
def embExtents (t : Tensor) (d : Nat) : List (Nat × Nat) :=
  [(embIdx d, 4 * embN d), (embBag d, 4 * (embNb d + 1)), (embDst d, embNb d * pooledBytes t), (embSb d, 16)] ++
  (if t.ecm = 1 then [(embNext d, 4 * embNextN d)] else []) ++
  (if t.ecm = 2 then [(embHot d, 4 * embHotN d), (embHotRow d, embHotN d * (round16 t.rowBytes + t.scaleBytes))] else [])

def execEmb (g : Guard) (d : Dst) (a : Src) (tid : BitVec 12) (s : State) : Host.Outcome State Fault Refusal :=
  issue (engInfo g [d1 d, u1 a])
    (fun c s => tensorAt c tid.toNat s fun t s =>
      let r := (s.src a (low c.ex)).toNat
      if t.space ≠ 0 ∨ t.layout ≠ 0 ∨ 6 < t.etype then c.illegal
      else
        extentCheck c s.myTeam.spadSize [(r, 64)] [(r, 64)] <|
          if !s.presentRange c.id.team r 64 then .hold
          else
            let x := s.spadNat c.id.team r 64
            if embReserved x then c.illegal
            else
              extentCheck c s.myTeam.spadSize [(embIdx x, 4), (embDst x, 16), (embSb x, 16)] (embExtents t x) <|
                let ds := pooledBytes t
                s.queueOne c d (.emb tid.toNat t x [] [] [] [] false) (embSb x) (embNb x) ds
                  ((List.range (embNb x)).map fun j => [(embDst x + j * ds, ds)])) s

def execKvfill (g : Guard) (d : Dst) (a b e : Src) (tid : BitVec 12) (s : State) : Host.Outcome State Fault Refusal :=
  issue (engInfo g [d1 d, u1 a, u1 b, u1 e])
    (fun c s => tensorAt c tid.toNat s fun t s =>
      let i := low c.ex
      let one := BitVec.twoPow 32 i
      let t0 := (s.src a i).toNat
      let y := (s.src b i).toNat
      let sb := (s.src e i).toNat
      let seq := field t.base 0 20
      let layer := field t.base 20 8
      let head := field t.base 28 8
      let kv := field t.base 36 1
      let coord := kvCoord seq layer head kv (t0 % 2 ^ 24) 0
      let adr : DWord := BitVec.ofNat 64 coord
      let root := s.myGroup.c.kvroot
      let raw := s.readNat 0 root.toNat 64
      if t.space ≠ 2 ∨ t.rows < 64 then c.illegal
      else if root = 0 then c.trapOf 9 0 adr one
      else
        match KvDesc.ofNat raw with
        | none => c.trapOf 9 0 adr one
        | some k =>
          let ds := round16 k.rowb
          if !k.hasSeq coord || decide (2 ^ 24 < t0 + 64) then c.trapOf 7 0 adr one
          else
            extentCheck c s.myTeam.spadSize [(y, 16), (sb, 16)] [(y, 64 * ds), (sb, 16)] <|
              s.queueOne c d (.kvfill seq layer head kv t0 y raw) sb 64 ds
                ((List.range 64).map fun j => [(y + j * ds, ds)])) s

/-! ## Service (R248, R251, R253) -/

/-- An earlier command of the same group still waits for its service. -/
def State.queuedBefore (s : State) (c : CoreId) (k : Cmd) : Bool :=
  ((s.core c).cmds.takeWhile fun x => x.id != k.id).any fun x => x.team == k.team && x.grp == k.grp && x.state == 0 && !x.suspended

/-- The streams whose first queued command has not been granted service. -/
def State.svcHeads (s : State) (c : CoreId) : List StreamId :=
  ((s.core c).cmds.filter fun k => k.state == 0 && k.stopped.isEmpty && !s.queuedBefore c k).map fun k => ⟨k.team, k.grp, k.x⟩

/-- The rotation of the copy engines grants a command's stream (R178, R248). -/
def State.svcTurn (s : State) (c : CoreId) (k : Cmd) : Bool :=
  match (s.core c).svc.order.find? fun r => (s.svcHeads c).contains r.2.id with
  | some r => r.2.id == ⟨k.team, k.grp, k.x⟩
  | none => true

/-- The units of a command are under way, each to land in its turn; a command without one is complete. -/
def State.startUnits (s : State) (c : CoreId) (k : Cmd) : State :=
  if k.units = 0 then s.checkDone c k.id
  else
  match k.kind with
  | .cpyGs _ ls => ls.foldl (fun s l => s.later 1 (.engineUnitLands c k.id l.1 0)) s
  | .cpySg _ ls => ls.foldl (fun s l => s.later 1 (.engineUnitLands c k.id l.1 0)) s
  | _ => (List.range k.units).foldl (fun s u => s.later 1 (.engineUnitLands c k.id 0 u)) s

/-- A command starts, suspends, or fails, by the answer of what it needs first. -/
def State.startServe (s : State) (c : CoreId) (k : Cmd) (r : Serve) : State :=
  match r with
  | .wait t susp => (t.modCmd c k.id fun x => { x.stop 0 susp with state := 0 }).again (.commandServiceStart c k.id)
  | .fail code _ t => t.failCmd c k code
  | .out _ t => match t.cmd c k.id with
    | some k => (t.noteTicket k).startUnits c k
    | none => s

/-- A tile's entries and conditions come first; its units and pending counts become those of the entry that service reads. -/
def tileStart (c : CoreId) (k : Cmd) (stid dtid sr0 sc0 dr0 dc0 nr nc : Nat) (s : State) : Serve :=
  withTile c k stid dtid s fun e d _ s =>
    let spans := tileSpans d dr0 dc0 nr nc
    if !tileOk e d sr0 sc0 dr0 dc0 nr nc || (spansBeyond (s.team k.team).spadSize spans.flatten).isSome then .fail 5 0 s
    else
      let u := tileUnit d nr nc
      let credit := creditOf spans
      let s := (s.raisePending k.team credit).creditAll k
      .out (padUnit [] false) (s.modCmd c k.id fun x => { x with units := u.1, bytes := u.2, credit := credit })

/-- A queued command begins service (R248): commands of one group in issue order, the streams in the rotation of the copy
engines. One that waits for a walk begins again without another grant. -/
def execCommandServiceStart (c : CoreId) (id : Nat) (s : State) : Host.Outcome State Fault Refusal :=
  .next <|
    match s.cmd c id with
    | none => s
    | some k =>
      if k.state ≠ 0 then s
      else if s.queuedBefore c k || (k.stopped.isEmpty && !s.svcTurn c k) then s.again (.commandServiceStart c id)
      else
        let st : StreamId := ⟨k.team, k.grp, k.x⟩
        let s := if k.stopped.isEmpty then s.modCore c fun x => { x with svc := x.svc.spend st (s.weight st) } else s
        let k := { k with state := 1, stopped := [] }
        let s := s.modCmd c id fun _ => k
        match k.kind with
        | .tile st dt sr sc dr dc nr nc => s.startServe c k (tileStart c k st dt sr sc dr dc nr nc s)
        | .linear ssp dsp a b n =>
          s.startServe c k (if linearOk (s.team k.team).spadSize ssp dsp a b n then .out (padUnit [] false) s else .fail 5 0 s)
        | .table ssp a rest =>
          s.startServe c k (if rest = 0 ∧ a % 16 = 0 ∧ (ssp ≠ 1 ∨ a + 4096 ≤ (s.team k.team).spadSize) then .out (padUnit [] false) s
            else .fail 5 0 s)
        | .emb _ _ _ _ _ _ _ _ => (s.noteTicket k).later 1 (.embExchange c id [])
        | _ => s.startServe c k (.out (padUnit [] false) s)

/-- The service of one unit. -/
def serveUnit (c : CoreId) (k : Cmd) (u : Nat) (s : State) : Serve :=
  match k.kind with
  | .cpyGs _ ls => match ls.find? fun l => l.1 == u with
    | some l => serveCpyGs c { k with lane := u } l.2.1 l.2.2.1 l.2.2.2 s
    | none => .wait s false
  | .cpySg _ ls => match ls.find? fun l => l.1 == u with
    | some l => serveCpySg c { k with lane := u } l.2.1 (l.2.2.1) l.2.2.2 s
    | none => .wait s false
  | .linear ssp dsp a b _ => serveLinear c k ssp dsp a b u s
  | .tile st dt sr sc dr dc nr nc => withTile c k st dt s fun e d v s => serveTile c k e d v sr sc dr dc nr nc u s
  | .table ssp a _ => serveTable c k ssp a u s
  | .gather x y n t => serveGather c k x y n t u s
  | .emb _ t desc idx bag hot rows _ => serveBag c k t desc idx bag hot rows u s
  | .kvfill seq layer head kv t0 y desc => serveFill c k seq layer head kv t0 y desc u s

/-- The lines of a lane transfer's destination. -/
def Cmd.laneLines (k : Cmd) (u : Nat) : List Nat :=
  match k.kind with
  | .cpyGs _ ls => ((ls.find? fun l => l.1 == u).map fun l => [l.2.2.1 / 128]).getD []
  | _ => []

/-- The translations that the bytes of a unit were checked against. -/
def State.viaOf (s : State) (c : CoreId) (asid : BitVec 16) (bs : Bytes) : List TlbEntry :=
  ((bs.map fun p => p.1 / 65536 * 65536).eraseDups).filterMap fun a =>
    (s.tlbFind c asid a).map fun t => ⟨asid, a / t.size * t.size, t⟩

/-- The bytes of a unit that go to global memory enter the lehr, dated at the command's issue (R251, R369); a unit of
scratchpad bytes lands. -/
def State.unitOut (s : State) (c : CoreId) (k : Cmd) (u : Nat) (o : UnitOut) (again : Instr) : State :=
  let lines := (o.pad.map fun p => p.1 / 128).eraseDups
  let isTable := match k.kind with | .table _ _ _ => true | _ => false
  if !lines.all fun l => s.journalRoom c k.team (scratchKey k.team l) then s.again again
  else if o.glob.isEmpty || isTable then s.landUnit c k u o
  else if !s.lehrFree c (lineCount o.glob) then s.again again
  else
    (s.modCmd c k.id fun x => { x with sent := u :: x.sent, stopped := x.stopped.filter (·.1 != u) }).enterLehr c k.team k.grp k.x k.date
      (.engine k.id u k.asid { o with via := s.viaOf c k.asid o.glob })

/-- A unit that waited is tried again, and after it the units that waited behind it. -/
def State.unbar (s : State) (c : CoreId) (k : Cmd) (u : Nat) : State :=
  if k.tag.isNone && k.stopped.any (·.1 == u) then
    (s.modCmd c k.id fun x => { x with stopped := x.stopped.filter (·.1 != u) }).startUnits c k
  else s

/-- Rows, bags and tokens wait, or fail, in their order: the units before one have landed (R263, R265, R267). -/
def Cmd.inTurn (k : Cmd) (u : Nat) : Bool :=
  match k.kind with
  | .gather _ _ _ _ => (List.range u).all fun i => k.landed.contains i
  | .emb _ _ _ _ _ _ _ _ => (List.range u).all fun i => k.landed.contains i
  | .kvfill _ _ _ _ _ _ _ => (List.range u).all fun i => k.landed.contains i
  | _ => true

/-- One unit of a command is read and lands (R251), suspends it, or fails it (R253). -/
def execEngineUnitLands (c : CoreId) (id lane unit : Nat) (s : State) : Host.Outcome State Fault Refusal :=
  let u := lane + unit
  .next <|
    match s.cmd c id with
    | none => s
    | some k =>
      if k.state = 0 ∨ (k.landed ++ k.sent ++ k.failed).contains u then s
      else if k.barred u then s
      else
        let again := fun (s : State) => s.again (.engineUnitLands c id lane unit)
        match serveUnit c k u s with
        | .wait t susp => if k.inTurn u then again (t.modCmd c id fun x => x.stop u susp) else again s
        | .fail code adr t =>
          if !k.inTurn u then again s
          else if k.tag.isSome then t.failLane c k u adr (k.laneLines u) else t.failCmd c k code
        | .out o t => (t.unbar c k u).unitOut c k u o (.engineUnitLands c id lane unit)

/-! ## The exchange of EMB (R265, R266) -/

/-- The words of a list in scratchpad, each with the poison of its granule. -/
def State.padWords (s : State) (t off n : Nat) : List (Nat × Bool) :=
  (List.range n).map fun i => (s.padWord t (off + 4 * i), s.spadPoison t (off + 4 * i))

def ascending : List Nat → Bool
  | x :: y :: l => decide (x < y) && ascending (y :: l)
  | _ => true
def notFalling : List Nat → Bool
  | x :: y :: l => decide (x ≤ y) && notFalling (y :: l)
  | _ => true

/-- The conditions that EMB's service finds (R264). -/
def embOk (t : Tensor) (d : Nat) (bag hot : List Nat) : Bool :=
  decide (embN d ≤ 2 ^ 20) && decide (1 ≤ embNb d) && decide (embNb d ≤ 65536) && decide (embHotN d ≤ 4096) && notFalling bag &&
  bag.getLast? == some (embN d) && ascending hot &&
  (t.ecm == 1 || (embNext d == 0 && embNextN d == 0)) && (t.ecm == 2 || (embHot d == 0 && embHotRow d == 0 && embHotN d == 0))

/-- Obtains distinct rows, each from its owner: this package's from memory, another's from what it returned, where the egress
governor lets the request leave (R338). -/
def embGather (c : CoreId) (k : Cmd) (t : Tensor) (desc : Nat) (remote : List RemoteRow) (s : State)
    (go : List (Nat × Option (List Word) × Bool) → State → Serve) : List Nat → Serve
  | [] => go [] s
  | r :: l =>
    let owner := embFirst desc + r % embOwners desc
    let local_ := r / embOwners desc
    let next := fun (v : Option (List Word) × Bool) (s : State) =>
      embGather c k t desc remote s (fun rest s => go ((r, v) :: rest) s) l
    if owner ≠ s.pkg.id then
      match remote.find? fun x => x.row == r && s.mayReach owner false && !s.outgoing owner with
      | some x => next (x.elems, x.poisoned) s
      | none => .wait s false
    else if t.rows ≤ local_ then next (none, false) s
    else engElems c k t s (fun xs s => next (some (rowWords xs), xs.any (·.2)) s) ((List.range t.cols).map fun j => (local_, j))

/-- The rows that the next EMB of the team may take from the prefetch buffer, which this exchange replaces (R266). -/
def State.setPrefetch (s : State) (k : Cmd) (tid : Nat) (rows : List (Nat × Option (List Word) × Bool)) : State :=
  s.modTeam k.team fun x => { x with
    prefetch := (rows.filterMap fun p => p.2.1.map fun w => (p.1, w, p.2.2)).take 16384, prefetchTid := tid }

/-- What an exchange needs: the rows of the lists that no hot set or prefetch buffer supplies, and those that one does. -/
def embSplit (pre : List (Nat × List Word × Bool)) (hot idx : List Nat) : List Nat × List (Nat × Option (List Word) × Bool) :=
  let need := idx.eraseDups.filter fun r => !hot.contains r
  (need.filter fun r => !pre.any fun p => p.1 == r,
    need.filterMap fun r => (pre.find? fun p => p.1 == r).map fun p => (r, some p.2.1, p.2.2))

/-- The rows of an embedding command arrive: the distinct rows that it needs, each once. -/
def execEmbExchange (c : CoreId) (id : Nat) (remote : List RemoteRow) (s : State) : Host.Outcome State Fault Refusal :=
  .next <|
    match s.cmd c id with
    | none => s
    | some k =>
      match k.kind with
      | .emb tid t d _ _ _ _ false =>
        if k.state = 0 then s
        else
          let idx := s.padWords k.team (embIdx d) (min (embN d) (2 ^ 20))
          let bag := s.padWords k.team (embBag d) (min (embNb d) 65536 + 1)
          let hot := if t.ecm = 2 then s.padWords k.team (embHot d) (embHotN d) else []
          if !embOk t d (bag.map (·.1)) (hot.map (·.1)) then s.failCmd c k 5
          else
            let pre := if t.ecm = 1 ∧ (s.team k.team).prefetchTid = tid then (s.team k.team).prefetch else []
            let need := embSplit pre (hot.map (·.1)) (idx.map (·.1))
            let nextIdx := if t.ecm = 1 then ((s.padWords k.team (embNext d) (embNextN d)).map (·.1)).eraseDups else []
            let far := ((need.1 ++ nextIdx).map fun r => embFirst d + r % embOwners d).eraseDups
            let s := if k.stopped.isEmpty then (far.filter fun p => p != s.pkg.id).foldl State.sendOut s else s
            let ends := embGather c k t d remote s (fun rows s =>
              embGather c k t d remote s (fun ahead s =>
                let s := if t.ecm = 1 then s.setPrefetch k tid ahead else s
                .out (padUnit [] false) (s.modCmd c id fun x =>
                  { x with kind := .emb tid t d idx bag hot (rows ++ need.2) true, stopped := [] })) nextIdx) need.1
            match ends with
            | .wait t' susp => (t'.modCmd c id fun x => x.stop 0 susp).again (.embExchange c id remote)
            | .fail code _ t' => t'.failCmd c k code
            | .out _ t' => match t'.cmd c id with
              | some k => t'.startUnits c k
              | none => t'
      | _ => s

/-! ## Units at their points of coherence (R251) -/

/-- The unit of an engine command that the lehr has released is applied, through the translations of its service, and
counted. -/
def State.applyEngine (s : State) (c : CoreId) (e : LehrEntry) (cmd unit : Nat) (o : UnitOut) : State :=
  let s' := s.modCore c fun k => { k with lehr := k.lehr.filter fun x => x.id != e.id }
  match s.cmd c cmd with
  | none => s'
  | some k =>
    (s'.putBytes c.die (fun a => (o.via.find? fun v => v.covers k.asid a).map (·.tr)) o.glob o.globPois).landUnit c k unit o

end Sys2Proof.Machine
end

