-- ==== Sys2Proof/Machine/Gates.lean ====
section
/-!
DEFINITION. Protection domains and gates (14 R313-R323): GCALL, GRET and the abort of a call. A frame is kept as a typed
record of the caller's context, since its layout is the device's own (log 10).
-/

namespace Sys2Proof.Machine

/-! ## The gate table (R313, R314) -/

/-- A gate-table entry. -/
structure Gate where
  enta : DWord
  entx : DWord
  asid : BitVec 16
  key : Nat
  pl : Nat
  split : Bool
  shsp : Bool
  handle : Bool
  trapc : Bool
  vbud : Nat
  va : Nat
  lbud : Nat
  abud : Nat
  pass : Nat
  ret : Nat
  ppred : Bool
  psreg : Bool
  rspr : Bool
  callers : Nat
  limit : Nat
  valid : Bool
  rsvd : Bool
  fbase : Nat
  thnd : DWord
  kvroot : DWord
  ttbase : DWord
  deriving DecidableEq, Repr

/-- The fields of 64 bytes. -/
def Gate.ofNat (x : Nat) : Gate :=
  { enta := BitVec.ofNat 64 (field x 0 64), entx := BitVec.ofNat 64 (field x 64 64), asid := BitVec.ofNat 16 (field x 128 16),
    key := field x 144 12, pl := field x 156 2, split := field x 158 1 == 1, shsp := field x 159 1 == 1,
    handle := field x 160 1 == 1, trapc := field x 161 1 == 1, vbud := field x 162 4, va := field x 166 4,
    lbud := field x 170 5, abud := field x 175 4, pass := field x 179 5, ret := field x 184 5, ppred := field x 189 1 == 1,
    psreg := field x 190 1 == 1, rspr := field x 191 1 == 1, callers := field x 192 64, limit := field x 256 10,
    valid := field x 266 1 == 1, rsvd := field x 267 5 != 0 || field x 312 8 != 0, fbase := field x 272 40, thnd := BitVec.ofNat 64 (field x 320 64),
    kvroot := BitVec.ofNat 64 (field x 384 64), ttbase := BitVec.ofNat 64 (field x 448 64) }

/-- The entry of a gate. -/
def State.gate (s : State) (n : Nat) : Gate := Gate.ofNat (s.readNat 0 (s.pkg.gateTable + 64 * n) 64)

/-- The domain entry of an address space: its CLASS, none where a reserved bit is set. -/
def State.domainClass (s : State) (asid : BitVec 16) : Option Nat :=
  let x := s.readNat 0 (s.pkg.domTable + 4 * asid.toNat) 4
  if field x 6 26 = 0 then some (field x 0 6) else none

/-- Every field of an entry lies in its range (R314). -/
def Gate.inRange (g : Gate) : Bool :=
  !g.rsvd && (g.pl == 1 || g.pl == 2) && decide (1 ≤ g.vbud) && decide (g.vbud ≤ 12) &&
  (if g.split then decide (1 ≤ g.va) && decide (g.va < g.vbud) && g.entx != 0 else g.va == 0 && g.entx == 0) &&
  (g.lbud == 0 || g.lbud == 4 || g.lbud == 8 || g.lbud == 16) && decide (g.abud ≤ 8) && decide (g.pass ≤ 16) &&
  decide (g.ret ≤ 16)

/-- The slots of a core's gate pin pool that calls have taken (R317). -/
def State.pinsUsed (s : State) (c : CoreId) : Nat :=
  (s.pkg.frames.filter fun k => (s.team k.team).live && s.teamCore k.team == c).foldl (fun n k => n + k.pins) 0

/-- The first byte of a gate's frame k (R314). -/
def Gate.framePa (g : Gate) (k : Nat) : Nat := g.fbase * 4096 + frameSize * k

/-- The frames of a gate that are claimed. -/
def State.claimed (s : State) (n : Nat) : List Nat := (s.pkg.frames.filter fun k => k.gate == n).map (·.frame)

/-- The checks of a call in their order: the status of a refusal (R317). -/
def State.refuseCall (s : State) (n : Nat) : Option Nat :=
  let e := s.gate n
  let g := s.myGroup
  let cls := s.domainClass g.c.asid
  if !e.valid || e.limit == 0 then some 0xFFFFFF01
  else if !e.inRange || cls.isNone then some 0xFFFFFF02
  else if 4 ≤ g.depth then some 0xFFFFFF03
  else if !e.callers.testBit (cls.getD 0) then some 0xFFFFFF04
  else if e.split ≠ g.split then some 0xFFFFFF05
  else if g.c.vbud < e.vbud || g.c.abud < e.abud ||
      (e.split && (decide (16 * e.va < e.pass) || decide (16 * e.va < e.ret) ||
        decide (16 * (e.vbud - e.va) < e.pass) || decide (16 * (e.vbud - e.va) < e.ret))) then some 0xFFFFFF06
  else if (match s.asRecord e.asid with | some (_, k) => k != e.key | none => true) then some 0xFFFFFF07
  else if e.limit ≤ (s.claimed n).length ∨ 1024 < s.pinsUsed s.myCore + e.lbud then some 0xFFFFFF08
  else none

/-! ## The call (R318) -/

/-- A stream of the callee: its start values, and what passes. -/
def calleeStream (e : Gate) (entry : DWord) (x : Mask) (caller : Stream) : Stream :=
  let st := startStream entry x caller.epoch true
  let st := (List.range e.pass).foldl (fun st r => (maskLanes x).foldl (fun st i =>
    { st with v := SMap.set 0 st.v (32 * r + i) (SMap.get 0 caller.v (32 * r + i)) }) st) st
  let st := if e.ppred then [1, 2, 3, 4, 5, 6, 7].foldl (fun st p =>
      { st with p := SMap.set 0 st.p p (SMap.get 0 caller.p p &&& x) }) st
    else st
  if e.psreg then (List.range 8).foldl (fun st r => st.setUni r (caller.uni r)) st else st

/-- The callee's context. -/
def calleeCtx (e : Gate) (x : Mask) (g : Group) : GCtx :=
  let a := calleeStream e e.enta x g.c.a
  let b := if e.split then calleeStream e e.entx x g.c.x else .off
  (startGroup g.role e.split e.vbud e.va e.lbud e.abud e.pl e.asid (if e.kvroot = 0 then g.c.kvroot else e.kvroot) e.ttbase
    a b).c

/-- The lowest frame of a gate that is free. -/
def State.freeFrame (s : State) (n limit : Nat) : Nat :=
  ((List.range limit).find? fun k => !(s.claimed n).contains k).getD 0

/-- Results that a call waits for: those of loads, units and key-value operations; AMO lanes on a missing translation and
engine commands stay behind (R318 step 2). -/
def State.callWaits (s : State) (id : StreamId) : Bool :=
  (s.stream id).pend.any fun p => p.cred.isSome || !s.pendReady p

/-- Writes what can be written of both streams and drains their queues. -/
def State.settleGroup (s : State) (t g : Nat) : State :=
  [false, true].foldl (fun s x => ((s.drainQueue ⟨t, g, x⟩).writeAll ⟨t, g, x⟩).flushAmos ⟨t, g, x⟩) s

/-- The call itself: the frame is claimed and written, the caller hidden, the callee built, and a checkpoint asked for. -/
def State.enterGate (s : State) (c : Ctx) (d : Dst) (n : Nat) : State :=
  let e := s.gate n
  let s := s.settleGroup c.id.team c.id.grp
  let s := (s.advance c.id c.iss).modStream c.id fun st => { st with relWait := SMap.set none st.relWait callMark none }
  let k := s.freeFrame n e.limit
  let s := { s with pkg := { s.pkg with frames := ⟨k, n, e.lbud, c.id.team, s.time, none⟩ :: s.pkg.frames } }
  let s := s.writeFrame (e.framePa k)
  let s := s.modMyGroup fun g =>
    let f : GateFrame :=
      { frame := k, gate := n, ctx := g.c, status := d, slot := c.pc, ex := c.ex, handle := e.handle, thnd := e.thnd,
        trapc := e.trapc, shsp := e.shsp, ret := e.ret, rspr := e.rspr, since := s.time }
    { g with c := calleeCtx e c.ex g, depth := g.depth + 1, frames := f :: g.frames, wait := s.time }
  s.askCkpt c.id.team

/-- Puts the mark of a waiting call on the A stream. -/
def State.markCall (s : State) (id : StreamId) : State :=
  s.modStream id fun st => { st with relWait := SMap.set none st.relWait callMark (some s.time) }

/-- The destination of a GCALL (R316). -/
def gateDst : Dst → Bool
  | .s _ => true
  | .z => true
  | _ => false

def execGcall (g : Guard) (d : Dst) (num : BitVec 8) (s : State) : Host.Outcome State Fault Refusal :=
  issue { g := g, uses := [d1 d], cls := .a, noHandler := true, noDmr := true, lanes := false, illegal := !gateDst d }
    (fun c s =>
      if c.iss ≠ s.here.amask then c.uniformity
      else if c.ex = 0 then .done s
      else
        match s.refuseCall num.toNat with
        | some st =>
          .done ((s.setDst d c.ex fun _ => BitVec.ofNat 32 st).modHere fun x =>
            { x with relWait := SMap.set none x.relWait callMark none })
        | none =>
          if s.callWaits c.id || s.callWaits { c.id with x := true } then .wait fun s => s.markCall c.id
          else .jump (s.enterGate c d num.toNat)) s

/-! ## The return (R320) and the abort (R321) -/

/-- What wakes a stream that has been hidden or restored: its watch and its POLLs. -/
def State.rewake (s : State) (id : StreamId) : State :=
  let st := s.stream id
  let s := match st.watch with
    | none => s
    | some w =>
      let s := (s.later 1 (.lwaitWake id 0)).later 1 (.lwaitWake id 1)
      match w.due with
      | some d => s.later (d - s.time) (.lwaitWake id 3)
      | none => s
  let s := st.poll.foldl (fun s p => s.later (p.due - s.time) (.pollRetry id)) s
  if st.traps.isEmpty && st.entering.isNone then s else s.later 1 (.trapEntry id)

/-- The lanes that a callee's stream still holds. -/
def Stream.holds (st : Stream) : Mask := if st.mode = .normal then st.amask else st.kept.amask &&& st.kept.m0

/-- The values that a callee's stream returns to the caller's. -/
def GateFrame.giveBack (f : GateFrame) (callee caller : Stream) : Stream :=
  let st := (List.range f.ret).foldl (fun st r => (maskLanes f.ex).foldl (fun st i =>
    let w := if callee.holds.getLsbD i then SMap.get 0 callee.v (32 * r + i) else 0
    { st with v := SMap.set 0 st.v (32 * r + i) w }) st) caller
  if f.rspr then
    let st := [1, 2, 3, 4, 5, 6, 7].foldl (fun st p =>
      { st with p := SMap.set 0 st.p p ((SMap.get 0 st.p p &&& ~~~f.ex) ||| (SMap.get 0 callee.p p &&& f.ex)) }) st
    (List.range 8).foldl (fun st r => st.setUni r (callee.uni r)) st
  else st

/-- A callee may be left: its results are in and its commands are over. -/
def State.calleeOver (s : State) (t g : Nat) : Bool :=
  s.closeRoom (s.groupRegs t g) && [false, true].all fun x =>
    !s.callWaits ⟨t, g, x⟩ && (s.stream ⟨t, g, x⟩).amos.isEmpty && (s.openCmds ⟨t, g, x⟩).isEmpty

/-- Leaves the innermost call: its lines close, the caller's context comes back as f changes it, the frame stays claimed
until the checkpoint that is asked for is safe. -/
def State.leaveGate (s : State) (t g : Nat) (back : GateFrame → GCtx → GCtx → GCtx) : State :=
  match (s.group t g).frames with
  | [] => s
  | f :: rest =>
    let s := s.settleGroup t g
    let s := (s.groupRegs t g).foldl (fun s r => s.closeLine r) s
    let s := s.modGroup t g fun x =>
      { x with c := back f x.c f.ctx, depth := x.depth - 1, frames := rest, abort := none, wait := s.time }
    let free := fun (k : Claim) =>
      if k.team = t ∧ k.gate = f.gate ∧ k.frame = f.frame then { k with freeAt := some s.time } else k
    let s := { s with pkg := { s.pkg with frames := s.pkg.frames.map free } }
    let s := s.askCkpt t
    (s.rewake ⟨t, g, false⟩).rewake ⟨t, g, true⟩

/-- The status word goes to D of the GCALL. -/
def GateFrame.putStatus (f : GateFrame) (w : Word) (c : GCtx) : GCtx := { c with a := c.a.put f.status f.ex fun _ => w }

def execGret (g : Guard) (a : Src) (s : State) : Host.Outcome State Fault Refusal :=
  issue { g := g, uses := [u1 a], cls := .a, level := 1, callee := true, lanes := false }
    (fun c s =>
      let w := s.src a (low c.ex)
      if c.iss ≠ s.here.amask then c.uniformity
      else if c.ex = 0 then .done s
      else if 0xFFFFFF00 ≤ w.toNat then c.illegal
      else if !s.calleeOver c.id.team c.id.grp then .wait fun s => s.markCall c.id
      else .jump (s.leaveGate c.id.team c.id.grp fun f callee ctx =>
        f.putStatus w { ctx with a := f.giveBack callee.a ctx.a, x := f.giveBack callee.x ctx.x })) s

/-- The abort of the innermost call, with the code of its trap. -/
def execGateAbort (t g code : Nat) (s : State) : Host.Outcome State Fault Refusal :=
  .next <|
    let x := s.group t g
    if x.abort ≠ some code ∨ (s.team t).live = false then s
    else if !s.calleeOver t g then (s.settleGroup t g).again (.gateAbort t g code)
    else
      match x.frames with
      | [] => s
      | f :: _ =>
        if f.trapc then
          (s.leaveGate t g fun _ _ ctx => ctx).takeTrap ⟨t, g, false⟩
            ⟨11, 0, BitVec.ofNat 64 (code % 256 + 256 * f.gate), f.ex⟩
        else s.leaveGate t g fun f _ ctx => f.putStatus 0xFFFFFF09 ctx

end Sys2Proof.Machine
end

