-- ==== Sys2Proof/Machine/KvSpace.lean ====
section
/-!
DEFINITION. Key-value page management (13 R306-R308): KVMAP, KVFORK, KVDROP.
-/

namespace Sys2Proof.Machine

/-! ## Walks of the operations -/

/-- The upper levels of a coordinate's walk: a reserved bit, an invalid entry, or the address of the level-1 entry. -/
inductive KvUpper where
  | bad
  | noTable
  | at (l1 : Nat)
  deriving DecidableEq, Repr

def State.kvUpper (s : State) (d : KvDesc) (c : Nat) : KvUpper :=
  match s.kvSeqRec d (kvSeq c) with
  | none => .bad
  | some none => .noTable
  | some (some (lhtb, _)) =>
    match s.kvDir (lhtb + 8 * (kvLayer c * (d.nhead + 1) + kvHead c)) with
    | none => .bad
    | some none => .noTable
    | some (some dir0) =>
      match s.kvDir (dir0 + 8 * field (kvToken c) 15 9) with
      | none => .bad
      | some none => .noTable
      | some (some dir1) => .at (dir1 + 8 * field (kvToken c) 6 9)

/-- What an operation of a lane comes to: its status, REFCNT after it and the page entry, none where none was reached. -/
structure KvOut where
  status : Nat
  pe : Option (Nat × Nat)
  deriving DecidableEq, Repr

/-- Status codes (R306). -/
def kvDone : Nat := 0
def kvSaturated : Nat := 1
def kvFreed : Nat := 2
def kvNotMapped : Nat := 3
def kvOccupied : Nat := 4
def kvNoTable : Nat := 5
def kvBadEntry : Nat := 6
def kvInUse : Nat := 7

/-- Changes fields of a page entry: bits P and W, and REFCNT. -/
def State.putPe (s : State) (pe : Nat) (p w : Bool) (rc : Nat) : State :=
  let x := s.readNat 0 pe 16
  let x := x / 4 * 4 + bit01 p + 2 * bit01 w
  let x := x - field x 64 16 * 2 ^ 64 + rc * 2 ^ 64
  (s.writeNat 0 pe 16 x).noteWrite (memWatch pe)

/-- Writes a level-1 entry. -/
def State.putL1 (s : State) (l1 x : Nat) : State := (s.writeNat 0 l1 8 x).noteWrite (memWatch l1)

/-- Cached translations of a page entry are invalid in every core (R308). -/
def State.dropKv (s : State) (pe : Nat) : State :=
  { s with cores := s.cores.map fun p => (p.1, { p.2 with kvc := p.2.kvc.filter fun e => e.pe != pe }) }

/-- Recalls the key-value registers that a test picks. -/
def State.recallKv (s : State) (f : LineReg → Bool) : State :=
  s.boundRegs.foldl (fun s r =>
    let l := s.lineAt r
    if l.mode = 4 ∧ f l then s.recallReg r else s) s

/-- A register's line lies in a frame. -/
def LineReg.inFrame (l : LineReg) (frame size : Nat) : Bool :=
  (l.st == .opened || l.st == .opening) && l.size != 0 && decide (frame ≤ l.pa) && decide (l.pa < frame + size)

/-- Walks that wait on a fault of a page walk again under a new number, so that the old answer has no effect; a record on its way goes on
(R291, R293). -/
def State.retryKv (s : State) (root : DWord) (page : Nat) : State :=
  s.cores.foldl (fun s p =>
    let c : CoreId := ⟨p.1 / 192, p.1 % 192⟩
    (p.2.walks.filter fun w => w.kv && w.phase == .faulted && w.root == root && kvPage w.addr.toNat == page).foldl
      (fun s w =>
        let (n, s) := s.fresh
        let new : Walk := { w with id := n, phase := s.walkAgain c true, slot := 0, sent := 0 }
        ((s.forgetWalk c w).modCore c fun k => { k with walks := k.walks ++ [new] }).later 1 (.kvWalk c n)) s) s

/-! ## The three operations (R307) -/

/-- The page entry that a source coordinate reaches. -/
def State.kvSource (s : State) (d : KvDesc) (a : Nat) (go : Nat → Nat → State → KvOut × State) : KvOut × State :=
  match s.kvUpper d a with
  | .bad => (⟨kvBadEntry, none⟩, s)
  | .noTable => (⟨kvNotMapped, none⟩, s)
  | .at l1 =>
    let x := s.readNat 0 l1 8
    if field x 0 1 = 0 then (⟨kvNotMapped, none⟩, s)
    else if field x 1 3 ≠ 0 ∨ field x 52 12 ≠ 0 then (⟨kvBadEntry, none⟩, s)
    else go l1 (field x 4 48 * 16) s

def State.kvMapOp (s : State) (root : DWord) (d : KvDesc) (a b : Nat) : KvOut × State :=
  match s.kvUpper d a with
  | .bad => (⟨kvBadEntry, none⟩, s)
  | r =>
    let l1? := match r with | .at l1 => some l1 | _ => none
    let x := (l1?.map fun l1 => s.readNat 0 l1 8).getD 0
    if field x 0 1 = 1 ∧ (field x 1 3 ≠ 0 ∨ field x 52 12 ≠ 0) then (⟨kvBadEntry, none⟩, s)
    else if b % 16 ≠ 0 ∨ 2 ^ 52 ≤ b then (⟨kvBadEntry, none⟩, s)
    else match l1? with
      | none => (⟨kvNoTable, none⟩, s)
      | some l1 =>
        let e := s.kvPe b
        if field x 0 1 = 1 then (⟨kvOccupied, none⟩, s)
        else if e.refcnt ≠ 0 then (⟨kvInUse, some (e.refcnt, b)⟩, s)
        else if e.rsvd || e.frame % d.psize != 0 then (⟨kvBadEntry, some (0, b)⟩, s)
        else
          let s := (s.putPe b true e.w 1).putL1 l1 (b + 1)
          (⟨kvDone, some (1, b)⟩, (s.dropKv b).retryKv root (kvPage a))

def State.kvForkOp (s : State) (d : KvDesc) (a b : Nat) : KvOut × State :=
  s.kvSource d a fun l1 pe s =>
    let e := s.kvPe pe
    let out := fun (n : Nat) => (⟨n, some (e.refcnt, pe)⟩ : KvOut)
    if e.rsvd || e.refcnt == 0 then (out kvBadEntry, s)
    else match s.kvUpper d b with
      | .bad => (out kvBadEntry, s)
      | .noTable => (out kvNoTable, s)
      | .at l2 =>
        if field (s.readNat 0 l2 8) 0 1 = 1 then (out kvOccupied, s)
        else if e.refcnt = 0xFFFF then (out kvSaturated, s)
        else
          let s := (s.dropKv pe).recallKv fun l => l.inFrame e.frame d.psize
          let s := (s.putPe pe e.p false (e.refcnt + 1)).putL1 l2 (s.readNat 0 l1 8)
          (⟨kvDone, some (e.refcnt + 1, pe)⟩, s)

def State.kvDropOp (s : State) (root : DWord) (d : KvDesc) (a : Nat) : KvOut × State :=
  s.kvSource d a fun l1 pe s =>
    let e := s.kvPe pe
    if e.rsvd || e.frame % d.psize != 0 || e.refcnt == 0 then (⟨kvBadEntry, some (e.refcnt, pe)⟩, s)
    else
      let rc := e.refcnt - 1
      let s := (s.dropKv pe).recallKv fun l => l.root == root && kvPage l.line == kvPage a && l.inFrame e.frame d.psize
      let s := (s.putL1 l1 0).putPe pe (e.p && rc != 0) e.w rc
      (⟨if rc = 0 then kvFreed else kvDone, some (rc, pe)⟩, s)

/-- The registers that a run of operations has recalled. -/
def State.recalledBy (s s' : State) : List LineRef :=
  s.boundRegs.filter fun r => (s.lineAt r).st == .opened && (s'.lineAt r).st == .recalled

/-- Which operation. -/
inductive KvOp where
  | map | fork | drop
  deriving DecidableEq, Repr

def KvOp.code : KvOp → Nat
  | .map => 0xD2 | .fork => 0xD3 | .drop => 0xD4

/-- One lane's operation (R306): the space and the coordinates first. -/
def State.kvLane (s : State) (o : KvOp) (root : DWord) (a b : DWord) : KvOut × State :=
  if root = 0 then (⟨kvNoTable, none⟩, s)
  else match s.kvDesc root with
    | none => (⟨kvBadEntry, none⟩, s)
    | some d =>
      let bad := fun (x : DWord) => decide (2 ^ 63 ≤ x.toNat) || !d.hasSeq x.toNat
      if bad a || (o == .fork && bad b) then (⟨kvBadEntry, none⟩, s)
      else match o with
        | .map => s.kvMapOp root d a.toNat b.toNat
        | .fork => s.kvForkOp d a.toNat b.toNat
        | .drop => s.kvDropOp root d a.toNat

/-- The four words of a lane; REFCNT where no page entry was reached is open (log 23). -/
def State.kvWords (s : State) (x : KvOut) : List Word × State :=
  match x.pe with
  | some (rc, pe) =>
    ([BitVec.ofNat 32 x.status, BitVec.ofNat 32 rc, BitVec.ofNat 32 pe, BitVec.ofNat 32 (pe / 2 ^ 32)], s)
  | none =>
    let (w, s) := s.free
    ([BitVec.ofNat 32 x.status, w, 0, 0], s)

/-- The lanes in ascending order, each on what those before it left. -/
def State.kvLanes (s : State) (o : KvOp) (root : DWord) : List (Nat × DWord × DWord) → List (Nat × List Word) × State
  | [] => ([], s)
  | (i, a, b) :: ls =>
    let r := s.kvLane o root a b
    let w := r.2.kvWords r.1
    let q := w.2.kvLanes o root ls
    ((i, w.1) :: q.1, q.2)

/-! ## The instructions (R308) -/

/-- Every path of a stream is released, as seen from the package: a caller's engine commands keep landing (R240, R310). -/
def State.allReleased (s : State) (id : StreamId) (date : Nat) : Bool :=
  let cmds := s.openCmds id
  [Path.ls, .cp, .mx, .fr, .cl].all fun p => s.pathDone id p .package date cmds

/-- The words of every lane go to D as a long-latency result that waits for the recalls of the range; the write is an
acquire of PACKAGE scope. -/
def State.kvResult (s : State) (c : Ctx) (la : Fin 16) (d : Dst) (ws : List (Nat × List Word)) (lo : Nat) : State :=
  let hi := s.nextId
  let s := s.longLat c la d 4 (fun k i => (((ws.find? fun p => p.1 == i).bind fun p => p.2[k]?).getD 0)) 0
  s.modHere fun st => { st with pend := st.pend.map fun p => if p.id = hi then { p with after := some (lo, hi) } else p }

/-- The release, the redundant or repeated run, the operation. -/
def kvBody (o : KvOp) (la : Fin 16) (d : Dst) (a b : Src) (c : Ctx) (s : State) : Act :=
  let ls := (maskLanes c.ex).map fun i => (i, s.srcPair a i, s.srcPair b i)
  let root := s.myGroup.c.kvroot
  let data : Bytes := ls.flatMap fun l => (leBytes 8 l.2.2.toNat).zipIdx.map fun p => (l.2.1.toNat + p.2, p.1)
  releaseFirst c s .package (fun s => (s.beginRelease c.id .package).askCkpt c.id.team) (fun dt s => s.allReleased c.id dt) fun s =>
    dmrGate c s o.code data
      (fun nth s =>
        match s.replayOf c.id o.code ls with
        | .differs => .trapBy (fun s => s.dropReplay c.id) ⟨14, 0, c.pc, s.here.amask⟩
        | .served j =>
          let (n, s) := s.fresh
          let ws := j.lanes.map fun l => (l.1, l.2.2.2)
          let s := (s.takeReplay j n).feedTrailer c.id.team c.id.grp fun _ => .words nth ws
          .done (s.kvResult c la d ws s.nextId)
        | .fresh =>
          let lo := s.nextId
          let r := s.kvLanes o root ls
          if !s.recallTakes c.id.team (s.recalledBy r.2) then .hold
          else
          let (n, s) := r.2.fresh
          let j : JRec := ⟨n, c.id.grp, c.id.x, s.time, o.code,
            ls.map fun l => (l.1, l.2.1, l.2.2, (((r.1.find? fun p => p.1 == l.1).map (·.2)).getD [])), []⟩
          let s := s.modMyTeam fun t => { t with journal := t.journal ++ [j] }
          let s := s.feedTrailer c.id.team c.id.grp fun _ => .words nth r.1
          .done (s.kvResult c la d r.1 lo))
      (fun w s => .done (s.setWords d 4 w))

def execKvmap (g : Guard) (la : Fin 16) (d : Fin 192) (a b : Src) (s : State) : Host.Outcome State Fault Refusal :=
  issue { g := g, uses := [.dst (.v d) 4, u2 a, u2 b], cls := .a, la := some la, level := 1 }
    (kvBody .map la (.v d) a b) s

def execKvfork (g : Guard) (la : Fin 16) (d : Fin 192) (a b : Src) (s : State) : Host.Outcome State Fault Refusal :=
  issue { g := g, uses := [.dst (.v d) 4, u2 a, u2 b], cls := .a, la := some la, level := 1 }
    (kvBody .fork la (.v d) a b) s

def execKvdrop (g : Guard) (la : Fin 16) (d : Fin 192) (a : Src) (s : State) : Host.Outcome State Fault Refusal :=
  issue { g := g, uses := [.dst (.v d) 4, u2 a], cls := .a, la := some la, level := 1 }
    (kvBody .drop la (.v d) a .z) s

end Sys2Proof.Machine
end

