-- ==== Sys2Proof/Machine/Room.lean ====
section
/-!
DEFINITION. Reservations (01 R13): what a team holds on its core, where another fits, and a team's place in the rotation of
its partitions (07 R161).
-/

namespace Sys2Proof.Machine

/-- What a team reserves: for each group its number and its vector budget divided by 16, line and accumulator budgets; the
scratchpad. -/
structure Need where
  groups : List (Nat × Nat × Nat × Nat)
  spad : Nat
  deriving DecidableEq, Repr

/-- The reservation that a team holds, ended groups included; a call changes nothing of it. -/
def Team.need (t : Team) : Need :=
  { groups := t.st.groups.map fun q => (q.1, (q.2.ctxAt 0).vbud, (q.2.ctxAt 0).lbud, (q.2.ctxAt 0).abud), spad := t.spadSize }

/-- The needs of several teams together fit one core (R13). -/
def fitsAll (ns : List Need) : Bool :=
  let gs := ns.flatMap (·.groups)
  ([0, 1, 2, 3].all fun p =>
    let l := gs.filter fun g => g.1 % 4 == p
    let vecs : Nat := (l.map fun g => 16 * g.2.1).sum
    let tiles : Nat := (l.map fun g => g.2.2.2).sum
    decide (l.length ≤ 16) && decide (vecs ≤ 3072) && decide (tiles ≤ 16)) &&
  (let spad : Nat := (ns.map fun n => n.spad).sum
   let pins : Nat := (gs.map fun g => g.2.2.1).sum
   decide (spad ≤ 0x180000) && decide (pins ≤ 1024))

/-- The needs of a core's resident teams. -/
def State.coreNeeds (s : State) (c : CoreId) : List Need := (s.coreTeams c).map fun t => (s.team t).need

/-- The groups resident on a core. -/
def needGroups (ns : List Need) : Nat := (ns.map fun n => n.groups.length).sum

/-- Among cores given with their needs, the one where another fits with the fewest groups, ties to the first (R175). -/
def bestCore (n : Need) : List (CoreId × List Need) → Option CoreId
  | [] => none
  | (c, l) :: rest =>
    let ok := fitsAll (n :: l)
    match bestCore n rest with
    | none => if ok then some c else none
    | some b =>
      let m := ((rest.find? fun x => x.1 == b).map fun x => needGroups x.2).getD 0
      if ok && decide (needGroups l ≤ m) then some c else some b

/-- The cores of a die and of a bench, with what they hold. -/
def State.dieCores (s : State) (d : Nat) : List (CoreId × List Need) :=
  (List.range 192).map fun k => (⟨d, k⟩, s.coreNeeds ⟨d, k⟩)
def State.benchCores (s : State) (b : Nat) : List (CoreId × List Need) :=
  (List.range 16).map fun k =>
    let c : CoreId := ⟨b / 12, b % 12 * 16 + k⟩
    (c, s.coreNeeds c)

/-- The streams of a new team are appended to the rotations of their partitions and of the copy engines (R161, R178). -/
def State.seat (s : State) (t : Nat) : State :=
  let ids := (s.team t).st.groups.flatMap fun q => q.2.sides.map fun x => (⟨t, q.1, x⟩ : StreamId)
  ids.foldl (fun s id => s.modCore (s.teamCore t) fun c =>
    let add := fun (p : Part) => (⟨p.rot ++ [⟨id.team, id.grp, id.x, s.weight id, [], 0⟩], p.ptr⟩ : Part)
    { c with parts := SMap.mod ⟨[], 0⟩ c.parts (id.grp % 4) add, svc := add c.svc }) s

/-- A team's streams leave the rotations; PTR stays at the stream it stood at, or at the next one. -/
def State.unseat (s : State) (t : Nat) : State :=
  s.modCore (s.teamCore t) fun c =>
    let out := fun (p : Part) =>
      let before := (p.rot.take p.ptr).filter fun r => r.team != t
      let rot := p.rot.filter fun r => r.team != t
      (⟨rot, if rot.length ≤ before.length then 0 else before.length⟩ : Part)
    { c with parts := c.parts.foldl (fun m q => SMap.set ⟨[], 0⟩ m q.1 (out q.2)) [], svc := out c.svc }

/-- Forgets the agenda's events of a team's own streams. -/
def eventOfTeam (t : Nat) : Instr → Bool
  | .pollRetry id => id.team == t
  | .lwaitWake id _ => id.team == t
  | .lineFetchLands r => r.team == t
  | .amoPerformed id _ => id.team == t
  | .barrierArrival u _ _ => u == t
  | .credContribution u _ => u == t
  | .gateAbort u _ _ => u == t
  | .fetchLine id _ => id.team == t
  | .longLatencyWriteback id _ => id.team == t
  | .trapEntry id => id.team == t
  | _ => false

end Sys2Proof.Machine
end

