-- ==== Sys2Proof/Machine/System.lean ====
section
/-!
DEFINITION. Privileged instructions: ERET and HALT (16 R351, R354; 18 R389, R395), TLBINV and RECALL (14 R325, R326), and
redundant execution (17 R376-R380).
-/

namespace Sys2Proof.Machine

/-! ## Recalls that an instruction waits for -/

/-- Keys of `relWait` for the departures that an issue of lanes waits for. -/
def waitLo (ex : Mask) : Nat := 64 + low ex
def waitHi (ex : Mask) : Nat := 96 + low ex

/-- The writes with numbers from lo to hi - 1 have been applied. -/
def State.departed (s : State) (lo hi : Nat) : Bool :=
  s.cores.all fun c => c.2.waiting.all fun e => decide (e.id < lo) || decide (hi ≤ e.id)

/-- The first phase makes recalls, once their departures find room; the second passes once these are over. -/
def recallPhase (c : Ctx) (s : State) (room : Bool) (start : State → State) (isOver : Nat → Nat → State → Bool) (go : State → Act) : Act :=
  match SMap.get none s.here.relWait (waitLo c.ex), SMap.get none s.here.relWait (waitHi c.ex) with
  | some lo, some hi =>
    if isOver lo hi s then
      go (s.modHere fun st =>
        { st with relWait := SMap.set none (SMap.set none st.relWait (waitLo c.ex) none) (waitHi c.ex) none })
    else .hold
  | _, _ => if !room then .hold else .wait fun s =>
    let lo := s.nextId
    let s := start s
    s.modStream c.id fun st =>
      { st with relWait := SMap.set none (SMap.set none st.relWait (waitLo c.ex) (some lo)) (waitHi c.ex) (some s.nextId) }

/-! ## TLBINV (R325) -/

/-- What a TLBINV names: an address space, one page of it, or everything. -/
inductive TlbWhat where
  | asid (a : BitVec 16)
  | page (a : BitVec 16) (va : Nat)
  | all
  deriving DecidableEq, Repr

def TlbWhat.tlb (w : TlbWhat) (e : TlbEntry) : Bool :=
  match w with
  | .asid a => e.asid == a
  | .page a va => e.covers a va
  | .all => true

def TlbWhat.kv (w : TlbWhat) (e : KvEntry) : Bool :=
  match w with
  | .asid a => e.asid == a
  | .page _ _ => false
  | .all => true

/-- The size of the page that an address lies in, as any cached translation or the tables have it. -/
def State.pageSize (s : State) (a : BitVec 16) (va : Nat) : Nat :=
  let es := s.cores.flatMap (fun c => c.2.tlb) ++ s.benches.flatMap fun b => b.2.tlb
  let hit := (es.filter fun e => e.covers a va).map fun e => e.tr.size
  let hit := match s.walk a va with | .ok t => t.size :: hit | _ => hit
  hit.foldl max 65536

/-- An open register is bound through what is named. -/
def TlbWhat.reg (w : TlbWhat) (s : State) (l : LineReg) : Bool :=
  l.st == .opened && (l.mode == 4 || (l.mode != 3 && !l.windowed)) &&
  (match w with
   | .all => true
   | .asid a =>
     if l.mode = 4 then l.key / 4 / 2 ^ 63 == a.toNat else keyAsid l.key == a
   | .page a va =>
     let z := if l.size = 0 then s.pageSize a va else l.size
     l.mode != 4 && keyAsid l.key == a && 128 * l.line / z == va / z)

/-- The registers bound through what is named. -/
def State.boundBy (s : State) (w : TlbWhat) : List LineRef := s.boundRegs.filter fun r => w.reg s (s.lineAt r)

/-- Drops the translations named and recalls the registers bound through them. -/
def State.invalidate (s : State) (w : TlbWhat) : State :=
  let regs := s.boundBy w
  let cs := s.cores.map fun p =>
    (p.1, { p.2 with tlb := p.2.tlb.filter fun e => !w.tlb e, kvc := p.2.kvc.filter fun e => !w.kv e })
  let bs := s.benches.map fun p => (p.1, { p.2 with tlb := p.2.tlb.filter fun e => !w.tlb e })
  regs.foldl (fun s r => s.recallReg r) { s with cores := cs, benches := bs }

/-- Every engine unit that entered a lehr before a number has landed, and so has every bag whose rows have been read. -/
def State.unitsOver (s : State) (hi : Nat) : Bool :=
  s.cores.all fun c => (c.2.waiting.all fun e =>
    (match e.work with | .engine _ _ _ _ => false | _ => true) || decide (hi ≤ e.id)) &&
    c.2.cmds.all fun k => (match k.kind with | .emb _ _ _ _ _ _ _ true => false | _ => true) || decide (hi ≤ k.id)

/-- The uses of a form of TLBINV, and what it names; none for an ASID above 16 bits. -/
def tlbUses : TlbForm → List Use
  | .asid a => [u1 a]
  | .page a b => [u1 a, u2 b]
  | .all => []
def State.tlbWhat (s : State) (f : TlbForm) (i : Nat) : Option TlbWhat :=
  let asid := fun (a : Src) => if (s.src a i).toNat < 65536 then some ((s.src a i).setWidth 16) else none
  match f with
  | .asid a => (asid a).map .asid
  | .page a b => (asid a).map fun x => .page x (s.srcPair b i).toNat
  | .all => some .all

def execTlbinv (g : Guard) (f : TlbForm) (s : State) : Host.Outcome State Fault Refusal :=
  issue { g := g, uses := tlbUses f, cls := .a, level := 2 }
    (fun c s =>
      match s.tlbWhat f (low c.ex) with
      | none => c.illegal
      | some w =>
        let inner := fun (s : State) => recallPhase c s (s.recallTakes c.id.team (s.boundBy w)) (fun s =>
            (s.modStream c.id fun st =>
              { st with relWait := (maskLanes c.ex).foldl (fun m i => SMap.set none m i none) st.relWait }).invalidate w)
          (fun lo hi s => s.departed lo hi && s.unitsOver hi) fun s => .done (s.acquire c.id .package)
        if (SMap.get none s.here.relWait (waitLo c.ex)).isSome then inner s
        else releaseFirst c s .package (fun s => (s.beginRelease c.id .package).askCkpt c.id.team) (fun d s => s.allReleased c.id d) inner) s

/-! ## RECALL (R326) -/

/-- The physical line of a register that is not EMPTY: as it was opened, or as its address translates now. -/
def State.physLine (s : State) (r : LineRef) : Option Nat :=
  let l := s.lineAt r
  let x := (s.group r.team r.grp).ctxAt r.depth
  if l.mode = 3 ∨ l.windowed then none
  else if l.st = .opened ∧ l.mode ≠ 1 then (if l.host then none else some (l.pa / 128))
  else if l.mode = 4 then
    match s.kvWalk x.asid x.kvroot l.line false, s.kvDesc x.kvroot with
    | .ok e, some d => some ((e.frame + d.lineOff l.line) / 128)
    | _, _ => none
  else
    match s.walk (keyAsid l.key) (128 * l.line) with
    | .ok t => if t.host then none else some (t.addr (s.team r.team).die (128 * l.line) / 128)
    | _ => none

/-- The registers that RECALL names. -/
def State.recalled (s : State) (f : RecallForm) (i : Nat) : List LineRef :=
  s.boundRegs.filter fun r =>
    let l := s.lineAt r
    (l.st == .opened || l.st == .opening) && (match f with
      | .va a b => l.mode != 3 && l.mode != 4 && (keyAsid l.key).toNat == (s.src a i).toNat &&
          l.line == (s.srcPair b i).toNat / 128
      | .pa b => s.physLine r == some ((s.srcPair b i).toNat / 128))

def execRecall (g : Guard) (f : RecallForm) (s : State) : Host.Outcome State Fault Refusal :=
  issue { g := g, uses := (match f with | .va a b => [u1 a, u2 b] | .pa b => [u2 b]), cls := .a, level := 2 }
    (fun c s =>
      let rs := s.recalled f (low c.ex)
      recallPhase c s (s.recallTakes c.id.team rs) (fun s => rs.foldl (fun s r => s.recallReg r) s) (fun lo hi s => s.departed lo hi) fun s => .done s) s

/-! ## Redundant pairs (R376-R379) -/

/-- The record of a write as a copy keeps it: the new team's, before its first checkpoint. -/
def Entry.copyFor (e : Entry) (t : Nat) : Entry :=
  { e with log := e.log.map fun w => { w with team := t, date := 0 }, pend := 0 }

/-- A leader's line-store entries in the trailing team's names: its scratchpad, and shadows of the lines its registers bind. -/
def State.copyLines (s : State) (t t' : Nat) (g : Group) : State :=
  let c := s.teamCore t
  let c' := s.teamCore t'
  let pads := (s.core c).lines.filter fun p => keyKind p.1 == 1 && p.1 / 4 / 2 ^ 14 == t
  let s := pads.foldl (fun s p => s.modEntry c' (scratchKey t' (p.1 / 4 % 2 ^ 14)) fun _ => p.2.copyFor t') s
  g.c.lines.foldl (fun s l =>
    if l.2.mode = 3 ∨ l.2.st = .empty then s
    else s.modEntry c' (shadowKey t' l.2.key) fun _ => (s.entry c l.2.key).copyFor t') s

/-- The trailing group of a leader (R376, R377). -/
def Group.trail (g : Group) (t' pair : Nat) (date : Nat) : Group :=
  let re := fun (l : LineReg) =>
    if l.st = .empty then l else { l with key := if l.mode = 3 then scratchKey t' l.line else shadowKey t' l.key }
  { g with c.lines := g.c.lines.map fun p => (p.1, re p.2), dmr := .trailer pair, wait := date }

/-- The core of the bench that takes a trailing team. -/
def State.trailCore (s : State) (t : Nat) : Option CoreId :=
  bestCore (s.team t).need ((s.benchCores (benchKey (s.teamCore t))).filter fun p => p.1 != s.teamCore t)

/-- Forms a pair: the trailing team is admitted with a copy of the leader, and the pair's checkpoint is asked for. -/
def State.formPair (s : State) (t g : Nat) (core : CoreId) : State :=
  let (p, s) := s.fresh
  let (t', s) := s.fresh
  let x := s.team t
  let lead : Group := { x.group g with dmr := .leader p, wait := s.time }
  let trail := (x.group g).trail t' p s.time
  let y : Team := { x with core := core.core, die := core.die, journal := [], replay := [], pending := none, wantCkpt := false,
                           recalls := [], counts := [], prefetch := [], poisoned := [], drain := none, saving := none }
  let y : Team := y.setGroup g trail
  let s := (s.setTeam t' { y with safe := ⟨y.st, 0⟩ }).setGroup t g lead
  let s := s.copyLines t t' (x.group g)
  let s := s.seat t'
  let q : Pair := ⟨p, t, t', [], [], [], 0, 0, some s.time, none, 0, 0⟩
  let s := s.modBench (benchKey core) fun b =>
    if field b.inject.toNat 0 2 = 3 ∧ b.injPair = none then { b with pairs := b.pairs ++ [q], injPair := some p, injCount := 0 }
    else { b with pairs := b.pairs ++ [q] }
  let s := trail.c.lines.foldl (fun s l =>
    if l.2.st = .opening then s.later 1 (.lineFetchLands ⟨t', g, trail.depth, false, false, l.1⟩) else s) s
  s.askCkpt t

/-- Ends a pair: the trailing team is discarded, the leader is alone. -/
def State.endPair (s : State) (t g p : Nat) : State :=
  let b := benchKey (s.teamCore t)
  let s := match (s.bench b).pairs.find? fun q => q.id == p with
    | none => s
    | some q =>
      let u := q.trailer
      let c := s.teamCore u
      let s := s.unseat u
      let mine := fun (key : Nat) => (keyKind key == 1 && key / 4 / 2 ^ 14 == u) || (keyKind key == 3 && key / 4 % 2 ^ 64 == u)
      let s := s.modCore c fun k => { k with lines := k.lines.filter fun l => !mine l.1 }
      let s := (s.dropFetched u).setTeam u .off
      { s with agenda := s.agenda.filter fun e => !eventOfTeam u e.2, toIssue := s.toIssue.filter fun k => k.team != u }
  let s := s.modBench b fun k => { k with pairs := k.pairs.filter fun q => q.id != p,
                                          injPair := if k.injPair = some p then none else k.injPair }
  s.modGroup t g fun x => { x with dmr := .alone }

/-- An engine command of a team is not complete. -/
def State.teamCmds (s : State) (t : Nat) : Bool := (s.core (s.teamCore t)).cmds.any fun k => k.team == t && decide (k.state < 3)

def execDmrbeg (g : Guard) (d : Dst) (s : State) : Host.Outcome State Fault Refusal :=
  issue { g := g, uses := [d1 d], cls := .a, noHandler := true, noCallee := true, noDmr := true, lanes := false,
          illegal := !gateDst d || s.myGroup.split || decide (1 < s.myTeam.st.groups.length) || s.myTeam.cluster.isSome }
    (fun c s =>
      let t := c.id.team
      if c.iss ≠ s.here.amask then c.uniformity
      else if c.ex = 0 then .done s
      else if s.teamCmds t || s.here.busy then .hold
      else if 8 ≤ (s.bench (benchKey s.myCore)).pairs.length then .done (s.setDst d c.ex fun _ => 2)
      else
        match s.trailCore t with
        | none => .done (s.setDst d c.ex fun _ => 1)
        | some core =>
          .jump (((s.setDst d c.ex fun _ => 0).advance c.id c.iss).formPair t c.id.grp core)) s

/-- A trailing group stands at its DMREND: it has made the record. -/
def State.trailerAt (s : State) (q : Pair) : Bool := (s.team q.trailer).marked

/-- Asks for the last checkpoint of a pair, which ends when that is safe (R380). -/
def State.endSoon (s : State) (t p : Nat) : State := (s.modPair t p fun q => { q with ending := some s.time }).askCkpt t

/-- DMREND: both groups make their records; once all have matched the leader passes on, and issues again when the pair's
checkpoint is safe and the trailing team has ended. -/
def execDmrend (g : Guard) (s : State) : Host.Outcome State Fault Refusal :=
  issue { g := g, cls := .a, noHandler := true, noCallee := true, dmrOnly := true, lanes := false }
    (fun c s =>
      let mark := SMap.get none s.here.relWait (recordMark c.ex)
      if c.iss ≠ s.here.amask then c.uniformity
      else if c.ex = 0 then .done s
      else
        match s.myGroup.dmr, s.dmrPair c.id.team c.id.grp with
        | .leader p, some q =>
          match mark with
          | none => .wait fun s => ((s.record 0xE6 c.ex []).pairIssued).setMark c.ex (some 0)
          | some _ =>
            if s.trailerAt q && q.recsL.isEmpty && q.recsT.isEmpty then
              .jump (((((s.setMark c.ex none).advance c.id c.iss).modMyGroup fun x => { x with wait := s.time })).endSoon c.id.team p)
            else .hold
        | .trailer _, some _ =>
          if mark.isSome then .hold else .wait fun s => (s.record 0xE6 c.ex []).setMark c.ex (some 0)
        | _, _ => .done ((s.setMark c.ex none).modMyGroup fun x => { x with dmr := .alone })) s

/-- Compares the first records of a pair (R378, R379): a mismatch counts and rolls both groups back. -/
def execCompareRecord (b p : Nat) (s : State) : Host.Outcome State Fault Refusal :=
  .next <|
    match (s.bench b).pairs.find? fun q => q.id == p with
    | none => s
    | some q =>
      match q.recsL, q.recsT with
      | l :: ls, r :: rs =>
        let put := fun (q' : Pair) =>
          s.modBench b fun k => { k with pairs := k.pairs.map fun x => if x.id = p then q' else x }
        if l.1 % 2 ^ 32 = r.1 % 2 ^ 32 ∧ l.2 = r.2 then
          let s := put { q with recsL := ls, recsT := rs }
          if ls.isEmpty || rs.isEmpty then s else s.later 1 (.compareRecord b p)
        else
          let s := put { q with recsL := [], recsT := [], strikes := q.strikes + 1, slot := l.1 / 2 ^ 32 }
          let s := (s.modTeam q.leader fun t => { t with blocked := some s.time }).modTeam q.trailer
            fun t => { t with blocked := some s.time }
          s.later 0 (.rollback q.leader)
      | _, _ => s

/-! ## ERET (R354, R389, R395) -/

/-- The address space of a team, which a call does not change (R382, R384). -/
def Team.asid (t : Team) : BitVec 16 := ((t.st.groups.head?).map fun q => (q.2.ctxAt 0).asid).getD 0

/-- The byte of a save area's header that holds STATE (R384). -/
def stateByte (area : DWord) : Nat := area.toNat + 4

/-- A line register as a descriptor has it (R30, R395). -/
def State.savedLine (s : State) (asid : BitVec 16) (team : Nat) (x : Nat) : LineReg :=
  let mode := field x 2 3
  let line := field x 64 63
  if field x 0 2 = 0 then .empty
  else
    { LineReg.empty with
      st := .recalled, mode := mode, line := line,
      key := if mode = 3 then scratchKey team line else if mode = 4 then kvKey asid line else s.lineKey team asid line }

/-- A reserved bit or MODE of a descriptor (R30). -/
def descriptorBad (x : Nat) : Bool := field x 6 58 != 0 || field x 127 1 != 0 || decide (4 < field x 2 3)

/-- The address of a group's descriptors in a save area (R383, R385). -/
def Team.descAt (t : Team) (area : DWord) (g : Nat) : Nat :=
  area.toNat + 0x8000 + 0x40000 * (t.st.groups.findIdx fun q => q.1 == g) + 0x10100

/-- The first ERET of a group after a restore reloads its line registers from their descriptors in the area (R395); a reserved
bit there raises the illegal-instruction trap (R30). A missing translation of them holds it; a fatal one leaves the registers
EMPTY (log 32). -/
def reloadLines (c : Ctx) (s : State) (go : State → Act) : Act :=
  let g := s.myGroup
  match s.myTeam.saving with
  | none => go s
  | some area =>
    if !g.sides.all fun x => !(g.stream x).live || (g.stream x).mode == .restore then go s
    else
      let at_ := s.myTeam.descAt area c.id.grp
      let look := fun (s : State) => s.translate (s.teamCore c.id.team) .engRead s.myTeam.asid at_ c.ex c.id.grp 0 0 false
      let r := look s
      match r.1 with
      | .wait => .wait fun s => (look s).2
      | .fatal => go r.2
      | .ok t =>
        let s := r.2
        let desc := fun (n : Nat) => leNat ((List.range 16).map fun i => s.readTr t s.myCore.die (at_ + 16 * n + i))
        if (List.range 16).any fun n => descriptorBad (desc n) then c.illegal
        else
          go (s.modMyGroup fun g => { g with c.lines := (List.range 16).foldl (fun m n =>
            SMap.set .empty m n (s.savedLine g.c.asid c.id.team (desc n))) [] })

/-- The end of a restore routine writes STATE 3; a save area that does not translate leaves it unwritten (log 32). -/
def writeState (c : Ctx) (s : State) (v : Byte) (go : State → Act) : Act :=
  match s.myTeam.saving with
  | none => go s
  | some area =>
    let look := fun (s : State) =>
      s.translate (s.teamCore c.id.team) .engWrite s.myTeam.asid (stateByte area) c.ex c.id.grp 0 0 false
    let r := look s
    match r.1 with
    | .wait => .wait fun s => (look s).2
    | .fatal => go r.2
    | .ok t => go (r.2.putBytes (s.team c.id.team).die (fun _ => some t) [(stateByte area, v)] [])

/-- A stream of the team is still in a restore routine. -/
def Team.restoring (t : Team) : Bool :=
  t.st.groups.any fun q => q.2.c.a.mode == .restore || q.2.c.x.mode == .restore

/-- Leaves handler or routine mode; held traps come next (R344). -/
def State.returnFrom (s : State) (id : StreamId) (again : Bool) : State :=
  let s := s.leaveHandler id again
  if (s.stream id).traps.isEmpty then s else s.later 1 (.trapEntry id)

/-- The restored group forms its pair again (R395). -/
def State.reformPair (s : State) (id : StreamId) (core : Option CoreId) : State :=
  let s := s.modTeam id.team fun x => { x with led := false }
  match core with
  | some k => s.formPair id.team id.grp k
  | none => s

def execEret (g : Guard) (r : Bool) (s : State) : Host.Outcome State Fault Refusal :=
  issue { g := g, level := 1, handlerOnly := true, lanes := false, illegal := s.here.mode == .save }
    (fun c s =>
      if c.iss ≠ s.here.amask then c.uniformity
      else if c.ex = 0 then .done s
      else if s.here.mode ≠ .restore then endFirst c s (s.here.kept.m0 &&& s.here.kept.amask) <| .jump (s.returnFrom c.id r)
      else
        let led := s.myTeam.led
        let core := if led then s.trailCore c.id.team else none
        if led && (core.isNone || decide (8 ≤ (s.bench (benchKey s.myCore)).pairs.length)) then .hold
        else
          reloadLines c s fun s =>
            if led then .jump (((s.returnFrom c.id r).reformPair c.id core).later 1 (.restoreLoad c.id.team))
            else
              writeState c s 3 fun s =>
                .jump ((s.returnFrom c.id r).modTeam c.id.team fun t => if t.restoring then t else { t with saving := none })) s

/-! ## HALT (R351, R389, R390) -/

/-- Every stream of a team that is being saved has ended its routine. -/
def Team.routinesOver (t : Team) : Bool :=
  t.st.groups.all fun q => q.2.sides.all fun x =>
    let st := q.2.stream x
    !st.live || (st.mode == .save && st.amask == 0)

def execHalt (g : Guard) (s : State) : Host.Outcome State Fault Refusal :=
  issue { g := g, level := 1 }
    (fun c s =>
      if s.here.mode = .save ∨ s.here.mode = .restore then
        let s := s.modHere fun st => { st with amask := 0 }
        .jump (if s.myTeam.routinesOver then s.later 1 (.saveSpill c.id.team) else s)
      else if [false, true].any fun x => !s.resultsIn { c.id with x := x } then .hold
      else
        .done ((s.settleGroup c.id.team c.id.grp).modMyGroup fun x => { x with halted := true })) s

end Sys2Proof.Machine
end

