-- ==== Sys2Proof/Machine/Departs.lean ====
section
/-!
DEFINITION. Walks, page faults and their answers (13 R288-R294), the cullet log (R295), and the writes that the lehr has
released, applied at their points of coherence (09 R206, R207, R217; 12 R278-R280).
-/

namespace Sys2Proof.Machine

/-! ## The cullet log (R295) -/

/-- A record's page holds one of the smallest pages. -/
def Cullet.covers (r : Cullet) (page : Nat) : Bool := decide (r.page ≤ page) && decide (page < r.page + r.span)

/-- The writes of a core that the lehr has released before this one and that are not applied. -/
def Core.ahead (c : Core) (e : LehrEntry) : List LehrEntry := c.lehr.filter fun x => x.sent && decide (x.rank < e.rank)

/-- One of them is to a page of this one. -/
def Core.behind (c : Core) (e : LehrEntry) : Bool := (c.ahead e).any fun x => x.work.pages.any fun p => e.work.pages.contains p

/-- The log holds a record of a page of this write. -/
def Core.logged (c : Core) (e : LehrEntry) : Bool := c.cullet.any fun r => e.work.pages.any fun p => r.covers p

/-- Device writes reach host memory in the order of their release through the lehr (R220): each waits for the earlier ones of
its core, those in the log included. -/
def Core.hostTurn (c : Core) (e : LehrEntry) : Bool :=
  c.cullet.isEmpty && (c.ahead e).all fun x => x.work.pages.isEmpty

/-- Two updates of one issue (R279). -/
def LehrEntry.sameIssue (e x : LehrEntry) : Bool :=
  e.isUpdate && x.isUpdate && e.team == x.team && e.grp == x.grp && e.x == x.x && e.date == x.date

/-- The address that a write's fault names, and its lanes (R291). -/
def LWork.faultAddr : LWork → DWord × Mask
  | .depart _ va _ _ _ _ => (BitVec.ofNat 64 va, 0)
  | .update _ _ _ _ lead lanes => (lead, lanes)
  | _ => (0, 0)

/-- What tells the walks of writes apart: the issue of an update, whose updates to one page share a walk, or the departure. -/
def LehrEntry.who (e : LehrEntry) : Nat :=
  if e.isUpdate then e.date + 2 ^ 64 * (2 * e.team + bit01 e.x) else e.id

def State.dropEntry (s : State) (c : CoreId) (id : Nat) : State :=
  s.modCore c fun k => { k with lehr := k.lehr.filter fun e => e.id != id }

/-- A write moves from the lehr into the log: an update joins the record of its issue on its page, any other write has a
record of its own (R279, R295). -/
def State.logWrite (s : State) (c : CoreId) (e : LehrEntry) (rec : Option FaultRec) : State :=
  let (id, s) := s.fresh
  let s := s.dropEntry c e.id
  let asid := match e.work with
    | .depart a _ _ _ _ _ => a
    | .update _ a _ _ _ _ => a
    | _ => 0
  let p := s.pageOf asid e.work.faultAddr.1.toNat
  let page := (e.work.pages.head?).getD 0
  let mine := fun (r : Cullet) => r.covers page && r.entries.any fun x => x.sameIssue e
  let new : Cullet := ⟨id, memPage asid p.1, p.2 / 65536, rec, [e]⟩
  s.modCore c fun k =>
    if k.cullet.any mine then
      { k with cullet := k.cullet.map fun r => if mine r then { r with frec := r.frec <|> rec, entries := r.entries ++ [e] } else r }
    else { k with cullet := k.cullet ++ [new] }

/-- The stream that takes the trap of a discarded write: the A stream of a departure's group, or the issuing stream of an
update, in the call that made the write; none once that has ended (R294). -/
def State.discardTrap (s : State) (e : LehrEntry) : State :=
  let x := e.x && e.isUpdate
  let g := s.group e.team e.grp
  let id : StreamId := ⟨e.team, e.grp, x⟩
  let f := e.work.faultAddr
  let r : TrapRec := ⟨8, 0, f.1, f.2⟩
  if !(s.team e.team).live || !g.live then s
  else
    match (List.range (g.depth + 1)).find? fun d => g.callAt d == e.call with
    | none => s
    | some d =>
      if !((g.ctxAt d).stream x).live then s
      else if d = g.depth then s.lateTrap id r
      else s.holdTrap id d r

/-- A write that has met a fatal translation is discarded, with the other updates of its issue to that page. -/
def State.discard (s : State) (c : CoreId) (e : LehrEntry) : State :=
  let gone := fun (x : LehrEntry) => x.id == e.id || (x.sameIssue e && x.work.faultAddr.1 == e.work.faultAddr.1)
  (s.modCore c fun k => { k with lehr := k.lehr.filter fun x => !gone x }).discardTrap e

/-- The records of a page leave the log. -/
def State.takeRecords (s : State) (c : CoreId) (page : Nat) : List Cullet × State :=
  ((s.core c).cullet.filter fun r => r.covers page,
    s.modCore c fun k => { k with cullet := k.cullet.filter fun r => !r.covers page })

/-- The records of a page are replayed in log order, before every write that came after them. -/
def State.replayPage (s : State) (c : CoreId) (page : Nat) : State :=
  let r := s.takeRecords c page
  let es := r.1.flatMap (·.entries)
  let s := r.2.modCore c fun k => { k with lehr := es ++ k.lehr }
  (es.foldl (fun s e => s.later 1 (e.event c)) s).releaseLehr c

/-- The records of a page are discarded, each with its trap. -/
def State.discardPage (s : State) (c : CoreId) (page : Nat) : State :=
  let r := s.takeRecords c page
  ((r.1.filterMap fun x => x.entries.head?).foldl (fun s e => s.discardTrap e) r.2).releaseLehr c

/-! ## Walks and faults (R288-R294) -/

/-- The fault record of a walk. -/
def State.faultRec (s : State) (c : CoreId) (w : Walk) : FaultRec :=
  { kind := w.need, logged := w.logged, asid := w.asid, lanes := w.lanes, addr := w.addr, pkg := s.pkg.id, die := c.die,
    core := c.core, grp := w.grp, ticket := w.ticket }

/-- A walk ends in a fatal translation: the writes that wait for it in the log are discarded; any other access meets it
when it looks again. -/
def State.walkFatal (s : State) (c : CoreId) (w : Walk) : State :=
  let page := memPage w.asid w.addr.toNat
  if w.logged && (s.core c).cullet.any fun r => r.covers page then (s.dropWalk c w.id).discardPage c page
  else s.modWalk c w.id fun w => { w with phase := .fatal }

/-- The command whose unit's walk this is suspends (R253). -/
def State.suspend (s : State) (c : CoreId) (w : Walk) : State :=
  if w.need ≠ .engRead ∧ w.need ≠ .engWrite ∧ w.need ≠ .kvFill then s
  else
    (s.core c).cmds.foldl (fun s k =>
      if k.id + 1 = w.who / 64 then
        s.modCmd c k.id fun k => { k with stopped := k.stopped.map fun p => (p.1, p.2 || k.tag.isNone || p.1 == w.who % 64) }
      else s) s

/-- A walk of the same issue for a lower lane is not over: its record goes first (R279, R292). -/
def Core.lowerWalks (c : Core) (w : Walk) : Bool :=
  c.walks.any fun v => (v.phase == .walking || v.phase == .answered) && v.need == w.need && v.grp == w.grp && v.who == w.who && v.lanes &&& w.lanes == 0 &&
    v.lanes != 0 && decide (low v.lanes < low w.lanes)

/-- A walk ends in a missing translation: a record travels to the fault's home (R290). A package outside the fabric domain
makes the fault fatal; a record to another package leaves by the governor, and its answer is an input (log 25). -/
def State.walkMissing (s : State) (c : CoreId) (w : Walk) (home : Nat × Nat) : State :=
  if home.1 ≠ s.pkg.id ∧ !Config.inDomain home.1 then s.walkFatal c w
  else
    let (n, s) := s.fresh
    let s := (s.modWalk c w.id fun w => { w with phase := .faulted, slot := 0, sent := n }).suspend c w
    if home.1 = s.pkg.id then s.later 1 (.faultRecord home.2 c w.id (s.faultRec c w)) else s.sendOut home.1

def execPageWalk (c : CoreId) (id : Nat) (s : State) : Host.Outcome State Fault Refusal :=
  .next <|
    match (s.core c).walks.find? fun w => w.id == id with
    | none => s
    | some w =>
      if w.phase = .answered then (s.modWalk c id fun w => { w with phase := s.walkAgain c false }).again (.pageWalk c id)
      else if w.phase ≠ .walking then s
      else if (s.core c).lowerWalks w then s.again (.pageWalk c id)
      else
        match s.walkFor w.need w.asid w.addr.toNat with
        | .ok t =>
          let s := (s.tlbPut c w.asid w.addr.toNat t).dropWalk c id
          if w.logged then s.replayPage c (memPage w.asid w.addr.toNat) else s
        | .fatal => s.walkFatal c w
        | .missing => s.walkMissing c w (s.faultHome c.die w.asid w.addr.toNat)

/-- The descriptor that a key-value walk reads: that of its root, or what KVFILL read at issue (R267). -/
def State.walkDesc (s : State) (c : CoreId) (w : Walk) : Option KvDesc :=
  if w.need = .kvFill then
    ((s.core c).cmds.find? fun k => k.id + 1 == w.who / 64).bind fun k =>
      match k.kind with
      | .kvfill _ _ _ _ _ _ d => KvDesc.ofNat d
      | _ => none
  else s.kvDesc w.root

/-- Key-value faults go to the fault processor that the descriptor names (R301). -/
def execKvWalk (c : CoreId) (id : Nat) (s : State) : Host.Outcome State Fault Refusal :=
  .next <|
    match (s.core c).walks.find? fun w => w.id == id with
    | none => s
    | some w =>
      if w.phase = .answered then (s.modWalk c id fun w => { w with phase := s.walkAgain c true }).again (.kvWalk c id)
      else if w.phase ≠ .walking then s
      else
        let d? := s.walkDesc c w
        match s.kvWalkIn d? w.asid w.addr.toNat (w.need == .kvRw), d? with
        | .ok e, _ => (s.kvPut c e).dropWalk c id
        | .missing, some d => s.walkMissing c w (d.fppkg, d.fpdie)
        | _, _ => s.walkFatal c w

def kindCode : FaultKind → Nat
  | .fetch => 0 | .openRead => 1 | .openRw => 2 | .amo => 3 | .departure => 4 | .red => 5 | .engRead => 6 | .engWrite => 7
  | .kvRead => 8 | .kvRw => 9 | .kvFill => 10

/-- The 256 bits of a record, with RESP 0 (R291). -/
def recordBits (r : FaultRec) (seq : Nat) : Nat :=
  kindCode r.kind + 2 ^ 6 * bit01 r.logged + 2 ^ 16 * r.asid.toNat + 2 ^ 32 * r.lanes.toNat + 2 ^ 64 * r.addr.toNat +
  2 ^ 128 * (r.pkg % 1024) + 2 ^ 138 * (r.die % 4) + 2 ^ 140 * (r.core % 256) + 2 ^ 148 * (r.grp % 32) +
  2 ^ 160 * r.ticket.toNat + 2 ^ 192 * (seq % 2 ^ 32)

def ringAddr (d : Die) (n : Nat) : Nat := d.ringBase + 32 * (n % 4096)

/-- A walk's `slot` names the ring and the place of its record there; 0 is none. -/
def slotName (home n : Nat) : Nat := 4 * n + home % 4 + 1

/-- The next slot of a die's ring still holds a record without its answer, or one whose access has not read its answer, or
the ring has no base yet (log 25). -/
def State.ringFull (s : State) (home : Nat) : Bool :=
  let d := s.die home
  d.ringBase == 0 || (decide (4096 ≤ d.ringHead) && (field (s.readNat 0 (ringAddr d d.ringHead) 1) 4 2 == 0 ||
    s.cores.any fun p => p.2.walks.any fun w => w.phase == .faulted && w.slot == slotName home (d.ringHead - 4096)))

/-- Appends the record at the head of a die's queue; SEQNO counts it (log 25). -/
def State.putRecord (s : State) (home : Nat) : State :=
  let d := s.die home
  match d.waiting with
  | [] => s
  | (c, id, rec) :: rest =>
    if s.ringFull home then s
    else
      let a := ringAddr d d.ringHead
      let s := (s.writeNat 0 a 32 (recordBits rec (d.seqno + 1).toNat)).noteWrite (memWatch a)
      let s := s.modCore c fun k => { k with walks := (k.walks.filter fun w => !(w.id == id && w.phase == .over)).map fun w =>
        if w.id = id then { w with slot := slotName home d.ringHead } else w }
      let s := s.setDie home { d with waiting := rest, seqno := d.seqno + 1, ringHead := d.ringHead + 1 }
      s.again (.faultResponse c ⟨id, none⟩)

/-- A record that the core sent earlier to this home is still under way. -/
def State.sentBefore (s : State) (home : Nat) (c : CoreId) (id : Nat) : Bool :=
  let at_ := fun (n : Nat) => (((s.core c).walks.find? fun w => w.id == n).map (·.sent)).getD 0
  s.agenda.any fun p =>
    match p.2 with
    | .faultRecord h k n _ => h == home && k == c && at_ n != 0 && decide (at_ n < at_ id) &&
        !(s.die home).waiting.any fun r => r.1 == c && r.2.1 == n
    | _ => false

/-- A record reaches its home die (R291): one core's in the order it sent them, and records enter the ring in the order of
arrival; while it is full they wait. -/
def execFaultRecord (home : Nat) (c : CoreId) (id : Nat) (rec : FaultRec) (s : State) : Host.Outcome State Fault Refusal :=
  .next <|
    let here := fun (s : State) => (s.die home).waiting.any fun r => r.1 == c && r.2.1 == id
    if s.sentBefore home c id then s.again (.faultRecord home c id rec)
    else
      let s := if here s then s else s.modDie home fun d => { d with waiting := d.waiting ++ [(c, id, rec)] }
      let n := (s.die home).waiting.length
      let s := (List.range n).foldl (fun s _ => s.putRecord home) s
      if here s then s.again (.faultRecord home c id rec) else s

/-- A walk is taken up again after its answer, from the tables afresh, once a walker is free (R1, R289, R293). -/
def State.retryWalk (s : State) (c : CoreId) (w : Walk) : State :=
  (s.modWalk c w.id fun w => { w with phase := s.walkAgain c w.kv, fresh := true, slot := 0, sent := 0 }).later 1
    (if w.kv then .kvWalk c w.id else .pageWalk c w.id)

/-- The package of a walk's fault home (R290). -/
def State.homePackage (s : State) (c : CoreId) (w : Walk) : Nat :=
  if w.kv then ((s.walkDesc c w).map (·.fppkg)).getD s.pkg.id else (s.faultHome c.die w.asid w.addr.toNat).1

/-- A walk's record has gone to another package. -/
def State.recordAway (s : State) (c : CoreId) (w : Walk) : Bool :=
  w.slot == 0 && !s.recordFlies c w.id && !s.outgoing (s.homePackage c w)

/-- The answer of a record (R293): RESP 1 resumes, 2 is fatal; until then the access waits. The answer of a home on another
package comes with the event. -/
def execFaultResponse (c : CoreId) (reply : WalkAnswer) (s : State) : Host.Outcome State Fault Refusal :=
  .next <|
    match (s.core c).walks.find? fun w => w.id == reply.walk with
    | none => s
    | some w =>
      if w.phase ≠ .faulted then s
      else
        match reply.answer with
        | some ok => if !s.recordAway c w then s else if ok then s.retryWalk c w else s.walkFatal c w
        | none =>
          if w.slot = 0 then s
          else
            match field (s.readNat 0 (ringAddr (s.die ((w.slot - 1) % 4)) ((w.slot - 1) / 4)) 1) 4 2 with
            | 1 => s.retryWalk c w
            | 2 => s.walkFatal c w
            | _ => s.again (.faultResponse c reply)

/-! ## Writes at their points of coherence (R206, R207) -/

/-- The updates of the same issue to other pages, for lower lanes, whose translations are not found yet (R279). -/
def State.lowerPages (s : State) (c : CoreId) (e : LehrEntry) (k : FaultKind) (asid : BitVec 16) : List LehrEntry :=
  if !e.isUpdate then []
  else ((s.core c).lehr.takeWhile fun x => x.id != e.id).filter fun x =>
    let a := x.work.faultAddr.1
    x.sameIssue e && a != e.work.faultAddr.1 && !((s.tlbFind c asid a.toNat).any fun t => permits k t)

/-- One of them has not been looked up. -/
def State.lookBefore (s : State) (c : CoreId) (e : LehrEntry) (k : FaultKind) (asid : BitVec 16) : Bool :=
  (s.lowerPages c e k asid).any fun x => (s.walkOf c k asid x.work.faultAddr.1 e.grp e.who).isNone

/-- A write to memory is looked up: it goes on, waits for its walk, joins the log behind the records of lower lanes' pages, or is
discarded (R279, R294, R295). -/
def State.writeLookup (s : State) (c : CoreId) (e : LehrEntry) (k : FaultKind) (asid : BitVec 16) (va : Nat) (lanes : Mask)
    (go : Trans → State → State) : State :=
  let again := fun (s : State) => s.again (e.event c)
  if decide (128 ≤ (s.core c).cullet.length) || (s.core c).behind e || s.lookBefore c e k asid then again s
  else if (s.core c).logged e then (if (s.lowerPages c e k asid).isEmpty then s.logWrite c e none else again s)
  else
    let r := s.translate c k asid va lanes e.grp 0 e.who true
    match r.1 with
    | .ok t => if t.host && !(s.core c).hostTurn e then again s else go t r.2
    | .fatal => r.2.discard c e
    | .wait =>
      match r.2.walkOf c k asid (BitVec.ofNat 64 va) e.grp e.who with
      | some w =>
        if w.phase = .faulted ∧ (s.lowerPages c e k asid).isEmpty then r.2.logWrite c e (some (s.faultRec c w)) else again r.2
      | none => again r.2

/-- The bytes of a departure by address, and the granules that become clean. -/
def departBytes (a : Nat) (bs : List DByte) : Bytes := bs.map fun b => (a + b.off, b.b)

/-- One departure is written to memory: the replica that an MST entry names, where the page is replicated, or the writer's
die's with every byte (R217, R232). -/
def State.departMem (s : State) (c : CoreId) (e : LehrEntry) (va : Nat) (rep : Option Nat) (bs : List DByte) (clean : List Nat)
    (t : Trans) : State :=
  let s := s.dropEntry c e.id
  let die := rep.getD c.die
  if rep.isSome ∧ !t.repl then s
  else
    let s := s.putBytes die (fun _ => some t) (departBytes va bs) []
    if t.host then s else clean.foldl (fun s g => s.setPoison (t.addr die va + 16 * g) false) s

/-- One departure of a key-value line (R302). -/
def State.departKv (s : State) (c : CoreId) (e : LehrEntry) (pa key : Nat) (bs : List DByte) (clean : List Nat) : State :=
  let s := s.dropEntry c e.id
  let s := bs.foldl (fun s b => s.writePa key (pa + b.off) b.b) s
  (clean.foldl (fun s g => s.setPoison (pa + 16 * g) false) s).noteWrite (memWatch pa)

/-- One departure into another member's scratchpad (R228). -/
def State.departPad (s : State) (c : CoreId) (e : LehrEntry) (t off : Nat) (bs : List DByte) : State :=
  let s := s.dropEntry c e.id
  if !(s.team t).live then s
  else
    (s.storeLine (s.teamCore t) (scratchKey t (off / 128))
      { LWrite.mk' e.team e.grp e.date false (bs.map fun b => (b.off, b.b)) with left := bs.map (·.off) }).journalCheck (s.teamCore t)

/-- A departure, or a unit of an engine, that the lehr has released (R206, R251). -/
def execDepartureApplied (c : CoreId) (id : Nat) (s : State) : Host.Outcome State Fault Refusal :=
  .next <|
    match (s.core c).lehr.find? fun e => e.id == id with
    | none => s
    | some e =>
      let again := s.again (.departureApplied c id)
      if !e.sent then s
      else
        match e.work with
        | .depart asid va .mem rep bs clean =>
          s.writeLookup c e .departure asid va 0 fun t s => s.departMem c e va rep bs clean t
        | .depart _ _ (.kv pa key) rep bs clean =>
          if (s.core c).behind e then again
          else if rep.isNone then s.departKv c e pa key bs clean else s.dropEntry c id
        | .depart _ _ (.window t off) rep bs _ =>
          if (s.core c).behind e || !s.journalRoom (s.teamCore t) e.team (scratchKey t (off / 128)) then again
          else if rep.isNone then s.departPad c e t off bs else s.dropEntry c id
        | .engine cmd unit _ o =>
          let host := o.via.any (·.tr.host)
          if (s.core c).behind e || (s.core c).logged e || (host && !(s.core c).hostTurn e) then again
          else s.applyEngine c e cmd unit o
        | _ => s

/-- A RED or SCAT update that the lehr has released is merged at its partition (R236, R280). -/
def execFrUpdateMerge (c : CoreId) (id : Nat) (s : State) : Host.Outcome State Fault Refusal :=
  .next <|
    match (s.core c).lehr.find? fun e => e.id == id with
    | none => s
    | some e =>
      match e.work with
      | .update op asid va x lead lanes =>
        if !e.sent then s
        else
          s.writeLookup c e .red asid lead.toNat lanes fun t s =>
            if t.host then s.discard c e
            else
              let s := ((s.dropEntry c id).farApply c.die t va.toNat op x true).2
              s.noteWrite (memWatch (t.addr c.die va.toNat))
      | _ => s

end Sys2Proof.Machine
end

