-- ==== Sys2Proof/Machine/Float.lean ====
section
/-!
DEFINITION. Floating-point instructions on registers, conversions and special functions (05 R118-R125).
-/

namespace Sys2Proof.Machine

/-! ## FP32 and FP64 (R118-R120) -/

/-- Operands after ABS and the negations (R52). -/
def modA (f : Fmt) (m : FMod) (x : Nat) : Nat := f.modSrc m.abs m.nega x
def modB (f : Fmt) (m : FMod) (x : Nat) : Nat := f.modSrc m.abs m.negb x
def modC (f : Fmt) (m : FMod) (x : Nat) : Nat := f.modSrc m.abs m.negc x

/-- An FP32 instruction of two or three operands. -/
def f32op2 (g : Guard) (m : FMod) (d : Dst) (a b : Src) (f : Nat → Nat → Nat × Flags) (s : State) :
    Host.Outcome State Fault Refusal :=
  issue { g := g, cls := .x, uses := [d1 d, u1 a, u1 b] }
    (fun c s => .done (s.setRes d c.ex fun i => f (modA f32 m (s.src a i).toNat) (modB f32 m (s.src b i).toNat))) s

def execFadd (g : Guard) (m : FMod) (d : Dst) (a b : Src) (s : State) : Host.Outcome State Fault Refusal :=
  f32op2 g m d a b (fpAdd f32 m.rm m.sat) s
def execFmul (g : Guard) (m : FMod) (d : Dst) (a b : Src) (s : State) : Host.Outcome State Fault Refusal :=
  f32op2 g m d a b (fpMul f32 m.rm m.sat) s
def execFfma (g : Guard) (m : FMod) (d : Dst) (a b e : Src) (s : State) : Host.Outcome State Fault Refusal :=
  issue { g := g, cls := .x, uses := [d1 d, u1 a, u1 b, u1 e] }
    (fun c s => .done (s.setRes d c.ex fun i => fpFma f32 m.rm m.sat (modA f32 m (s.src a i).toNat)
      (modB f32 m (s.src b i).toNat) (modC f32 m (s.src e i).toNat))) s
def execFmin (g : Guard) (m : FMod) (d : Dst) (a b : Src) (s : State) : Host.Outcome State Fault Refusal :=
  f32op2 g m d a b (fpMinMax f32 false) s
def execFmax (g : Guard) (m : FMod) (d : Dst) (a b : Src) (s : State) : Host.Outcome State Fault Refusal :=
  f32op2 g m d a b (fpMinMax f32 true) s
def execFcmp (g : Guard) (rel : FRel) (m : FMod) (d : Fin 8) (a b : Src) (s : State) :
    Host.Outcome State Fault Refusal :=
  issue { g := g, cls := .x, uses := [.pout d, u1 a, u1 b] }
    (fun c s =>
      let r := fun i => fpCmp f32 rel (modA f32 m (s.src a i).toNat) (modB f32 m (s.src b i).toNat)
      .done ((s.setPred d c.ex fun i => (r i).1).raise (orFlags c.ex fun i => (r i).2))) s
def execFrnd (g : Guard) (m : FMod) (d : Dst) (a : Src) (s : State) : Host.Outcome State Fault Refusal :=
  issue { g := g, cls := .x, uses := [d1 d, u1 a] }
    (fun c s => .done (s.setRes d c.ex fun i => fpRound f32 m.rm (modA f32 m (s.src a i).toNat))) s

/-- Both elements of a paired 16-bit instruction (R118). -/
def halves (f : Nat → Nat × Flags) : Nat × Flags :=
  let l := f 0
  let h := f 16
  (l.1 + 65536 * h.1, l.2 ||| h.2)
/-- A 16-bit element of a word. -/
def elem16 (w : Word) (lo : Nat) : Nat := w.toNat / 2 ^ lo % 65536
def fmt16 (bf : Bool) : Fmt := if bf then bf16 else f16

def execHadd2 (g : Guard) (bf : Bool) (m : FMod) (d : Dst) (a b : Src) (s : State) : Host.Outcome State Fault Refusal :=
  issue { g := g, cls := .x, uses := [d1 d, u1 a, u1 b] }
    (fun c s => .done (s.setRes d c.ex fun i => halves fun k =>
      fpAdd (fmt16 bf) m.rm m.sat (modA (fmt16 bf) m (elem16 (s.src a i) k)) (modB (fmt16 bf) m (elem16 (s.src b i) k)))) s
def execHmul2 (g : Guard) (bf : Bool) (m : FMod) (d : Dst) (a b : Src) (s : State) : Host.Outcome State Fault Refusal :=
  issue { g := g, cls := .x, uses := [d1 d, u1 a, u1 b] }
    (fun c s => .done (s.setRes d c.ex fun i => halves fun k =>
      fpMul (fmt16 bf) m.rm m.sat (modA (fmt16 bf) m (elem16 (s.src a i) k)) (modB (fmt16 bf) m (elem16 (s.src b i) k)))) s
def execHfma2 (g : Guard) (bf : Bool) (m : FMod) (d : Dst) (a b e : Src) (s : State) :
    Host.Outcome State Fault Refusal :=
  issue { g := g, cls := .x, uses := [d1 d, u1 a, u1 b, u1 e] }
    (fun c s => .done (s.setRes d c.ex fun i => halves fun k =>
      fpFma (fmt16 bf) m.rm m.sat (modA (fmt16 bf) m (elem16 (s.src a i) k)) (modB (fmt16 bf) m (elem16 (s.src b i) k))
        (modC (fmt16 bf) m (elem16 (s.src e i) k)))) s

/-- An FP64 instruction of two operands. -/
def f64op2 (g : Guard) (m : FMod) (d : Dst) (a b : Src) (f : Nat → Nat → Nat × Flags) (s : State) :
    Host.Outcome State Fault Refusal :=
  issue { g := g, cls := .x, uses := [d2 d, u2 a, u2 b] }
    (fun c s => .done (s.setRes64 d c.ex fun i => f (modA f64 m (s.srcDbl a i)) (modB f64 m (s.srcDbl b i)))) s

def execDadd (g : Guard) (m : FMod) (d : Dst) (a b : Src) (s : State) : Host.Outcome State Fault Refusal :=
  f64op2 g m d a b (fpAdd f64 m.rm m.sat) s
def execDmul (g : Guard) (m : FMod) (d : Dst) (a b : Src) (s : State) : Host.Outcome State Fault Refusal :=
  f64op2 g m d a b (fpMul f64 m.rm m.sat) s
def execDfma (g : Guard) (m : FMod) (d : Dst) (a b e : Src) (s : State) : Host.Outcome State Fault Refusal :=
  issue { g := g, cls := .x, uses := [d2 d, u2 a, u2 b, u2 e] }
    (fun c s => .done (s.setRes64 d c.ex fun i => fpFma f64 m.rm m.sat (modA f64 m (s.srcDbl a i))
      (modB f64 m (s.srcDbl b i)) (modC f64 m (s.srcDbl e i)))) s
def execDmin (g : Guard) (m : FMod) (d : Dst) (a b : Src) (s : State) : Host.Outcome State Fault Refusal :=
  f64op2 g m d a b (fpMinMax f64 false) s
def execDmax (g : Guard) (m : FMod) (d : Dst) (a b : Src) (s : State) : Host.Outcome State Fault Refusal :=
  f64op2 g m d a b (fpMinMax f64 true) s
def execDcmp (g : Guard) (rel : FRel) (m : FMod) (d : Fin 8) (a b : Src) (s : State) :
    Host.Outcome State Fault Refusal :=
  issue { g := g, cls := .x, uses := [.pout d, u2 a, u2 b] }
    (fun c s =>
      let r := fun i => fpCmp f64 rel (modA f64 m (s.srcDbl a i)) (modB f64 m (s.srcDbl b i))
      .done ((s.setPred d c.ex fun i => (r i).1).raise (orFlags c.ex fun i => (r i).2))) s

/-! ## Conversions (R121) -/

/-- Source formats and destinations of FCVT. -/
inductive CvtTy where
  | flt (f : Fmt)
  | int (w : Nat) (uns : Bool)

def cvtFrom : CvtOp → CvtTy
  | .f32f64 | .i64f64 | .n64f64 | .i32f64 => .flt f64
  | .f64f32 | .f16f32 | .bf16f32 | .i32f32 | .n32f32 => .flt f32
  | .f32f16 => .flt f16
  | .f32bf16 => .flt bf16
  | .f32i32 | .f64i32 => .int 32 false
  | .f32n32 => .int 32 true
  | .f64i64 => .int 64 false
  | .f64n64 => .int 64 true
def cvtTo : CvtOp → CvtTy
  | .f32f64 | .f32f16 | .f32bf16 | .f32i32 | .f32n32 => .flt f32
  | .f64f32 | .f64i64 | .f64n64 | .f64i32 => .flt f64
  | .f16f32 => .flt f16
  | .bf16f32 => .flt bf16
  | .i32f32 | .i32f64 => .int 32 false
  | .n32f32 => .int 32 true
  | .i64f64 => .int 64 false
  | .n64f64 => .int 64 true

def CvtTy.width : CvtTy → Nat
  | .flt f => f.width
  | .int w _ => w

/-- One conversion of the low bits of x. -/
def cvt (op : CvtOp) (m : FMod) (x : Nat) : Nat × Flags :=
  let w := (cvtFrom op).width
  let x := x % 2 ^ w
  match cvtFrom op, cvtTo op with
  | .flt f, .flt t =>
    let v := f.value (modA f m x)
    let r := roundTo t m.rm m.sat v
    (r.1, r.2 ||| sigFlags [v])
  | .flt f, .int n uns =>
    let r := fpToInt m.rm (intLo n uns) (intHi n uns) (f.value (modA f m x))
    ((BitVec.ofInt n r.1).toNat, r.2)
  | .int _ uns, .flt t =>
    let v : Int := if uns then (x : Int) else if x < 2 ^ (w - 1) then (x : Int) else (x : Int) - 2 ^ w
    roundTo t m.rm m.sat (FVal.ofInt v)
  | .int _ _, .int _ _ => (x, 0)

def execFcvt (g : Guard) (op : CvtOp) (m : FMod) (d : Dst) (a : Src) (s : State) : Host.Outcome State Fault Refusal :=
  let wideS := decide ((cvtFrom op).width = 64)
  let wideD := decide ((cvtTo op).width = 64)
  issue { g := g, cls := .x, uses := [if wideD then d2 d else d1 d, if wideS then u2 a else u1 a] }
    (fun c s =>
      let r := fun i => cvt op m (if wideS then (s.srcPair a i).toNat else (s.src a i).toNat)
      .done (if wideD then s.setRes64 d c.ex r else s.setRes d c.ex r)) s

/-! ## Special functions (R122) -/

/-- A binary32 special function: long-latency. -/
def sfu32 (g : Guard) (la : Fin 16) (neg abs : Bool) (d : Dst) (a : Src) (f : FVal → Nat × Flags) (s : State) :
    Host.Outcome State Fault Refusal :=
  issue { g := g, cls := .x, uses := [d1 d, u1 a], la := some la }
    (fun c s =>
      let r := fun i => f (f32.value (f32.modSrc abs neg (s.src a i).toNat))
      .done (s.longLat c la d 1 (fun _ i => BitVec.ofNat 32 (r i).1) (orFlags c.ex fun i => (r i).2))) s

def execRcp (g : Guard) (la : Fin 16) (neg abs : Bool) (d : Dst) (a : Src) (s : State) :
    Host.Outcome State Fault Refusal := sfu32 g la neg abs d a (fpRcp f32) s
def execRsq (g : Guard) (la : Fin 16) (neg abs : Bool) (d : Dst) (a : Src) (s : State) :
    Host.Outcome State Fault Refusal := sfu32 g la neg abs d a fpRsq s
def execSqrt (g : Guard) (la : Fin 16) (neg abs : Bool) (d : Dst) (a : Src) (s : State) :
    Host.Outcome State Fault Refusal := sfu32 g la neg abs d a (fpSqrt f32) s
def execEx2 (g : Guard) (la : Fin 16) (neg abs : Bool) (d : Dst) (a : Src) (s : State) :
    Host.Outcome State Fault Refusal := sfu32 g la neg abs d a ex2CR s
def execLg2 (g : Guard) (la : Fin 16) (neg abs : Bool) (d : Dst) (a : Src) (s : State) :
    Host.Outcome State Fault Refusal := sfu32 g la neg abs d a fpLg2 s
def execSin (g : Guard) (la : Fin 16) (neg abs : Bool) (d : Dst) (a : Src) (s : State) :
    Host.Outcome State Fault Refusal := sfu32 g la neg abs d a fpSin s
def execCos (g : Guard) (la : Fin 16) (neg abs : Bool) (d : Dst) (a : Src) (s : State) :
    Host.Outcome State Fault Refusal := sfu32 g la neg abs d a fpCos s
def execTanh (g : Guard) (la : Fin 16) (neg abs : Bool) (d : Dst) (a : Src) (s : State) :
    Host.Outcome State Fault Refusal := sfu32 g la neg abs d a fpTanh s

/-- A binary64 special function. -/
def sfu64 (g : Guard) (la : Fin 16) (neg abs : Bool) (d : Dst) (a : Src) (f : FVal → Nat × Flags) (s : State) :
    Host.Outcome State Fault Refusal :=
  issue { g := g, cls := .x, uses := [d2 d, u2 a], la := some la }
    (fun c s =>
      let r := fun i => f (f64.value (f64.modSrc abs neg (s.srcPair a i).toNat))
      .done (s.longLat c la d 2 (fun k i => (BitVec.ofNat 64 (r i).1).extractLsb' (32 * k) 32)
        (orFlags c.ex fun i => (r i).2))) s

def execDrcp (g : Guard) (la : Fin 16) (neg abs : Bool) (d : Dst) (a : Src) (s : State) :
    Host.Outcome State Fault Refusal := sfu64 g la neg abs d a (fpRcp f64) s
def execDsqrt (g : Guard) (la : Fin 16) (neg abs : Bool) (d : Dst) (a : Src) (s : State) :
    Host.Outcome State Fault Refusal := sfu64 g la neg abs d a (fpSqrt f64) s

/-! ## The activation table (R123-R125) -/

/-- Entry k of the current bank. -/
def Team.tblEntry (t : Team) (k : Nat) : Nat :=
  (SMap.get 0 (if t.st.bankCur then t.st.bank1 else t.st.bank0) k).toNat

/-- TBLEV of one lane (R124). The entry is read at issue, from the bank current then (R125). -/
def tblLane (t : Team) (x g h : Nat) : Nat × Flags :=
  match tblIndex x g h with
  | (none, f) => (f32.qnan, f ||| sigFlags [f32.value x, f32.value g, f32.value h])
  | (some k, f) =>
    let e := t.tblEntry k
    let r := tblEval x (field e 0 32) (field e 32 32) (field e 64 32) (field e 96 32)
    (r.1, f ||| r.2)

/-- The name by which poison in an entry of a bank is remembered: lines above every scratchpad name the banks. -/
def bankGranule (t bank k : Nat) : Nat := padGranule (scratchKey t (16128 + 32 * bank + k / 8)) (k % 8)

/-- TBLEV consumes the poison of the entries it reads (R374). -/
def tblPoison (c : Ctx) (s : State) (k : Nat → Option Nat) (go : Act) : Act :=
  let bank := bit01 s.myTeam.st.bankCur
  let bad := fun i => match k i with
    | some n => SMap.get false s.myTeam.st.bankPois (256 * bank + n)
    | none => false
  match (maskLanes c.ex).find? bad with
  | none => go
  | some i => c.consume s (bankGranule c.id.team bank ((k i).getD 0)) (BitVec.ofNat 64 ((k i).getD 0 / 8 * 128))

def execTblev (g : Guard) (la : Fin 16) (d : Dst) (a b e : Src) (s : State) : Host.Outcome State Fault Refusal :=
  issue { g := g, cls := .x, uses := [d1 d, u1 a, u1 b, u1 e], la := some la, noCalleeSp := true, path := some .mx }
    (fun c s =>
      let r := fun i => tblLane s.myTeam (s.src a i).toNat (s.src b i).toNat (s.src e i).toNat
      tblPoison c s (fun i => (tblIndex (s.src a i).toNat (s.src b i).toNat (s.src e i).toNat).1) <|
      .done (s.longLat c la d 1 (fun _ i => BitVec.ofNat 32 (r i).1) (orFlags c.ex fun i => (r i).2))) s

def execTblsw (g : Guard) (s : State) : Host.Outcome State Fault Refusal :=
  issue { g := g, noCalleeSp := true }
    (fun _ s => .done (s.modMyTeam fun t => { t with st := { t.st with bankCur := !t.st.bankCur } })) s

end Sys2Proof.Machine
end

