-- ==== Sys2Proof/Machine/Front.lean ====
section
/-!
DEFINITION. The front end (02 R39-R45, R66, R67): fetching a line, a grant, the write of a long-latency result (R49), and the
trap that waits for its stream (16 R344, 17 R377).
-/

namespace Sys2Proof.Machine

/-- What a target that may not be entered does (R42, R345): a trap, or the halt of the group where it is a handler's entry. -/
def State.closedTarget (s : State) (id : StreamId) (pc : DWord) : State :=
  let st := s.stream id
  if (st.mode = .handler ∧ st.kept.thnd = false) ∨ st.mode = .save then
    s.modGroup id.team id.grp fun g => { g with halted := true }
  else s.takeTrap id ⟨2, 0, pc, st.lanesAt pc⟩

/-- The checks of a fetched line in order: reserved bits, whose trap's TADR is the line address (R344 lists it for this cause where R67
lists the slot; DESIGN CHOICE, log 38), then the target of a checked transfer (R67). -/
def State.acceptLine (s : State) (id : StreamId) (pc : DWord) (l : FetchLine) : State :=
  let st := s.stream id
  if !l.reservedOk then s.takeTrap id ⟨2, 0, BitVec.ofNat 64 (pcAddr pc), st.lanesAt pc⟩
  else if st.check && !l.tgt (pcSlot pc) then s.closedTarget id pc
  else ({ s with marks := s.marks.filter fun m => m.1 != id }.setFetched id (pcLine pc) (some l)).modStream id fun st => { st with check := false }

/-- The fetch has nothing yet: its program counter is not ready until something has happened. -/
def State.fetchHolds (s : State) (id : StreamId) (pc : DWord) : State :=
  { s with held := true }.mark id pc

/-- Fetches the line that a stream needs next; flips are the bits that its first copy has wrong (R43). A page of host memory
holds no code (R287; DEDUCED, log 45). An ENTA or ENTX that is not in the layout of R164 is found here, at the stream's first fetch, and
not at its submission, which R173 leaves open (DEDUCED, log 47). -/
def execFetchLine (id : StreamId) (flips : FetchLine) (s : State) : Host.Outcome State Fault Refusal :=
  .next <|
    match s.needsFetch id with
    | none => s
    | some pc =>
      let st := s.stream id
      if st.check && !pcValid pc then s.closedTarget id pc
      else
        let c := s.teamCore id.team
        let r := s.translate c .fetch (s.group id.team id.grp).c.asid (pcAddr pc) (st.lanesAt pc) id.grp 0 (2 * id.team + bit01 id.x) false
        match r.1 with
        | .wait => r.2.fetchHolds id pc
        | .fatal => r.2.takeTrap id ⟨8, 0, BitVec.ofNat 64 (pcAddr pc), st.lanesAt pc⟩
        | .ok t =>
          if t.host then r.2.takeTrap id ⟨8, 0, BitVec.ofNat 64 (pcAddr pc), st.lanesAt pc⟩ else
          let l := r.2.lineBytes t c.die (pcAddr pc)
          let first := l ^^^ flips
          if first.parityOk then r.2.acceptLine id pc first
          else if l.parityOk then r.2.acceptLine id pc l
          else r.2.takeTrap id ⟨14, 0, BitVec.ofNat 64 (pcAddr pc), st.lanesAt pc⟩

/-- A partition grants one opportunity (R161). -/
def execIssueGrant (c : CoreId) (part : Nat) (s : State) : Host.Outcome State Fault Refusal := .next (s.grant c part)

/-- A long-latency result is written; one of a key-value operation waits for its recalls and is an acquire (R49, R308). -/
def execLongLatencyWriteback (id : StreamId) (n : Nat) (s : State) : Host.Outcome State Fault Refusal :=
  .next <|
    match (s.stream id).pend.find? fun p => p.id == n with
    | none => s
    | some p =>
      if !s.pendReady p then s.again (.longLatencyWriteback id n)
      else
        (s.writeResult id p).endGroup id.team id.grp

/-- A trap whose entry waits, or the oldest held trap once its stream is in normal mode, is taken when the stream's results are
written (R344, R346); a trailing group takes its leader's trap where the leader took it. A group that had to wait for room
ends (R167). -/
def execTrapEntry (id : StreamId) (s : State) : Host.Outcome State Fault Refusal :=
  .next <|
    let st := s.stream id
    match (s.group id.team id.grp).dmr, (s.dmrPair id.team id.grp).map fun q => (q, nextStep q.feed) with
    | .trailer _, some (q, some (.trap n r)) =>
      if q.nT = n then (s.modStream id fun st => { st with traps := st.traps.filter fun t => t.code != r.code }).takeTrap id r
      else s.again (.trapEntry id)
    | .trailer _, some (_, some _) => s.again (.trapEntry id)
    | _, _ =>
      match st.entering, st.traps with
      | some r, _ =>
        if s.entryReady id r then (s.modStream id fun st => { st with entering := none }).trapOne id r else s.again (.trapEntry id)
      | none, [] => s.endGroup id.team id.grp
      | none, r :: rest =>
        if st.mode ≠ .normal ∨ (s.group id.team id.grp).halted then s
        else if !s.entryReady id r || s.trapWaits id then s.again (.trapEntry id)
        else (s.modStream id fun st => { st with traps := rest }).takeTrap id r

end Sys2Proof.Machine
end

