-- ==== Sys2Proof/Machine/Regroup.lean ====
section
/-!
DEFINITION. REGRP (12 R272-R276): the core's regrouping table and the move of the survivors' lanes.
-/

namespace Sys2Proof.Machine

/-! ## Joining -/

/-- As many groups have joined a set as it needs (R272). -/
def RegSet.complete (r : RegSet) : Bool := r.joined.length == r.g

/-- The forming set that a group would join, by launch, role, slot and address space, whatever its g and k. -/
def State.formingSet (s : State) : Option RegSet :=
  (s.core s.myCore).sets.find? fun r => !r.complete &&
    r.launch == s.myTeam.launch && r.role == s.myGroup.role && r.lpc == s.cur.pc && r.asid == s.myAsid

/-- The issuing group has joined a set that is not complete. -/
def State.inSet (s : State) : Bool :=
  (s.core s.myCore).sets.any fun r => r.joined.any fun j => j.1 == s.cur.team && j.2.1 == s.cur.grp

/-- A lane of a mask holds a lock bit (R233). -/
def State.holdsLock (s : State) (m : Mask) : Bool :=
  s.myTeam.st.locks.any fun p => match p.2 with
    | some (g, l) => g == s.cur.grp && decide (l < 32) && m.getLsbD l
    | none => false

/-- The keys of the registers that move (R274). -/
def movedKeys (k : Nat) : List Nat := (List.range k).map vecKey ++ [1, 2, 3, 4, 5, 6, 7].map predKey

/-- A pending result covers a register that moves (R276). -/
def Stream.movePending (st : Stream) (k : Nat) : Bool :=
  let ks := movedKeys k
  (st.pend.any fun p => p.covers.any ks.contains) || st.amos.any fun a => a.covers.any ks.contains

/-! ## The move (R274, R275) -/

/-- What moves with a lane: the vector registers below k, the predicates, the generator, the task and its status. -/
structure Survivor where
  team : Nat
  grp : Nat
  p : Nat
  lane : Nat
  v : List Word
  preds : List Bool
  gen : Word
  task : Option Task
  status : Word

/-- The survivor in a lane of a participant. -/
def State.survivor (s : State) (k : Nat) (id : StreamId) (p i : Nat) : Survivor :=
  let st := s.stream id
  let t := s.team id.team
  { team := id.team, grp := id.grp, p := p, lane := i, v := (List.range k).map fun r => st.vec r i,
    preds := [1, 2, 3, 4, 5, 6, 7].map fun n => (SMap.get 0 st.p n).getLsbD i, gen := st.genOf i,
    task := SMap.get none t.tasks i, status := SMap.get 0 t.taskStatus i }

/-- Puts a survivor into a lane. -/
def Survivor.place (x : Survivor) (dst q : Nat) (pc : DWord) (st : Stream) : Stream :=
  let one := BitVec.twoPow 32 q
  let st := x.v.zipIdx.foldl (fun st w => st.setVec w.2 q w.1) st
  let st := x.preds.zipIdx.foldl (fun st b => st.setPred (Fin.ofNat 8 (b.2 + 1)) one (if b.1 then one else 0)) st
  ((st.setGen q x.gen).setPc q pc).setVec dst q (BitVec.ofNat 32 (x.lane + 32 * x.grp + 1024 * x.p))

/-- The participants in order: by their team's admission, then by GRP (R274). -/
def State.participants (s : State) (r : RegSet) : List (Nat × Nat × Mask) :=
  r.joined.mergeSort fun a b =>
    let x := (s.team a.1).admitted
    let y := (s.team b.1).admitted
    decide (x < y) || (decide (x = y) && (decide (a.1 < b.1) || (decide (a.1 = b.1) && decide (a.2.1 ≤ b.2.1))))

/-- A wave's tasks after a move at a date: those of lanes that do not move on take slots from 32 up, and the new lanes' come
(R275); what stood before is kept aside until the move is safe. -/
def Team.moveTasks (t : Team) (date : Nat) (out : Mask) (new : List Survivor) : Team :=
  let top := t.tasks.foldl (fun n p => max n (p.1 + 1)) 32
  let stay := t.tasks.filter fun p => decide (p.1 < 32) && !out.getLsbD p.1
  let old := t.tasks.filter fun p => decide (32 ≤ p.1)
  let oldS := t.taskStatus.filter fun p => decide (32 ≤ p.1)
  let tasks := stay.zipIdx.foldl (fun m x => SMap.set none m (top + x.2) x.1.2) old
  let stats := stay.zipIdx.foldl (fun m x => SMap.set 0 m (top + x.2) (SMap.get 0 t.taskStatus x.1.1)) oldS
  { t with tasks := new.zipIdx.foldl (fun m x => SMap.set none m x.2 x.1.task) tasks,
           taskStatus := new.zipIdx.foldl (fun m x => SMap.set 0 m x.2 x.1.status) stats,
           tasksWas := some (date, t.tasks, t.taskStatus) }

/-- The move of a wave's tasks is undone by a rollback to a checkpoint before it (R276). -/
def Team.unmoveTasks (t : Team) (date : Nat) : Team :=
  match t.tasksWas with
  | some (d, ts, st) => if date < d then { t with tasks := ts, taskStatus := st, tasksWas := none } else t
  | none => t

/-- Re-forms one participant with its new lanes. -/
def State.reformOne (s : State) (r : RegSet) (j : Nat × Nat × Mask) (new : List Survivor) : State :=
  let id : StreamId := ⟨j.1, j.2.1, false⟩
  let s := s.modStream id fun st => st.setHolds st.amask none
  let s := s.dropLanes id ((s.stream id).amask &&& ~~~j.2.2)
  let m := maskOf fun i => decide (i < new.length)
  let s := s.modStream id fun st =>
    new.zipIdx.foldl (fun st x => x.1.place r.dst x.2 (nextPc r.lpc) st) { st with amask := m }
  let s := s.modGroup j.1 j.2.1 fun g => { ([0, 1, 2, 3].foldl (fun g cv => g.setDecl cv m) g) with wait := s.time }
  if (s.team j.1).wave then s.modTeam j.1 fun t => t.moveTasks s.time j.2.2 new else s

/-- The teams that take part in a set's move. -/
def RegSet.teams (r : RegSet) : List Nat := (r.joined.map (·.1)).eraseDups

/-- Every participating team can take its checkpoint at the move (R276, R366). -/
def State.moveReady (s : State) (r : RegSet) : Bool := r.teams.all s.ckptFree

/-- A complete set re-forms its groups, and at the move every participating team's checkpoint is taken, which links them until it is
safe (R274, R276). -/
def State.reform (s : State) (c : CoreId) (r : RegSet) : State :=
  let ps := s.participants r
  let all := ps.zipIdx.flatMap fun x => (maskLanes x.1.2.2).map fun i => s.survivor r.k ⟨x.1.1, x.1.2.1, false⟩ x.2 i
  let s := ps.zipIdx.foldl (fun s x => s.reformOne r x.1 ((all.drop (32 * x.2)).take 32)) s
  let s := s.modCore c fun k => { k with regMoves := k.regMoves ++ [(s.time, r.teams)] }
  let s := ps.foldl (fun s j => s.endStream ⟨j.1, j.2.1, false⟩) s
  r.teams.foldl (fun s t => s.takeCkpt t) s

/-! ## REGRP (R273) -/

/-- The operands of REGRP: g and k where they are in range. -/
def State.regrpArgs (s : State) (d : Dst) (a b : Src) : Option (Nat × Nat × Nat) :=
  match d, a, b with
  | .v d, .s a, .s b =>
    let g := (s.here.uni a.val).toNat
    let k := (s.here.uni b.val).toNat
    if 1 ≤ g ∧ g ≤ 8 ∧ k ≤ 64 ∧ k ≤ s.myGroup.window false then some (d.val, g, k) else none
  | _, _, _ => none

/-- The group joins its set, or takes a free one of the four; with the g-th group the set re-forms, as soon as every participating
team's checkpoint can be taken, which is asked for meanwhile (R366). -/
def State.joinSet (s : State) (c : Ctx) (d g k : Nat) : Act :=
  let core := s.myCore
  let me := (c.id.team, c.id.grp, c.ex)
  let wait := fun (r : RegSet) (l : Core → List RegSet) => Act.wait fun s =>
    let s := (s.modCore core fun x => { x with sets := l x ++ [r] }).modHere fun st => st.setHolds c.iss (some .regrp)
    if r.complete then r.teams.foldl (fun s t => s.askCkpt t) s else s
  let others := fun (x : Core) => x.sets.filter fun r => r.complete || !(r.launch == s.myTeam.launch && r.role == s.myGroup.role &&
    r.lpc == c.pc && r.asid == s.myAsid)
  match s.formingSet with
  | none =>
    if 4 ≤ (s.core core).sets.length then .hold
    else
      let r : RegSet := ⟨s.myTeam.launch, s.myGroup.role, c.pc, s.myAsid, g, k, d, [me]⟩
      if r.complete && s.moveReady r then .jump (s.reform core r) else wait r (·.sets)
  | some r =>
    let r := { r with joined := r.joined ++ [me] }
    if r.complete && s.moveReady r then .jump ((s.modCore core fun x => { x with sets := others x }).reform core r) else wait r others

/-- REGRP: its checks in order, the wait for pending writes, and the joining. -/
def execRegrp (g : Guard) (d : Dst) (a b : Src) (s : State) : Host.Outcome State Fault Refusal :=
  issue { g := g, uses := [d1 d, u1 a, u1 b], noHandler := true, noCallee := true, noDmr := true, illegal := s.myGroup.split,
          lanes := false }
    (fun c s =>
      let wrong := c.trapOf 13 0 c.pc c.iss
      match s.regrpArgs d a b with
      | none => c.illegal
      | some (dst, n, k) =>
        if c.iss ≠ s.here.amask then c.uniformity
        else if s.inSet then .hold
        else if ([0, 1, 2, 3].any fun cv => s.myGroup.signed cv != 0) ||
            ([0, 1, 2, 3].any fun r => s.myGroup.enrolled r != 0) || s.holdsLock c.ex then wrong
        else if (match s.formingSet with | some r => r.g != n || r.k != k | none => false) then wrong
        else if s.here.movePending k then .hold
        else s.joinSet c dst n k) s

end Sys2Proof.Machine
end

