-- ==== Sys2Proof/Machine/Sync.lean ====
section
/-!
DEFINITION. Fences (R239, R240) and barriers (R241-R243).
-/

namespace Sys2Proof.Machine

/-! ## Fences -/

/-- An order that is not complete at once closes its path until it is. -/
def State.addFence (s : State) (id : StreamId) (f : FenceRec) : State :=
  let f := s.landedFence id f
  if s.fenceDone id f then s.endFence id f
  else s.modStream id fun st => { st with fences := st.fences ++ [f] }

/-- What the release of a path begins with. -/
def State.beginPath (s : State) (id : StreamId) (p : Path) (sc : Scope) (rel : Bool) : State :=
  if p = .ls then (if rel || crosses (s.scopeOf id.team sc) then s.beginRelease id sc else s.drainQueue id)
  else s.askRelease id sc

/-- FENCE: a release of its path closes that path until it is complete; an acquire of the LS path that crosses cores starts
a new epoch. -/
def execFence (g : Guard) (sem : FenceSem) (path : Path) (scope : Scope) (s : State) :
    Host.Outcome State Fault Refusal :=
  issue { g := g, path := some path }
    (fun c s =>
      let s := s.drainQueue c.id
      match sem with
      | .acq => .done (s.acquireOn c.id path scope)
      | _ =>
        departFirst c s path scope <|
          let s := s.beginPath c.id path scope true
          .done (s.addFence c.id ⟨path, path, scope, s.time, s.openCmds c.id, true, decide (sem = .acqrel), false, none⟩)) s

/-- XFENCE closes its second path until the first is complete. -/
def execXfence (g : Guard) (pa pb : Path) (scope : Scope) (s : State) : Host.Outcome State Fault Refusal :=
  issue { g := g, path := some pb }
    (fun c s =>
      departFirst c s pa scope <|
        let s := (s.drainQueue c.id).beginPath c.id pa scope false
        .done (s.addFence c.id ⟨pa, pb, scope, s.time, s.openCmds c.id, false, decide (pb = .ls), false, none⟩)) s

def execAfence (g : Guard) (s : State) : Host.Outcome State Fault Refusal :=
  issue { g := g, path := some .ls }
    (fun c s =>
      departFirst c s .ls .system <|
        let s := (s.drainQueue c.id).beginPath c.id .ls .system true
        .done (s.addFence c.id ⟨.ls, .ls, .system, s.time, [], true, true, true, none⟩)) s

/-! ## Barriers -/

def Group.slot (g : Group) (sc : Scope) : BarSlot := SMap.get .clear g.barriers (scopeCode sc)
def Group.setSlot (g : Group) (sc : Scope) (b : BarSlot) : Group :=
  { g with barriers := SMap.set .clear g.barriers (scopeCode sc) b }

/-- A barrier whose progress lies outside the team's checkpoints (R208, R370). -/
def State.isWide (s : State) (t : Nat) (sc : Scope) : Bool := s.scopeOf t sc != .team

/-- DIE and PACKAGE barriers need a concurrent launch. -/
def needsConcurrent (sc : Scope) : Bool := sc == .die || sc == .package

/-- What every barrier instruction declares (R319, R347, R377, R397). -/
def barInfo (g : Guard) (sc : Scope) (uses : List Use) : Info :=
  { g := g, uses := uses, cls := .a, noHandler := true, noCallee := true, noDmr := true,
    concurrent := needsConcurrent sc, path := some .cl }

/-- The trap of a slot in the wrong state: TADR holds the SCOPE code. -/
def slotTrap (c : Ctx) (sc : Scope) : Act := c.trapOf 13 0 (BitVec.ofNat 64 (scopeCode sc)) c.ex

/-- An arrival: the slot becomes pending, its release begins, and its message is under way. -/
def State.arrive (s : State) (c : Ctx) (sc : Scope) (op : BarOp) (v : DWord) : State :=
  let s := s.modMyGroup fun g => g.setSlot sc (.pending op v (decide (op ≠ .none)) false s.time)
  let s := s.beginRelease c.id sc
  let s := if s.isWide c.id.team sc then s else s.askCkpt c.id.team
  s.later 1 (.barrierArrival c.id.team c.id.grp sc)

/-- An arrival takes a checkpoint at any scope: it holds while one is pending (R366), and until its departures are under way. -/
def arriveFirst (c : Ctx) (s : State) (sc : Scope) (go : Act) : Act :=
  if (s.team c.id.team).pending.isSome then .hold else departFirst c s .ls sc go

/-- The release of a barrier is an acquire (R242). -/
def State.takeRelease (s : State) (c : Ctx) (sc : Scope) : State :=
  (s.modMyGroup fun g => g.setSlot sc .clear).acquire c.id sc

/-- BAR arrives, its executing lanes staying, and passes once its phase has released. -/
def execBar (g : Guard) (sc : Scope) (s : State) : Host.Outcome State Fault Refusal :=
  issue (barInfo g sc [])
    (fun c s =>
      let mine := c.ex &&& s.here.heldFor (.barrier sc)
      match s.myGroup.slot sc with
      | .clear => arriveFirst c s sc <|
        let s := s.arrive c sc .none 0
        let s := s.modHere fun st => st.setHolds c.ex (some (.barrier sc))
        .jump (s.advance c.id (c.iss &&& ~~~c.ex))
      | .pending _ _ _ _ _ => if mine = c.ex then .hold else slotTrap c sc
      | .released _ bad =>
        if mine ≠ c.ex then slotTrap c sc
        else
          let s := (s.takeRelease c sc).modHere fun st => st.setHolds c.ex none
          if bad then .trapIn s ⟨13, 0, c.pc, c.ex⟩ else .done s) s

/-- The payload of the executing lanes, ascending (R243). -/
def State.payload (s : State) (ex : Mask) (op : BarOp) (a : Src) : DWord :=
  match maskLanes ex with
  | [] => 0
  | i :: l => l.foldl (fun v j => barOp op v (s.srcPair a j)) (s.srcPair a i)

def execBara (g : Guard) (op : BarOp) (sc : Scope) (a : Src) (s : State) : Host.Outcome State Fault Refusal :=
  issue (barInfo g sc (if op = .none then [] else [u2 a]))
    (fun c s =>
      match s.myGroup.slot sc with
      | .clear => arriveFirst c s sc <| .done (s.arrive c sc op (if op = .none then 0 else s.payload c.ex op a))
      | _ => slotTrap c sc) s

/-- BARW writes the total of the pending arrival's phase; two operations in one phase raise the trap (log 17). -/
def execBarw (g : Guard) (sc : Scope) (d : Dst) (s : State) : Host.Outcome State Fault Refusal :=
  issue { barInfo g sc [d2 d] with path := none }
    (fun c s =>
      match s.myGroup.slot sc with
      | .clear => slotTrap c sc
      | .pending _ _ _ _ _ => .hold
      | .released total bad =>
        let s := s.takeRelease c sc
        if bad then .trapIn s ⟨13, 0, c.pc, c.ex⟩ else .done (s.setPair d c.ex fun _ => total)) s

/-- An arrival reaches the team's combining point once its release is complete; one wider than the team is sent with a
safe checkpoint that records it (R210, R370). -/
def execBarrierArrival (t g : Nat) (sc : Scope) (s : State) : Host.Outcome State Fault Refusal :=
  .next <|
    match (s.group t g).slot sc with
    | .pending op v has_ false date =>
      if s.isWide t sc && !s.releaseDone ⟨t, g, false⟩ sc date then s.again (.barrierArrival t g sc)
      else
        let wide := s.isWide t sc
        let s := s.modTeam t fun x => x.mapCores wide fun k =>
          let k := k.modGroup g fun y => y.setSlot sc (.pending op v has_ true date)
          let p := findPhase k.phases (scopeCode sc) t none
          { k with phases := dropPhase k.phases (scopeCode sc) t ++ [p.add g op v has_ false] }
        s.checkTeam t sc
    | _ => s

/-- A release reaches a group that waits for it. -/
def execBarrierRelease (t g : Nat) (sc : Scope) (total : DWord) (bad : Bool) (s : State) :
    Host.Outcome State Fault Refusal :=
  .next <|
    match (s.group t g).slot sc with
    | .pending _ _ _ true _ =>
      s.modTeam t fun x => x.mapCores (s.isWide t sc) fun k => k.modGroup g fun y => y.setSlot sc (.released total bad)
    | _ => s

end Sys2Proof.Machine
end

