-- ==== Sys2Proof/Machine/Recovery.lean ====
section
/-!
DEFINITION. Checkpoints, strikes and rollback (09 R212; 17 R363-R374, R379), and errors in memory and fabric (17 R373, 15
R332).
-/

namespace Sys2Proof.Machine

/-! ## Checkpoints (R212, R365, R366, R379) -/

/-- The pair that a team belongs to. -/
def State.teamPair (s : State) (t : Nat) : Option Pair := (s.team t).groupIds.findSome? fun g => s.dmrPair t g

/-- Both groups of a pair stand at the same instruction count, or at its end, and every record has matched (R379, R380). -/
def State.pairReady (s : State) (q : Pair) : Bool :=
  let x := s.team q.leader
  let y := s.team q.trailer
  q.recsL.isEmpty && q.recsT.isEmpty && !y.busy &&
  (q.ending.isSome || (q.nL == q.nT && q.feed.isEmpty && !x.marked && !y.marked))

/-- A leading group of a team that is being saved is held from its pair's last checkpoint on (R380): its `wait`. -/
def saveHold : Nat := 2 ^ 64

/-- A checkpoint that has been asked for is taken once none is pending and no long-latency result is outstanding (R366); a
pair's two are taken together (R379), and those of a complete regrouping set with its move (R276). -/
def execCheckpointTaken (t : Nat) (s : State) : Host.Outcome State Fault Refusal :=
  .next <|
    let x := s.team t
    if !x.live || !x.wantCkpt then s
    else if !s.ckptFree t then s.again (.checkpointTaken t)
    else
      match s.teamPair t with
      | none =>
        match (s.core x.coreId).sets.find? fun r => r.complete && r.teams.contains t with
        | none => s.takeCkpt t
        | some r =>
          if s.moveReady r then
            (s.modCore x.coreId fun k => { k with sets := k.sets.filter fun q => q != r }).reform x.coreId r
          else s.again (.checkpointTaken t)
      | some q =>
        if !s.pairReady q then s.again (.checkpointTaken t)
        else
          let y := s.team q.trailer
          let s := (s.modTeam q.trailer fun x => { x with pending := some ⟨y.st, s.time⟩ }).takeCkpt t
          if x.saving.isSome then x.groupIds.foldl (fun s g => s.modGroup t g fun k => { k with wait := saveHold + s.time }) s else s

/-- A team's pending checkpoint is safe from now on: what only an older one needed is freed, the records among it that no instruction
has taken again (R366, R371). -/
def State.commitCkpt (s : State) (t : Nat) : State :=
  match (s.team t).pending with
  | none => s
  | some p =>
    let s := s.modTeam t fun x =>
      { x with safe := p, pending := none,
               journal := x.journal.filter fun j => decide (p.date < j.date),
               replay := [],
               counts := x.counts.filter fun k => decide (p.date < k.date),
               recalls := x.recalls.filter fun r => decide (p.date < r.2.2) }
    let live := fun (k : Claim) => !(k.team == t && k.freeAt.any fun d => decide (d ≤ p.date))
    { s with pkg := { s.pkg with frames := s.pkg.frames.filter live } }

/-- The regrouping links that hold a team's checkpoint of a date (R276). -/
def State.linksOf (s : State) (t date : Nat) : List (Nat × List Nat) :=
  (s.core (s.teamCore t)).regMoves.filter fun r => decide (r.1 ≤ date) && r.2.contains t

/-- A linked team has, or is due to have, a safe checkpoint of the link's date. -/
def State.linkReady (s : State) (d u : Nat) : Bool :=
  let x := s.team u
  !x.live || decide (d ≤ x.safe.date) ||
  (match x.pending with | some p => decide (d ≤ p.date) && decide (p.date + 256 ≤ s.time) | none => false)

/-- The teams whose checkpoints become safe with this one. -/
def State.safeWith (s : State) (t date : Nat) : List Nat :=
  let due := fun (u : Nat) => match (s.team u).pending with | some p => decide (p.date + 256 ≤ s.time) | none => false
  let linked := ((s.linksOf t date).flatMap (·.2)).filter due
  let mate := match s.teamPair t with | some q => [q.leader, q.trailer] | none => []
  (t :: (linked ++ mate)).eraseDups

/-- A checkpoint becomes safe (R212, R364): the lehr releases the writes it covers; a pair has formed with its first one, and ends
with its last (R376, R380). -/
def execCheckpointSafe (t date : Nat) (s : State) : Host.Outcome State Fault Refusal :=
  .next <|
    let x := s.team t
    if x.blocked.isSome || (match x.pending with | some p => p.date != date | none => true) then s
    else if !(s.linksOf t date).all fun r => r.2.all fun u => s.linkReady r.1 u then s.again (.checkpointSafe t date)
    else
      let ts := s.safeWith t date
      let c := s.teamCore t
      let s := ts.foldl (fun s u => s.commitCkpt u) s
      let isSafe := fun (s : State) (r : Nat × List Nat) =>
        r.2.all fun u => !(s.team u).live || decide (r.1 ≤ (s.team u).safe.date)
      let s := s.modCore c fun k => { k with regMoves := k.regMoves.filter fun r => !isSafe s r }
      let s := match s.teamPair t with
        | some q =>
          let g := ((s.team q.leader).groupIds.head?).getD 0
          if q.ending.any fun d => decide (d ≤ date) then s.endPair q.leader g q.id
          else s.modPair t q.id fun q => { q with forming := q.forming.filter fun d => decide (date < d), strikes := 0 }
        | none => s
      s.releaseLehr c

/-- Writes of the team have waited 1,024 cycles in the lehr without a checkpoint taken after they entered (R212). -/
def execLehrAgeTimeout (t entered : Nat) (s : State) : Host.Outcome State Fault Refusal :=
  .next <|
    let x := s.team t
    let mine := (s.core x.coreId).lehr.filter fun e => e.owners.contains t && !e.sent
    let taken := match x.pending with | some p => p.date | none => x.safe.date
    if !x.live || mine.isEmpty then s
    else
      let s := if entered < taken then s else s.askCkpt t
      let first := mine.foldl (fun n e => min n (max e.date entered)) s.time
      s.later (max 16 (first + 1024 - s.time)) (.lehrAgeTimeout t first)

/-! ## Strikes (R363, R364) -/

/-- The teams that roll back with a team: its pair's, and those that its regrouping has linked (R276, R379). -/
def State.together (s : State) (ts : List Nat) : List Nat :=
  let links := ts.flatMap fun t => (s.linksOf t s.time).flatMap (·.2)
  let mates := ts.flatMap fun t => match s.teamPair t with | some q => [q.leader, q.trailer] | none => []
  ((ts ++ links ++ mates).eraseDups).filter fun t => (s.team t).live

/-- Stops teams: no checkpoint of theirs that is not safe becomes safe. -/
def State.stopTeams (s : State) (ts : List Nat) : State :=
  ts.foldl (fun s t => s.modTeam t fun x => { x with pending := none, wantCkpt := false, blocked := some s.time }) s

/-- A report of the strike sensors names a core: every team on it is rolled back. -/
def execStrikeReport (c : CoreId) (s : State) : Host.Outcome State Fault Refusal :=
  .next <|
    let ts := s.together (s.coreTeams c)
    let s := (s.modCore c fun k => { k with strikes := k.strikes + 1 }).stopTeams ts
    ts.foldl (fun s t => s.later 1 (.rollback t)) s

/-! ## Rollback (R367-R371) -/

/-- A departure with some of its bytes, none where that is none of them. -/
def LehrEntry.only (e : LehrEntry) (date : Nat) (p : DByte → Bool) : List LehrEntry :=
  match e.work with
  | .depart asid va dest rep bytes clean =>
    if !bytes.any p then []
    else [{ e with date := date,
                   work := .depart asid va dest rep (bytes.filter p) (clean.filter fun g => bytes.all fun b => p b || b.off / 16 != g) }]
  | _ => [e]

/-- The bytes of a departure. -/
def LWork.bytes : LWork → List DByte
  | .depart _ _ _ _ bytes _ => bytes
  | _ => []

/-- What a rollback of a team to a checkpoint leaves of a write in the lehr, and the bytes that leave with it no more (R369). The team's
own departure after the checkpoint is divided: the bytes stored before it go at once, and bytes of other teams that are stored later, or
that no safe checkpoint of theirs covers, become dirty again where the line store still has their stores (R368). -/
def LehrEntry.undo (safe : Nat → Nat) (inLine : DByte → Bool) (t date : Nat) (e : LehrEntry) : List LehrEntry × List DByte :=
  let gone := fun (b : DByte) => b.team == t && decide (date < b.date)
  match e.work with
  | .depart _ _ _ _ bytes _ =>
    if e.team ≠ t ∨ e.date ≤ date then (e.only e.date fun b => !gone b, [])
    else
      let back := fun (b : DByte) => !gone b && inLine b && !(decide (b.date ≤ date) && decide (b.date ≤ safe b.team))
      (e.only date fun b => !gone b && !back b, bytes.filter back)
  | _ => (if e.team = t ∧ date < e.date then [] else [e], [])

/-- The line store's entry still has the store of a byte, and the byte has left it no more. -/
def Entry.stored (e : Entry) (b : DByte) : Bool :=
  e.log.any fun w => w.team == b.team && w.date == b.date && w.bytes.any fun p => p.1 == b.off
def Entry.giveBack (e : Entry) (bs : List DByte) : Entry :=
  { e with log := e.log.map fun w =>
      { w with left := w.left.filter fun i => !bs.any fun b => b.off == i && b.team == w.team && b.date == w.date } }

/-- The lehr of a core after a rollback of a team, and the lines whose bytes it gives back. -/
def Core.undoLehr (c : Core) (safe : Nat → Nat) (t date : Nat) : Core :=
  c.lehr.foldl (fun k e =>
    let r := e.undo safe (fun b => c.lines.any fun p => e.work.leftFrom p.1 p.2 && p.2.stored b) t date
    let lines := if r.2.isEmpty then k.lines
      else k.lines.map fun p => (p.1, if e.work.leftFrom p.1 p.2 then p.2.giveBack r.2 else p.2)
    { k with lehr := k.lehr ++ r.1, lines := lines }) { c with lehr := [] }

/-- The walks of a team's own accesses: fetches and reads of tensor entries, openings, and AMOs. -/
def State.walksOf (s : State) (t : Nat) : List Walk :=
  let x := s.team t
  let opens := (s.boundRegs.filter fun r => r.team == t).map fun r => (r.grp, (s.lineAt r).bound)
  let amos := x.st.groups.flatMap fun g => g.2.ctxs.flatMap fun k => (k.a.amos ++ k.x.amos).map fun a => (g.1, a.id)
  (s.core x.coreId).walks.filter fun w => x.groupIds.contains w.grp &&
    (match w.need with
      | .fetch => w.who / 2 == t
      | .openRead => w.who / 2 == t || opens.contains (w.grp, w.who)
      | .openRw | .kvRead | .kvRw => opens.contains (w.grp, w.who)
      | .amo => amos.contains (w.grp, w.who)
      | _ => false)

/-- A team after the restore of its checkpoint (R365, R367): the roles of redundant execution are no part of it, its restart is no
checked transfer (R42), and a package that is too hot keeps its groups halted (R341). -/
def Team.restored (x : Team) (hot : Bool) : TeamCore :=
  { x.safe.st with groups := x.safe.st.groups.map fun q =>
      let g := q.2.unchecked
      (q.1, { g with dmr := (x.group q.1).dmr, halted := g.halted || (hot && g.live) }) }

/-- Cancels the commands and multicasts that a team issued after a date (R370): their lines are credited. -/
def State.cancelWork (s : State) (c : CoreId) (t date : Nat) : State :=
  let late := fun (u d : Nat) => u == t && decide (date < d)
  let cmds := (s.core c).cmds.filter fun k => late k.team k.date
  let casts := (s.core c).casts.filter fun k => late k.team k.date
  let s := cmds.foldl (fun s k => s.creditAll k) s
  let s := casts.foldl (fun s k => k.dests.foldl (fun s m => s.subPend m k.line 1) s) s
  s.modCore c fun x => { x with cmds := x.cmds.filter fun k => !late k.team k.date,
                                casts := x.casts.filter fun k => !late k.team k.date }

/-- The reductions whose contributions are cancelled are not counted (R370). -/
def State.uncredit (s : State) (c : CoreId) (t date : Nat) : State :=
  (s.core c).lehr.foldl (fun s e =>
    match e.work with
    | .cred _ _ g _ =>
      if e.team = t ∧ date < e.date then
        s.modTeam t fun x => { x with credCount := SMap.mod 0 x.credCount g fun n => n - 1 }
      else s
    | _ => s) s

/-- The line store of a core without a team's writes after a date (R368). -/
def Core.undoLines (c : Core) (t date : Nat) : Core :=
  c.lines.foldl (fun c p =>
    if p.2.log.any fun w => w.team == t && decide (date < w.date) then
      c.setEntry p.1 { p.2 with log := p.2.log.filter fun w => !(w.team == t && decide (date < w.date)) }
    else c) c

/-- Adds back what kept commands have counted since a checkpoint, and applies R245 once to each object (R370). -/
def State.recount (s : State) (t date : Nat) : State :=
  let cs := (s.team t).counts.filter fun k => decide (k.cmdDate ≤ date) && decide (date < k.date)
  let s := s.modTeam t fun x => { x with counts := cs }
  let s := (cs.filter fun k => k.tag.isSome).foldl (fun s k => s.applyCount t 0 k) s
  let st := cs.filter fun k => k.tag.isNone
  ((st.map (·.off)).eraseDups).foldl (fun s o =>
    let mine := st.filter fun k => k.off == o
    let bytes : Nat := (mine.map fun k => k.bytes).sum
    let x := mine.foldl (fun x k => if k.ecode = 0 then x else x.fail k.ecode) (s.stage t o)
    s.putStage t 0 s.time o (x.count bytes (mine.any (·.pois)))) s

/-- A line register after the restore of its descriptor (R367). -/
def State.rebind (s : State) (date : Nat) (r : LineRef) : State :=
  let l := s.lineAt r
  let late := (s.team r.team).recalls.any fun k => k.1 == r.grp && k.2.1 == lineNo r && decide (date < k.2.2)
  let held := if l.mode = 3 then true
    else if keyKind l.key = 3 then
      match s.teamPair r.team with
      | some q => (s.entry (s.teamCore q.leader) (shadowed l.key)).held
      | none => false
    else (s.entry (s.teamCore r.team) l.key).held
  if l.st = .empty ∨ l.st = .recalled then s
  else if late then s.setLineAt r { l with st := .recalled, fault := none }
  else if l.mode = 1 then s.setLineAt r { l with st := .opened, fault := none }
  else if l.st = .opened ∧ held then s
  else (s.setLineAt r { l with st := .opening, fetched := 0, fault := none }).later 1 (.lineFetchLands r)

/-- The events that a restored group waits for. -/
def State.resumeGroup (s : State) (t g : Nat) : State :=
  let x := s.group t g
  let s := barScopes.foldl (fun s sc =>
    match x.slot sc with
    | .pending _ _ _ false _ => s.later 1 (.barrierArrival t g sc)
    | _ => s) s
  let s := match x.abort with
    | some code => s.later 1 (.gateAbort t g code)
    | none => s
  x.sides.foldl (fun s x =>
    let id : StreamId := ⟨t, g, x⟩
    s.rewake id) s

/-- An event that a rollback of a team discards. -/
def rollsAway (t : Nat) (e : Instr) : Bool :=
  match e with
  | .credContribution _ _ => false
  | .barrierRelease u _ .team _ _ => u == t
  | e => eventOfTeam t e

/-- Rolls one team back to its newest safe checkpoint. An access that it makes again walks again, and may write a second fault record
(R372). -/
def State.rollTeam (s : State) (t : Nat) : State :=
  let x := s.team t
  let d := x.safe.date
  let c := x.coreId
  let s := { s with agenda := s.agenda.filter fun e => !rollsAway t e.2, toIssue := s.toIssue.filter fun k => k.team != t }
  let s := x.groupIds.foldl (fun s g => s.withdraw t g) s
  let s := (s.walksOf t).foldl (fun s w => s.forgetWalk c w) s
  let s := ((s.cancelWork c t d).uncredit c t d).modCore c fun k => (k.undoLines t d).undoLehr (fun u => (s.team u).safe.date) t d
  let first := x.safe.st.tickets
  let s := s.modTeam t fun x =>
    { x.unmoveTasks d with
             st := x.restored (s.die c.die).throttled, pending := none, wantCkpt := false, blocked := none, prefetch := [], journal := [],
             replay := (x.journal.filter fun j => decide (d < j.date)) ++ x.replay,
             statuses := x.statuses.filter fun p => decide ((BitVec.ofNat 32 p.1 - first).toNat ≥ 2 ^ 31) }
  let claims := s.pkg.frames.filter fun k => !(k.team == t && decide (d < k.since))
  let keep := fun (k : Claim) =>
    if k.team = t ∧ k.freeAt.any (fun f => decide (d < f)) then { k with freeAt := none } else k
  let s := { s with pkg := { s.pkg with frames := claims.map keep } }
  let s := s.recount t d
  let s := (s.team t).groupIds.foldl (fun s g => s.withdraw t g) s
  let s := (s.boundRegs.filter fun r => r.team == t).foldl (fun s r => s.rebind d r) s
  let s := (s.team t).groupIds.foldl (fun s g => s.resumeGroup t g) s
  let s := if (s.team t).saving.isSome then s.later 1 (.saveRequest t) else s
  s.releaseLehr c

/-- A pair after both its groups have been rolled back: a pair that was forming does not form (R376), and after a third
mismatch the trailing team ends (R379). -/
def State.rollPair (s : State) (q : Pair) : State :=
  let g := ((s.team q.leader).groupIds.head?).getD 0
  let same := fun (q : Pair) => { q with recsL := [], recsT := [], feed := [], nT := q.nL, ending := none }
  if q.forming.isSome then s.endPair q.leader g q.id
  else if 3 ≤ q.strikes then
    (s.endPair q.leader g q.id).takeTrap ⟨q.leader, g, false⟩
      ⟨14, 0, BitVec.ofNat 64 q.slot, (s.stream ⟨q.leader, g, false⟩).amask⟩
  else s.modPair q.leader q.id same

/-- A rollback of a team, with the teams that roll back with it (R367). -/
def execRollback (t : Nat) (s : State) : Host.Outcome State Fault Refusal :=
  .next <|
    if !(s.team t).live || (s.team t).blocked.isNone then s
    else
      let ts := s.together [t]
      let pairs := (ts.filterMap fun u => s.teamPair u).eraseDups
      let c := s.teamCore t
      let s := ts.foldl (fun s u => s.rollTeam u) s
      let s := s.modCore c fun k => { k with regMoves := k.regMoves.filter fun r => !r.2.any fun u => ts.contains u }
      pairs.foldl (fun s q => s.rollPair q) s

/-! ## Memory and fabric (R332, R373) -/

/-- A machine check in every live group of a list; TADR holds the slot of the A stream's lowest active lane (DEDUCED, log 46). -/
def State.checkGroups (s : State) (gs : List (Nat × Nat)) : State :=
  (gs.filter fun g => (s.team g.1).live && (s.group g.1 g.2).live).foldl (fun s g =>
    let id : StreamId := ⟨g.1, g.2, false⟩
    s.machineCheck id ((s.stream id).pc (low (s.stream id).amask))) s

/-- An uncorrectable error of a structure (R373). Memory is read once more; if that is uncorrectable too (`again`), both granules of the
code word become poisoned. A shadow or journal gives its team's groups a machine check, a unit those that it serves, and the
kiln cores are told of it. -/
def execMemoryUncorrectable (site : ErrSite) (again : Bool) (s : State) : Host.Outcome State Fault Refusal :=
  .next <|
    match site with
    | .memory pa => if again then (s.setPoison (pa / 32 * 32) true).setPoison (pa / 32 * 32 + 16) true else s
    | .shadow t => s.checkGroups ((s.team t).groupIds.map fun g => (t, g))
    | .unit gs => (s.checkGroups gs).tellKiln 4 gs.length

/-- A plane has left the stripe. -/
def State.planeDown (s : State) (p : Nat) : State := { s with pkg := { s.pkg with planes := SMap.set false s.pkg.planes p true } }

/-- A flit with a CRC error is sent again, up to 8 times; when the eighth retry fails too its plane drops out of the stripe (R373).
`fails` counts the retries that failed. -/
def execFlitCrcError (plane fails : Nat) (s : State) : Host.Outcome State Fault Refusal :=
  .next (if 8 ≤ fails ∧ plane < 72 then s.planeDown plane else s)

/-- A failed plane drops out of the stripe, and its chunks move to the next working plane (R332). -/
def execPlaneFailure (plane : Nat) (s : State) : Host.Outcome State Fault Refusal :=
  .next (if plane < 72 then s.planeDown plane else s)

end Sys2Proof.Machine
end

