-- ==== Sys2Proof/Machine/Launch.lean ====
section
/-!
DEFINITION. Launches (08 R170-R179): the launch block and its checks, admission, timed starts, and the end of teams (07 R167).
-/

namespace Sys2Proof.Machine

/-! ## Memory as a device unit reads it (log 28) -/

/-- The translation that a unit outside the cores uses: the tables as they stand. -/
def State.virt (s : State) (k : FaultKind) (asid : BitVec 16) (va : Nat) : Option Trans :=
  match s.walkFor k asid va with
  | .ok t => some t
  | _ => none

/-- The value of n bytes; none while one does not translate. -/
def State.readVirt (s : State) (die : Nat) (asid : BitVec 16) (va n : Nat) : Option Nat :=
  let bs := (List.range n).map fun i => (s.virt .engRead asid (va + i)).map fun t => s.readTr t die (va + i)
  if bs.all (·.isSome) then some (leNat (bs.map fun b => b.getD 0)) else none

/-- n bytes may be written. -/
def State.virtWritable (s : State) (asid : BitVec 16) (va n : Nat) : Bool :=
  (List.range n).all fun i => (s.virt .engWrite asid (va + i)).isSome

/-- Writes the n bytes of a value where they translate. -/
def State.writeVirt (s : State) (die : Nat) (asid : BitVec 16) (va n x : Nat) : State :=
  s.putBytes die (fun a => s.virt .engWrite asid a) (bytesAt va n fun i => (leBytes n x).getD i 0) []

/-- An event that polls: one of a kind is enough. -/
def State.pollOnce (s : State) (n : Nat) (e : Instr) : State := if s.agenda.any fun a => a.2 == e then s else s.later n e

/-! ## The launch block (R170-R173) -/

/-- The role record n of a block. -/
def roleBits (x n : Nat) : Nat := field x (1024 + 256 * n) 256
def roleOf (r : Nat) : Role :=
  { enta := BitVec.ofNat 64 (field r 0 64), entx := BitVec.ofNat 64 (field r 64 64), split := field r 128 1 == 1,
    vbud := field r 136 4, va := field r 140 4, lbud := field r 144 5, abud := field r 152 4, groups := field r 160 6,
    ringout := field r 168 4, ringin := field r 172 4 }
def roleReserved (r : Nat) : Bool :=
  field r 129 7 != 0 || field r 149 3 != 0 || field r 156 4 != 0 || field r 166 2 != 0 || field r 176 80 != 0

/-- A role within R12. -/
def Role.ok (r : Role) : Bool :=
  decide (1 ≤ r.vbud) && decide (r.vbud ≤ 12) && (r.lbud == 4 || r.lbud == 8 || r.lbud == 16) && decide (r.abud ≤ 8) &&
  decide (1 ≤ r.groups) && decide (r.groups ≤ 32) &&
  (if r.split then decide (1 ≤ r.va) && decide (r.va < r.vbud) else r.va == 0 && r.entx == 0)

/-- The ring record k of a block. -/
def ringBits (x k : Nat) : Nat := field x (512 + 64 * k) 64
def ringOf (r : Nat) : Ring :=
  { off := field r 0 21, slot := 16 * (field r 21 8 + 1), depth := field r 29 6, valid := field r 35 1 == 1 }
/-- The bytes of a ring from its offset. -/
def Ring.extent (r : Ring) : Nat := (r.depth + 1) * (32 + r.slot)

/-- A ring record meets R172 among the roles and the other rings. -/
def ringOk (x : Nat) (roles : List Role) (spad k : Nat) : Bool :=
  let r := ringOf (ringBits x k)
  let outs := roles.zipIdx.filter fun p => p.1.ringout.testBit k
  let ins := roles.zipIdx.filter fun p => p.1.ringin.testBit k
  if !r.valid then ringBits x k == 0 && outs.isEmpty && ins.isEmpty
  else
    outs.length == 1 && ins.length == 1 && outs.map (·.2) != ins.map (·.2) && r.off % 128 == 0 && decide (1 ≤ r.depth) &&
    decide (r.off + r.extent ≤ spad) &&
    [0, 1, 2, 3].all fun j =>
      let q := ringOf (ringBits x j)
      j == k || !q.valid || decide (r.off + r.extent ≤ q.off) || decide (q.off + q.extent ≤ r.off)

/-- The dies of a DIEMASK. -/
def diesOf (m : Nat) : List Nat := if m = 0 then [0, 1, 2, 3] else [0, 1, 2, 3].filter fun d => m.testBit d

/-- What a block says, once it is read. -/
def Launch.take (l : Launch) (x : Nat) : Launch :=
  { l with
    cls := if field x 0 2 = 0 then .concurrent else if field x 0 2 = 2 then .weak else .parallel
    priv := field x 2 1 == 1
    idem := field x 3 1 == 1
    roles := (List.range (field x 4 2 + 1)).map fun n => roleOf (roleBits x n)
    rings := [0, 1, 2, 3].map fun k => ringOf (ringBits x k)
    dies := diesOf (field x 8 4)
    timed := field x 12 1 == 1
    tstart := BitVec.ofNat 64 (field x 256 64)
    icount := BitVec.ofNat 32 (field x 32 32)
    geo := (field x 64 8, field x 72 8, field x 80 8)
    cluster := field x 88 8
    spad := field x 96 32
    grid := (field x 128 24 + 1, field x 152 16 + 1, field x 168 16 + 1)
    ttbase := BitVec.ofNat 64 (field x 192 64) }

/-- The teams of a launch. -/
def Launch.teams (l : Launch) : Nat := l.grid.1 * l.grid.2.1 * l.grid.2.2

/-- The groups of a team in role order (R10): the number, the role's number and the role. -/
def Launch.gang (l : Launch) : List (Nat × Nat × Role) :=
  ((l.roles.zipIdx.flatMap fun p => List.replicate p.1.groups (p.2, p.1)).zipIdx).map fun p => (p.2, p.1.1, p.1.2)

/-- What one team of a launch reserves. -/
def Launch.need (l : Launch) : Need :=
  { groups := l.gang.map fun g => (g.1, g.2.2.vbud, g.2.2.lbud, g.2.2.abud), spad := l.spad }

/-- How many teams of a need one empty core holds. -/
def perCore (n : Need) : Nat := ((List.range 64).filter fun k => fitsAll (List.replicate (k + 1) n)).length

/-- Teams to a set, and the number of sets (R174). -/
def Launch.setSize (l : Launch) : Nat := max 1 l.cluster
def Launch.sets (l : Launch) : Nat := l.teams / l.setSize

/-- The sets dealt to the i-th die of the list. -/
def Launch.dealt (l : Launch) (i : Nat) : Nat := (l.sets + l.dies.length - 1 - i) / l.dies.length

/-- A concurrent launch fits empty dies all at once (R177). -/
def Launch.coResident (l : Launch) : Bool :=
  let m := perCore l.need
  let room := if l.cluster = 0 then 192 * m else 12 * (16 * m / l.setSize)
  l.dies.zipIdx.all fun d => decide (l.dealt d.2 ≤ room)

/-- The reserved bits and codes of a block (R170, reason 1). -/
def blockReserved (x : Nat) (roles : Nat) : Bool :=
  field x 0 2 == 3 || field x 6 2 != 0 || field x 13 19 != 0 || field x 184 8 != 0 || field x 352 32 != 0 || field x 448 64 != 0 ||
  field x 768 256 != 0 || field x 192 64 % 64 != 0 || field x 320 32 != 0 || field x 384 64 != 0 ||
  ([0, 1, 2, 3].any fun k => (ringOf (ringBits x k)).valid && field (ringBits x k) 36 28 != 0) ||
  (List.range roles).any fun n => roleReserved (roleBits x n)

/-- The lowest reason for which a launch is refused, 0 for none (R171). -/
def Launch.reason (l : Launch) (x : Nat) (permitted : Bool) : Nat :=
  let n := field x 4 2 + 1
  let groups : Nat := (l.roles.map fun r => r.groups).sum
  let g := l.geo
  if blockReserved x n then 1
  else if !(l.roles.all (·.ok)) || ([0, 1, 2, 3].any fun k => decide (n ≤ k) && roleBits x k != 0) ||
      g.1 * g.2.1 * g.2.2 == 0 || decide (32 < g.1 * g.2.1 * g.2.2) || g.1 * g.2.1 * g.2.2 != groups then 2
  else if l.spad % 128 ≠ 0 ∨ 0x180000 < l.spad then 3
  else if !fitsAll [l.need] then 4
  else if l.cls = .concurrent ∧ l.coResident = false then 5
  else if (l.timed && (l.cls != .concurrent || field x 8 4 == 0 || l.dies.length != 1)) || (!l.timed && l.tstart != 0) then 6
  else if l.priv && !permitted then 7
  else if l.cluster = 1 ∨ 16 < l.cluster ∨ l.teams % l.setSize ≠ 0 then 8
  else if !([0, 1, 2, 3].all fun k => ringOk x l.roles l.spad k) then 9
  else 0

/-! ## Launches in the package -/

def State.launch (s : State) (id : Nat) : Option Launch := s.pkg.launches.find? fun l => l.id == id
def State.modLaunch (s : State) (id : Nat) (f : Launch → Launch) : State :=
  { s with pkg := { s.pkg with launches := s.pkg.launches.map fun l => if l.id = id then f l else l } }
def State.dropLaunch (s : State) (id : Nat) : State :=
  { s with pkg := { s.pkg with launches := s.pkg.launches.filter fun l => l.id != id } }

/-- An MSI-X vector of a function is raised (R331). -/
def State.raiseIrq (s : State) (irq : Option (Nat × Nat)) : State :=
  match irq with
  | none => s
  | some v => { s with pkg := { s.pkg with msix := s.pkg.msix ++ [v] } }

/-- STATUS and DONE of a launch's block (R170). -/
def Launch.statusAt (l : Launch) : Nat := l.va.toNat + 40
def Launch.doneAt (l : Launch) : Nat := l.va.toNat + 48
/-- The die whose gaffer reads and writes the block. -/
def Launch.home (l : Launch) : Nat := l.dies.headD 0
def State.setStatus (s : State) (l : Launch) (state reason : Nat) : State :=
  s.writeVirt l.home l.asid l.statusAt 4 (state + 4 * reason)

/-- A launch is over: its vector, its graph's node, and its record goes. -/
def State.launchOver (s : State) (l : Launch) (state : Nat) : State :=
  let s := s.raiseIrq l.irq
  let s := s.modLaunch l.id fun l => { l with state := state }
  match l.graph with
  | none => s.dropLaunch l.id
  | some g => s.later 1 (.nodeCompletion g.1 g.2)

/-- A launch that has been taken enters the orders of the dies that it is dealt to. -/
def State.enterOrders (s : State) (m : Launch) : State :=
  let weak := m.cls == .weak
  let s := s.modLaunch m.id fun _ => m
  (m.dies.zipIdx.filter fun d => decide (0 < m.dealt d.2)).foldl (fun s d =>
    (s.modDie d.1 fun k =>
      if weak then { k with weakOrder := k.weakOrder ++ [2 * m.id] } else { k with order := k.order ++ [2 * m.id] }).pollOnce
      1 (.teamAdmission d.1 weak)) s

/-- An earlier launch of the same queue has not been taken (R331). -/
def State.submittedBefore (s : State) (l : Launch) : Bool :=
  l.src.isSome && s.pkg.launches.any fun m => decide (m.id < l.id) && m.src == l.src && m.state == 0 && m.roles == []

/-- The gaffers take a launch, whose STATUS and DONE a graph writes zero first (R191): it is refused, or enters the admission orders of its dies (R171, R174, R175).
A block at an address that is no multiple of 64, of which R170 gives no consequence, is read and run there (DESIGN CHOICE, log 47). -/
def execLaunchSubmit (id : Nat) (s : State) : Host.Outcome State Fault Refusal :=
  .next <|
    match s.launch id with
    | none => s
    | some l =>
      if l.state ≠ 0 ∨ l.roles ≠ [] then s
      else if s.submittedBefore l then s.again (.launchSubmit id)
      else
        let s := if l.graph.isSome then (s.writeVirt l.home l.asid l.statusAt 4 0).writeVirt l.home l.asid l.doneAt 8 0 else s
        match s.readVirt l.home l.asid l.va.toNat 256, s.virtWritable l.asid l.statusAt 16 with
        | some x, true =>
          let m := l.take x
          match m.reason x l.priv with
          | 0 => s.enterOrders m
          | r => (s.setStatus m 3 r).launchOver l 3
        | _, _ => s.again (.launchSubmit id)

/-! ## Placement (R13, R175-R177) -/

/-- Places k teams of a need on cores, each by R175. -/
def placeTeams (n : Need) : Nat → List (CoreId × List Need) → Option (List CoreId × List (CoreId × List Need))
  | 0, cs => some ([], cs)
  | k + 1, cs =>
    match bestCore n cs with
    | none => none
    | some c =>
      match placeTeams n k (cs.map fun p => if p.1 = c then (p.1, n :: p.2) else p) with
      | none => none
      | some r => some (c :: r.1, r.2)

/-- Places sets of c teams, each on the lowest bench where it fits whole. -/
def placeSets (n : Need) (c : Nat) : Nat → List (CoreId × List Need) → Option (List CoreId)
  | 0, _ => some []
  | k + 1, cs =>
    let one := (List.range 48).findSome? fun b => placeTeams n c (cs.filter fun p => benchKey p.1 == b)
    match one with
    | none => none
    | some r =>
      let cs := cs.map fun p => (r.2.find? fun q => q.1 == p.1).getD p
      (placeSets n c k cs).map fun rest => r.1 ++ rest

/-- Where k sets of a launch go on a die. -/
def State.placeOn (s : State) (l : Launch) (die k : Nat) : Option (List CoreId) :=
  if l.cluster = 0 then (placeTeams l.need k (s.dieCores die)).map (·.1) else placeSets l.need l.setSize k (s.dieCores die)

/-! ## Gang start (R11, R14) -/

/-- A team at its start: team n of a launch on a core. -/
def Launch.start (l : Launch) (n : Nat) (core : CoreId) (date : Nat) : Team :=
  let level := if l.priv then 2 else 0
  let gs := l.gang.map fun g =>
    let r := g.2.2
    (g.1, startGroup g.2.1 r.split r.vbud r.va r.lbud r.abud level l.asid l.kvroot l.ttbase
      (startStream r.enta (BitVec.allOnes 32) date true)
      (if r.split then startStream r.entx (BitVec.allOnes 32) date true else .off))
  let t : Team :=
    { Team.off with
      live := true, die := core.die, core := core.core, launch := l.id, index := n, tx := n % l.grid.1,
      ty := n / l.grid.1 % l.grid.2.1, tz := n / l.grid.1 / l.grid.2.1, cls := l.cls, started := !l.timed, priv := l.priv,
      idem := l.idem, spadSize := l.spad, admitted := date }
  let t := gs.foldl (fun t g => t.setGroup g.1 g.2) t
  { t with safe := ⟨t.st, date⟩ }

/-- Puts a team on its core: its streams join their rotations. -/
def State.enterCore (s : State) (t : Team) : State :=
  let (id, s) := s.fresh
  (s.setTeam id t).seat id

/-- Admits teams of a launch; the first sets STATE 1. -/
def State.admitTeams (s : State) (l : Launch) (ns : List (Nat × CoreId)) : State :=
  let s := if l.state = 0 then (s.setStatus l 1 0).modLaunch l.id fun l => { l with state := 1 } else s
  let s := s.modLaunch l.id fun k => { k with live := k.live + ns.length }
  ns.foldl (fun s p => s.enterCore (l.start p.1 p.2 s.time)) s

/-- STATUS can be written, where this admission is the first. -/
def State.statusReady (s : State) (l : Launch) : Bool := l.state != 0 || s.virtWritable l.asid l.statusAt 4

/-- Takes a launch's item off a die's order. -/
def State.leaveOrder (s : State) (die code : Nat) (weak : Bool) : State :=
  s.modDie die fun d =>
    if weak then { d with weakOrder := d.weakOrder.filter (· != code) } else { d with order := d.order.filter (· != code) }

/-- The team numbers of the next k sets of a launch on the i-th die. -/
def Launch.nextTeams (l : Launch) (i first k : Nat) : List Nat :=
  (List.range k).flatMap fun m => (List.range l.setSize).map fun e => (i + l.dies.length * (first + m)) * l.setSize + e

/-- A concurrent launch at the head of every order, admitted whole or not at all (R177). -/
def State.admitAll (s : State) (l : Launch) : Option State :=
  let heads := l.dies.zipIdx.filter fun d => decide (0 < l.dealt d.2)
  let first := heads.all fun d => (s.die d.1).order.head? == some (2 * l.id) && ((s.die d.1).back.all fun b =>
    ((s.launch b.1).map (·.cls)) == some .weak)
  let spots := heads.map fun d => (s.placeOn l d.1 (l.dealt d.2)).map fun cs => (l.nextTeams d.2 0 (l.dealt d.2)).zip cs
  if !first || !s.statusReady l || !spots.all (·.isSome) then none
  else
    let s := s.admitTeams l (spots.flatMap fun p => p.getD [])
    let s := heads.foldl (fun s d => s.leaveOrder d.1 (2 * l.id) false) s
    some (if l.timed then s.later 1 (.timedLaunchStart l.id) else s)

/-- The next set of a parallel or weakly parallel launch on a die. -/
def State.admitNext (s : State) (l : Launch) (die : Nat) (weak : Bool) : Option State :=
  let i := l.dies.findIdx (· == die)
  let m := SMap.get 0 l.next die
  if !s.statusReady l then none
  else
    match s.placeOn l die 1 with
    | none => none
    | some cs =>
      let s := s.admitTeams l ((l.nextTeams i m 1).zip cs)
      let s := s.modLaunch l.id fun k => { k with next := SMap.set 0 k.next die (m + 1) }
      some (if l.dealt i ≤ m + 1 then s.leaveOrder die (2 * l.id) weak else s)

/-- A team that was flushed starts again (R361). -/
def State.admitBack (s : State) (die : Nat) (b : Nat × Nat) : Option State :=
  match s.launch b.1 with
  | none => some (s.modDie die fun d => { d with back := d.back.filter (· != b) })
  | some l =>
    match bestCore l.need (s.dieCores die) with
    | none => none
    | some c =>
      let s := (s.modDie die fun d => { d with back := d.back.filter (· != b) }).enterCore (l.start b.2 c s.time)
      some (if l.timed then s.later 1 (.timedLaunchStart l.id) else s)

/-- The current members of a team's cluster, the team alone without one. -/
def State.clusterTeams (s : State) (t : Nat) : List Nat :=
  match (s.team t).cluster with
  | none => [t]
  | some (id, _) =>
    (((s.bench (benchKey (s.teamCore t))).clusters.find? fun c => c.id == id).map fun c => c.current.map (·.2)).getD [t]

/-- Places each need in turn on the cores of a list. -/
def placeNeeds : List Need → List (CoreId × List Need) → Option (List CoreId)
  | [], _ => some []
  | n :: ns, cs =>
    match bestCore n cs with
    | none => none
    | some c => (placeNeeds ns (cs.map fun p => if p.1 = c then (p.1, n :: p.2) else p)).map fun r => c :: r

/-- What the bench of a cluster holds of it goes with it. -/
def State.moveCluster (s : State) (id a b : Nat) : State :=
  if a = b then s
  else
    let x := s.bench a
    let mine := fun (p : Phase) => p.scope == 3 && p.owner == id
    let s := s.modBench a fun k =>
      { k with clusters := k.clusters.filter (·.id != id), creds := k.creds.filter (·.cluster != id), phases := k.phases.filter (!mine ·) }
    s.modBench b fun k =>
      { k with clusters := k.clusters ++ x.clusters.filter (·.id == id), creds := k.creds ++ x.creds.filter (·.cluster == id),
               phases := k.phases ++ x.phases.filter mine }

/-- The members of a saved set that are to be admitted, and the cores they go to: a cluster's on one bench, a team that led
a pair where its bench has room for a trailing team too (R393). -/
def State.savedPlaces (s : State) (die t : Nat) : Option (List (Nat × CoreId)) :=
  let ts := (s.clusterTeams t).filter fun u => (s.team u).out
  let needs := ts.map fun u => (s.team u).need
  let trail := (ts.filter fun u => (s.team u).led).map fun u => (s.team u).need
  let room := fun (b : Nat) => placeNeeds (needs ++ trail) (s.benchCores (12 * die + b))
  let cs :=
    if (s.team t).cluster.isSome then (List.range 12).findSome? room
    else placeNeeds needs ((s.dieCores die).filter fun p => trail.isEmpty || (room (p.1.core / 16)).isSome)
  cs.map fun l => ts.zip l

/-- A saved team, or a saved cluster, gets its places again; the device then loads the areas (R393, R394). -/
def State.admitSaved (s : State) (die t : Nat) (weak : Bool) : Option State :=
  match s.savedPlaces die t with
  | none => none
  | some ps =>
    let s := s.leaveOrder die (2 * t + 1) weak
    let s := match (s.team t).cluster, ps with
      | some (id, _), p :: _ => s.moveCluster id (benchKey (s.teamCore t)) (benchKey p.2)
      | _, _ => s
    some (ps.foldl (fun s p =>
      ((s.modTeam p.1 fun x =>
        { x with live := true, out := false, started := false, die := p.2.die, core := p.2.core, admitted := s.time }).seat p.1).later 1
        (.restoreLoad p.1)) s)

/-- Admits the head of one of a die's orders, if it fits (R175). -/
def State.admitHead (s : State) (die : Nat) (weak : Bool) : Option State :=
  let d := s.die die
  let back := d.back.filter fun b => (((s.launch b.1).map (·.cls)) == some .weak) == weak
  match back with
  | b :: _ => s.admitBack die b
  | [] =>
    match if weak then d.weakOrder else d.order with
    | [] => none
    | code :: _ =>
      if code % 2 = 1 then s.admitSaved die (code / 2) weak
      else
        match s.launch (code / 2) with
        | none => some (s.leaveOrder die code weak)
        | some l => if l.cls = .concurrent then s.admitAll l else s.admitNext l die weak

/-- Something waits in an order. -/
def State.waits (s : State) (die : Nat) (weak : Bool) : Bool :=
  let d := s.die die
  !(if weak then d.weakOrder else d.order).isEmpty || !d.back.isEmpty

/-- A gaffer looks at the head of its order; the weakly parallel order has its turn when the first one's head does not fit
(R175). At 115 degrees nothing is admitted (R341). -/
def execTeamAdmission (die : Nat) (weak : Bool) (s : State) : Host.Outcome State Fault Refusal :=
  .next <|
    let free := s.pkg.booted && !(s.die die).throttled && (!weak || (s.admitHead die false).isNone)
    let t := if free then (s.admitHead die weak).getD s else s
    if t.waits die weak then t.pollOnce (16 + t.agenda.length) (.teamAdmission die weak) else t

/-- A timed launch starts when its teams are resident and CLK has reached TSTART (R179). -/
def execTimedLaunchStart (id : Nat) (s : State) : Host.Outcome State Fault Refusal :=
  .next <|
    match s.launch id with
    | none => s
    | some l =>
      let now := (s.clk l.home).toNat
      if now < l.tstart.toNat then s.later (max 1 (min (l.tstart.toNat - now) 4096)) (.timedLaunchStart id)
      else
        (s.teams.filter fun p => p.2.launch == id && p.2.live).foldl (fun s p =>
          s.modTeam p.1 fun t => { t with started := true }) s

/-! ## Ends of teams (R167, R171) -/

/-- Updates and signals to a graph are on their way. -/
def State.messages (s : State) (g : Nat) : Bool :=
  s.agenda.any fun e => match e.2 with
    | .gcondUpdate u _ _ _ => u.graph == g
    | .gsigArrival h _ => h == g
    | _ => false

/-- No write of a team waits in the lehr or cullet log of its core, and no update or signal to its graph is on its way. -/
def State.writesOver (s : State) (t : Nat) : Bool :=
  !((s.graphOf t).any fun g => s.messages g) &&
  (s.core (s.teamCore t)).waiting.all fun e => e.team != t && (match e.work with
    | .depart _ _ _ _ bs _ => bs.all fun b => b.team != t
    | _ => true)

/-- A redundant pair whose leader has ended: the trailing group has ended too, and every record has matched (R380). -/
def State.pairOver (s : State) (t : Nat) : Bool :=
  match s.teamPair t with
  | none => true
  | some q => q.recsL.isEmpty && q.recsT.isEmpty && (s.team q.trailer).liveGroups.isEmpty

/-- A team has ended but for its cluster; a team that a regrouping has linked stays until the checkpoint of the move is safe
(R276). -/
def State.teamOver (s : State) (t : Nat) : Bool :=
  let x := s.team t
  let c := s.core x.coreId
  x.liveGroups.isEmpty && (c.cmds.all fun k => k.team != t) && (c.casts.all fun k => k.team != t) &&
  (x.st.groups.all fun q => !q.2.c.a.busy && !q.2.c.x.busy) && s.writesOver t && s.pairOver t && x.blocked.isNone &&
    c.regMoves.all fun r => !r.2.contains t

/-- Forgets everything a core and the package hold of a team that is no longer resident. -/
def State.forget (s : State) (t : Nat) : State :=
  let c := s.teamCore t
  let s := (s.team t).groupIds.foldl (fun s g => s.withdraw t g) s
  let s := (s.unseat t).dropFetched t
  let mine := fun (key : Nat) => keyKind key == 1 && key / 4 / 2 ^ 14 == t
  let old := fun (w : LWrite) => if w.team = t then { w with date := 0 } else w
  let s := s.modCore c fun k => { k with lines := (k.lines.filter fun p => !mine p.1).map fun p =>
    (p.1, { p.2 with log := p.2.log.map old }) }
  { s with agenda := s.agenda.filter fun e => !eventOfTeam t e.2, toIssue := s.toIssue.filter fun k => k.team != t,
           pkg := { s.pkg with frames := s.pkg.frames.filter fun k => k.team != t } }

/-- The reservation of a team is released and its record goes. -/
def State.release (s : State) (t : Nat) : State :=
  let x := s.team t
  let s := (s.forget t).setTeam t .off
  let s := [Scope.die, Scope.package].foldl (fun s sc => s.checkDie x.launch x.die sc) s
  s.checkPackage x.launch

/-- DONE rises by one; at the team count the launch is complete (R171). -/
def State.countDone (s : State) (id : Nat) : State :=
  match s.launch id with
  | none => s
  | some l =>
    let n := l.ended + 1
    let s := s.writeVirt l.home l.asid l.doneAt 8 n
    let s := s.modLaunch id fun l => { l with ended := n, live := l.live - 1 }
    if n = l.teams then (s.setStatus l 2 0).launchOver l 2 else s

/-- The tasks that a wave's team holds are complete (R186): their statuses go to their nodes. -/
def Team.finished (t : Team) : List (Task × Word) :=
  t.tasks.filterMap fun p => p.2.map fun k => (k, SMap.get 0 t.taskStatus p.1)

end Sys2Proof.Machine
end

