-- ==== Sys2Proof/Machine/Tasks.lean ====
section
/-!
DEFINITION. What a launch or wave says to its graph (08 R193, R194): GCOND and GSIG. Their messages leave through the
lehr.
-/

namespace Sys2Proof.Machine

/-- GCOND: one update with the value of the lowest executing lane; it travels on the CL path (R370). -/
def execGcond (g : Guard) (op : CondOp) (num : BitVec 8) (a : Src) (s : State) : Host.Outcome State Fault Refusal :=
  issue { g := g, uses := [u1 a], noCallee := true, noDmr := true, graph := true, path := some .cl }
    (fun c s =>
      match s.graphOf c.id.team with
      | none => c.illegal
      | some n =>
        if !s.lehrTakes s.myCore c.id.team 1 then .hold
        else
          .done (s.enterLehr s.myCore c.id.team c.id.grp c.id.x s.time (.cond n op num (s.src a (low c.ex))))) s

/-- GSIG: a release of PACKAGE scope for every path of its stream (log 23), then one arrival. -/
def execGsig (g : Guard) (num : BitVec 8) (s : State) : Host.Outcome State Fault Refusal :=
  issue { g := g, noCallee := true, noDmr := true, graph := true, path := some .cl }
    (fun c s =>
      match s.graphOf c.id.team with
      | none => c.illegal
      | some n =>
        if !s.lehrTakes s.myCore c.id.team 1 then .hold
        else
          releaseFirst c s .package (fun s => (s.beginRelease c.id .package).askCkpt c.id.team) (fun d s => s.allReleased c.id d)
            fun s => .done (s.enterLehr s.myCore c.id.team c.id.grp c.id.x s.time (.sig n num.toNat))) s

end Sys2Proof.Machine
end

