-- ==== Sys2Proof/Machine/Graphs.lean ====
section
/-!
DEFINITION. Graphs and task batches (08 R180-R194): the graph engine's nodes, dealing, waves, stealing, and with them the end
of a team, which completes a launch or the tasks of a wave (07 R167; 08 R186).
-/

namespace Sys2Proof.Machine

/-! ## Graphs in the package -/

def State.graph (s : State) (id : Nat) : Option Graph := s.pkg.graphs.find? fun g => g.id == id
def State.modGraph (s : State) (id : Nat) (f : Graph → Graph) : State :=
  { s with pkg := { s.pkg with graphs := s.pkg.graphs.map fun g => if g.id = id then f g else g } }
def Graph.node (g : Graph) (n : Nat) : GNode := SMap.get .zero g.nodes n
def State.modNode (s : State) (id n : Nat) (f : GNode → GNode) : State :=
  s.modGraph id fun g => { g with nodes := SMap.mod .zero g.nodes n f }

/-- The record of a node, by its fields (R190). -/
structure NodeRec where
  kind : Nat
  cw : Bool
  npred : Nat
  cond : Nat
  narm : Nat
  count : Nat
  addr : Nat
  lblk : Nat
  succ : List Nat
  rsvd : Bool
  deriving DecidableEq, Repr

def NodeRec.ofNat (x : Nat) : NodeRec :=
  { kind := field x 0 3, cw := field x 3 1 == 1, npred := field x 8 8, cond := field x 16 8, narm := field x 24 4,
    count := field x 32 32, addr := field x 64 64, lblk := field x 128 64,
    succ := (List.range 16).map fun k => field x (192 + 8 * k) 8,
    rsvd := field x 4 4 != 0 || field x 28 4 != 0 || field x 416 96 != 0 }

/-- The reason for which a node ends its graph, 0 for none (R192; log 28). Reserved bits and codes apart, R190 says what a field must
hold and no consequence: reason 1 is the model's (DESIGN CHOICE, log 39). -/
def NodeRec.wrong (r : NodeRec) (nnode : Nat) : Nat :=
  let arms := r.succ.zipIdx
  if r.rsvd || decide (5 < r.kind) || r.npred == 0 || (r.cw && r.kind != 1) || (r.count != 0 && r.kind != 1 && r.kind != 3) ||
      (r.count == 0 && r.kind == 1) || (r.addr != 0 && decide (1 < r.kind)) || (r.lblk != 0 && r.kind != 1) ||
      (arms.any fun p => decide (r.narm < p.2) && p.1 != 0xFF) then 1
  else if arms.any fun p => decide (nnode ≤ p.1) && p.1 != 0xFF then 2
  else if r.kind = 2 ∧ r.narm ≠ 1 then 5
  else 0

/-- Addresses in the image (R189). -/
def Graph.nodeAt (g : Graph) (n : Nat) : Nat := g.va.toNat + 1088 + 64 * n
def State.header (s : State) (g : Graph) : Nat := (s.readVirt g.die g.asid g.va.toNat 64).getD 0
def State.nnode (s : State) (g : Graph) : Nat := field (s.header g) 0 9
def State.nodeRec (s : State) (g : Graph) (n : Nat) : NodeRec := .ofNat ((s.readVirt g.die g.asid (g.nodeAt n) 64).getD 0)

/-- The whole image translates, so that the engine can go on (log 28). -/
def State.imageReady (s : State) (g : Graph) : Bool :=
  s.virtWritable g.asid g.va.toNat 64 && (s.readVirt g.die g.asid g.va.toNat 64).isSome &&
  s.virtWritable g.asid (g.va.toNat + 64) (1024 + 64 * s.nnode g)

/-- Writes a word that the engine writes into a node. -/
def State.writeNode (s : State) (g : Graph) (n off x : Nat) : State := s.writeVirt g.die g.asid (g.nodeAt n + off) 4 x

/-- The words of the image that the engine holds are unspecified in memory while the graph runs (R192): their bytes carry a
tag that is no key's; they are as they were when it ends in error. -/
def veilTag : Nat := 2 ^ 64
def State.veil (s : State) (g : Graph) (on : Bool) : State :=
  (List.range 1024).foldl (fun s i =>
    match s.virt .engRead g.asid (g.va.toNat + 64 + i) with
    | none => s
    | some t =>
      if t.host then s
      else
        let pa := wrapPa (t.addr g.die (g.va.toNat + 64 + i))
        if on then { s with memTag := SMap.set 0 s.memTag pa veilTag }
        else if SMap.get 0 s.memTag pa = veilTag then { s with memTag := SMap.set 0 s.memTag pa (s.keyTag t.key) }
        else s) s

/-! ## Ends of graphs (R192) -/

/-- Records the first error of a graph. -/
def State.graphError (s : State) (id reason node : Nat) : State :=
  s.modGraph id fun g => if g.err.isSome then g else { g with err := some (reason, node) }

/-- The condition words go back into the image. -/
def State.wordsBack (s : State) (g : Graph) : State :=
  (List.range 256).foldl (fun s k =>
    s.writeVirt g.die g.asid (g.va.toNat + 64 + 4 * k) 4 (SMap.get 0 g.conds k).toNat) s

/-- A graph ends once no node runs and no delivery is pending: the words go back, then PARTIAL and STATE 2; or STATE 3. -/
def State.graphOver (s : State) (id : Nat) : State :=
  match s.graph id with
  | none => s
  | some g =>
    if !g.running || (g.nodes.any fun p => p.2.running) || s.messages id then s
    else
      let head : State → Nat → Nat → Nat → State := fun s b4 b5 b6 =>
        s.writeVirt g.die g.asid (g.va.toNat + 4) 3 (b4 + 256 * b5 + 65536 * b6)
      let s := match g.err with
        | some e => head (s.veil g false) (3 + 4 * e.1) (e.2 % 256) 0
        | none =>
          let part := (List.range (s.nnode g)).any fun n =>
            let a := (g.node n).arrived
            decide (0 < a) && decide (a < (s.nodeRec g n).npred)
          head ((s.veil g false).wordsBack g) 2 0 (bit01 part)
      let s := s.raiseIrq g.irq
      { s with pkg := { s.pkg with graphs := s.pkg.graphs.filter fun h => h.id != id } }

/-! ## Nodes (R191) -/

/-- A launch that a node names is submitted. -/
def State.submitNode (s : State) (g : Graph) (n : Nat) (va : Nat) : State :=
  let (id, s) := s.fresh
  let l : Launch :=
    { id := id, va := BitVec.ofNat 64 va, asid := g.asid, kvroot := g.kvroot, cls := .parallel, priv := g.priv, idem := false,
      roles := [], rings := [], dies := [g.die], timed := false, tstart := 0, icount := 0, geo := (0, 0, 0), cluster := 0,
      spad := 0, grid := (0, 0, 0), ttbase := 0, graph := some (g.id, n), irq := none, src := none, next := [], live := 0, ended := 0,
      state := 0 }
  let s := s.modNode g.id n fun x => { x with launch := id }
  ({ s with pkg := { s.pkg with launches := s.pkg.launches ++ [l] } }).later 1 (.launchSubmit id)

/-- A node starts. Its record is checked now and not before (DESIGN CHOICE, log 39). A conditional, loop, switch or join chooses its
arm and completes at once. -/
def State.startNode (s : State) (g : Graph) (n : Nat) : State :=
  let r := s.nodeRec g n
  match r.wrong (s.nnode g) with
  | 0 =>
    let v := (SMap.get 0 g.conds r.cond).toNat
    let x := g.node n
    let s := s.modNode g.id n fun x => { x with running := true, arm := none }
    let chosen := fun (s : State) (a : Option Nat) =>
      (s.modNode g.id n fun x => { x with arm := a }).later 1 (.nodeCompletion g.id n)
    match r.kind with
    | 0 => s.submitNode g n r.addr
    | 1 =>
      (s.modNode g.id n fun x => { x with launch := 0, dealt := 0, left := r.count, fails := 0, firstFail := none }).later 1
        (.taskDeal g.id n)
    | 2 => chosen s (some (if v ≠ 0 then 0 else 1))
    | 3 =>
      let go := v ≠ 0 ∧ x.trips < r.count
      let k := if go then x.trips + 1 else 0
      let s := (s.modNode g.id n fun x => { x with trips := k }).writeNode g n 48 k
      chosen s (some (if go then 0 else 1))
    | 4 => chosen s (some (min v r.narm))
    | _ => chosen s none
  | e => s.graphError g.id e n

/-- Starts a node whose arrivals suffice and that does not run. -/
def State.tryStart (s : State) (id n : Nat) : State :=
  match s.graph id with
  | none => s
  | some g =>
    let x := g.node n
    let p := (s.nodeRec g n).npred
    if g.err.isSome || x.running || decide (x.arrived < p) || p == 0 then s
    else
      let s := s.modNode id n fun x => { x with arrived := x.arrived - p }
      match s.graph id with
      | some g => s.startNode g n
      | none => s

/-- One arrival at a node. -/
def State.arriveNode (s : State) (id n : Nat) : State :=
  (s.modNode id n fun x => { x with arrived := x.arrived + 1 }).tryStart id n

/-- A graph is taken once fewer than 64 of its die run: its START node starts (R189, R191). A header whose NNODE, START or
engine-written fields are not as R189 wants them ends it with reason 1 and ERRNODE 0 (DESIGN CHOICE, log 39). -/
def execGraphSubmit (id : Nat) (s : State) : Host.Outcome State Fault Refusal :=
  .next <|
    match s.graph id with
    | none => s
    | some g =>
      let mine := s.pkg.graphs.filter fun h => h.die == g.die
      let before := (mine.takeWhile fun h => h.id != id).any fun h => !h.running
      if g.running then s
      else if before || decide (64 ≤ (mine.filter (·.running)).length) || !s.imageReady g then s.again (.graphSubmit id)
      else
        let h := s.header g
        let n := field h 0 9
        let bad := n == 0 || decide (256 < n) || field h 9 7 != 0 || field h 24 40 != 0 || field h 64 448 != 0 ||
          decide (n ≤ field h 16 8)
        let cond := fun k => BitVec.ofNat 32 ((s.readVirt g.die g.asid (g.va.toNat + 64 + 4 * k) 4).getD 0)
        let g := { g with running := true, conds := (List.range 256).foldl (fun m k => SMap.set 0 m k (cond k)) [] }
        let s := ((s.modGraph id fun _ => g).writeVirt g.die g.asid (g.va.toNat + 4) 1 1).veil g true
        if bad then (s.graphError id 1 0).graphOver id else (s.startNode g (field h 16 8)).graphOver id

/-- The statuses of a batch go to its node, before any arrival (R186). -/
def State.batchDone (s : State) (g : Graph) (n : Nat) (r : NodeRec) : State :=
  let x := g.node n
  let s := (s.writeNode g n 40 x.fails).writeNode g n 44 (x.firstFail.getD 0xFFFFFFFF)
  if r.cw then s.modGraph g.id fun g => { g with conds := SMap.set 0 g.conds r.cond (BitVec.ofNat 32 x.fails) } else s

/-- The engine handles one completion (R191): it delivers one arrival to each chosen arm, in order. -/
def execNodeCompletion (id n : Nat) (s : State) : Host.Outcome State Fault Refusal :=
  .next <|
    match s.graph id with
    | none => s
    | some g =>
      let x := g.node n
      if !x.running then s
      else if !s.imageReady g then s.again (.nodeCompletion id n)
      else
        let r := s.nodeRec g n
        let l := s.launch x.launch
        let refused := r.kind == 0 && ((l.map (·.state)) == some 3)
        let s := if r.kind = 1 then s.batchDone g n r else s
        let s := if r.kind = 0 then s.dropLaunch x.launch else s
        let s := s.modNode id n fun x => { x with running := false, launch := 0 }
        let s := if refused then s.graphError id 3 n else s
        let arms := (r.succ.zipIdx.filter fun p => decide (p.2 ≤ r.narm) && p.1 != 0xFF && (x.arm.all fun a => a == p.2)).map (·.1)
        let s := if refused then s else arms.foldl (fun s m => s.arriveNode id m) s
        (s.tryStart id n).graphOver id

/-- An update that the stream made earlier is still on its way. -/
def State.updateBefore (s : State) (u : CondUpdate) : Bool :=
  s.agenda.any fun e => match e.2 with
    | .gcondUpdate v _ _ _ => v.src == u.src && decide (v.seq < u.seq)
    | _ => false

/-- GCOND's update of a condition word (R193): one stream's in program order. -/
def execGcondUpdate (upd : CondUpdate) (op : CondOp) (num : BitVec 8) (x : Word) (s : State) :
    Host.Outcome State Fault Refusal :=
  .next <|
    match s.graph upd.graph with
    | none => s
    | some g =>
      if s.updateBefore upd then s.again (.gcondUpdate upd op num x)
      else
      let w := SMap.get 0 g.conds num.toNat
      let y : Word := match op with
        | .set => x
        | .or => w ||| x
        | .add => w + x
        | .umax => if w.toNat < x.toNat then x else w
      s.modGraph upd.graph fun g => { g with conds := SMap.set 0 g.conds num.toNat y }

/-- GSIG's arrival at a node (R194). ERRNODE of reason 6 is the number that GSIG names; R192 says only where the error arose
(DEDUCED, log 47). -/
def execGsigArrival (id n : Nat) (s : State) : Host.Outcome State Fault Refusal :=
  .next <|
    match s.graph id with
    | none => s
    | some g =>
      if !s.imageReady g then s.again (.gsigArrival id n)
      else if s.nnode g ≤ n then (s.graphError id 6 n).graphOver id
      else (s.arriveNode id n).graphOver id

/-! ## Dealing (R180-R182) -/

/-- A task has completed with a status (R185, R186). -/
def State.taskDone (s : State) (id n i : Nat) (w : Word) : State :=
  let f := w ≠ 0
  let s := s.modNode id n fun x =>
    { x with left := x.left - 1, fails := if f then x.fails + 1 else x.fails,
             firstFail := if f then some (match x.firstFail with | some k => min k i | none => i) else x.firstFail }
  match s.graph id with
  | none => s
  | some g => if (g.node n).left = 0 then s.later 1 (.nodeCompletion id n) else s

/-- The terms of R181, and those of any launch block: one that breaks only these (R170 to R173) is refused in the same way, which
the spec leaves open (DESIGN CHOICE, log 47). -/
def batchOk (g : Graph) (l : Launch) (x : Nat) : Bool :=
  let x := x - field x 320 32 * 2 ^ 320 - field x 384 64 * 2 ^ 384
  l.cls == .parallel && l.roles.length == 1 && l.geo == (1, 1, 1) && (l.roles.all fun r => r.groups == 1) && l.cluster == 0 &&
  !l.timed && l.dies.contains g.die && l.reason x g.priv == 0

/-- The cores of a die may have something to steal. -/
def State.seekTasks (s : State) (c : CoreId) (n : Nat) : State :=
  let busy := s.agenda.any fun e => match e.2 with
    | .stealRequest t _ => t == c
    | .stealRetry t => t == c
    | _ => false
  if busy then s else s.later n (.stealRetry c)

/-- The batch's launch block is read when its node starts. -/
def State.openBatch (s : State) (g : Graph) (n : Nat) (r : NodeRec) : State :=
  match s.readVirt g.die g.asid r.lblk 256 with
  | none => s.again (.taskDeal g.id n)
  | some x =>
    let (id, s) := s.fresh
    let l : Launch :=
      ({ id := id, va := BitVec.ofNat 64 r.lblk, asid := g.asid, kvroot := g.kvroot, cls := .parallel, priv := false,
         idem := false, roles := [], rings := [], dies := [g.die], timed := false, tstart := 0, icount := 0, geo := (0, 0, 0),
         cluster := 0, spad := 0, grid := (0, 0, 0), ttbase := 0, graph := some (g.id, n), irq := none, src := none, next := [], live := 0,
         ended := 0, state := 1 } : Launch).take x
    if !batchOk g l x then
      ((s.graphError g.id 4 n).modNode g.id n fun x => { x with running := false }).graphOver g.id
    else
      let s := { s with pkg := { s.pkg with launches := s.pkg.launches ++ [{ l with idem := false, icount := 0 }] } }
      let s := (s.modNode g.id n fun x => { x with launch := id }).later 1 (.taskDeal g.id n)
      (List.range 192).foldl (fun s k => s.seekTasks ⟨g.die, k⟩ 1) s

/-- A task record (R180): none when it is invalid, as one with ENTX 0 is under a split role (R180 does not say that it disagrees with
the mode; DESIGN CHOICE, log 42). -/
def taskOf (g : Graph) (n i : Nat) (split : Bool) (x : Nat) : Option Task :=
  let a : DWord := BitVec.ofNat 64 (field x 0 64)
  let b : DWord := BitVec.ofNat 64 (field x 64 64)
  if field x 128 384 ≠ 0 ∨ pcValid a = false ∨ pcValid b = false ∨ (split = false ∧ b ≠ 0) ∨ (split = true ∧ b = 0) then none
  else
    some { graph := g.id, node := n, index := i, enta := a, entx := b,
           args := (List.range 16).map fun k => BitVec.ofNat 32 (field x (512 + 32 * k) 32) }

/-! ## Waves (R183, R184) -/

/-- Some task of a batch is still to be dealt to a core. -/
def State.moreFor (s : State) (c : CoreId) (t : Task) : Bool :=
  match s.graph t.graph with
  | none => false
  | some g =>
    let n := (s.nodeRec g t.node).count
    let from_ := ceilDiv (g.node t.node).dealt 16
    (List.range 192).any fun k => (from_ + k) % 192 == c.core && decide (16 * (from_ + k) < n)

/-- The partition that takes a wave: the one with the fewest resident groups where it fits. -/
def State.wavePart (s : State) (c : CoreId) (l : Launch) (r : Role) : Option Nat :=
  let here := s.coreNeeds c
  let groups := fun (p : Nat) => ((here.flatMap (·.groups)).filter fun g => g.1 % 4 == p).length
  let fits := [0, 1, 2, 3].filter fun p => fitsAll ({ groups := [(p, r.vbud, r.lbud, r.abud)], spad := l.spad } :: here)
  fits.foldl (fun b p => match b with
    | none => some p
    | some q => if groups p < groups q then some p else some q) none

/-- The team of a wave. -/
def waveTeam (l : Launch) (r : Role) (c : CoreId) (p : Nat) (ts : List Task) (date : Nat) : Team :=
  let m := maskOf fun i => decide (i < ts.length)
  let first := ts.head?
  let enta := (first.map (·.enta)).getD 0
  let entx := (first.map (·.entx)).getD 0
  let fill := fun (st : Stream) => ts.zipIdx.foldl (fun st t =>
    t.1.args.zipIdx.foldl (fun st w => st.setVec w.2 t.2 w.1) st) st
  let g := startGroup 0 r.split r.vbud r.va r.lbud r.abud (if l.priv then 2 else 0) l.asid l.kvroot l.ttbase
    (fill (startStream enta m date true)) (if r.split then fill (startStream entx m date true) else .off)
  let t : Team :=
    { Team.off with
      live := true, die := c.die, core := c.core, launch := l.id, index := (first.map (·.index)).getD 0,
      tx := (first.map (·.index)).getD 0, cls := .parallel, started := true, priv := l.priv, spadSize := l.spad,
      admitted := date, wave := true, tasks := ts.zipIdx.foldl (fun k t => SMap.set none k t.2 (some t.1)) [] }
  let t := t.setGroup p g
  { t with safe := ⟨t.st, date⟩ }

/-- The wave that a core forms now (R183): what it runs, the role, the partition and its tasks; none before one of the three
conditions holds. -/
def State.nextWave (s : State) (c : CoreId) : Option (Launch × Role × Nat × List Task) :=
  match (s.core c).tasks with
  | [] => none
  | h :: rest =>
    let same := fun (t : Task) => t.graph == h.graph && t.node == h.node && t.enta == h.enta && t.entx == h.entx
    let wave := ((h :: rest).take 64).filter same |>.take 32
    match (s.graph h.graph).bind fun g => s.launch (g.node h.node).launch with
    | none => none
    | some l =>
      match l.roles with
      | [] => none
      | r :: _ =>
        match s.wavePart c l r with
        | none => none
        | some p =>
          if (s.die c.die).throttled || (decide (wave.length < 32) && decide (s.time < (s.core c).waveAt + 256) && s.moreFor c h) then
            none
          else some (l, r, p, wave)

/-- A core forms the wave that it can: the wave's tasks leave its queue and its team becomes resident (R183). -/
def State.formWave (s : State) (c : CoreId) : State :=
  match s.nextWave c with
  | none => s
  | some (l, r, p, wave) =>
    let left := (s.core c).tasks.filter fun t => !wave.contains t
    let s := (s.modCore c fun k => { k with tasks := left, waveAt := s.time }).enterCore (waveTeam l r c p wave s.time)
    if left.isEmpty then s.seekTasks c 1 else s

/-- A core that can form a wave now. A step of the device forms it before all else that stands in that cycle, an admission of the
core's room among it (R183 lets neither hold room for the other and gives one cycle no order of the two; DESIGN CHOICE, log 2). -/
def State.dueWave (s : State) : Option CoreId :=
  (s.cores.find? fun p => !p.2.tasks.isEmpty && (s.nextWave ⟨p.1 / 192, p.1 % 192⟩).isSome).map fun p => ⟨p.1 / 192, p.1 % 192⟩

def execWaveFormation (c : CoreId) (s : State) : Host.Outcome State Fault Refusal := .next (s.formWave c)

/-! ## Dealing chunks (R182) -/

/-- Puts tasks at the tail of a core's queue. -/
def State.queueTasks (s : State) (c : CoreId) (ts : List Task) : State :=
  if ts.isEmpty then s
  else
    s.modCore c fun k => { k with tasks := k.tasks ++ ts, waveAt := if k.tasks.isEmpty then s.time else k.waveAt }

/-- The entries of a core's queue that are kept free for the tasks its steal request may bring, so that the queue never holds more
than its 1,024 (R182 and R187 do not say which of the two gives way; DEDUCED, log 47). -/
def State.keptFree (s : State) (c : CoreId) : Nat :=
  if s.agenda.any fun e => match e.2 with | .stealRequest t _ => t == c | _ => false then 16 else 0

/-- Deals one chunk of a batch (R182). -/
def State.dealChunk (s : State) (g : Graph) (n : Nat) (r : NodeRec) (split : Bool) : State :=
  let i := (g.node n).dealt
  let k := min 16 (r.count - i)
  let c : CoreId := ⟨g.die, i / 16 % 192⟩
  let recs := (List.range k).map fun j => s.readVirt g.die g.asid (r.addr + 128 * (i + j)) 128
  if 1024 < (s.core c).tasks.length + k + s.keptFree c ∨ !recs.all (·.isSome) then s.again (.taskDeal g.id n)
  else
    let ts := recs.zipIdx.map fun p => (i + p.2, taskOf g n (i + p.2) split (p.1.getD 0))
    let s := s.modNode g.id n fun x => { x with dealt := i + k }
    let s := if i + k < r.count then s.later 1 (.taskDeal g.id n) else s
    let s := s.queueTasks c (ts.filterMap (·.2))
    (ts.filter fun t => t.2.isNone).foldl (fun s t => s.taskDone g.id n t.1 0xFFFFFFFF) s

def execTaskDeal (id n : Nat) (s : State) : Host.Outcome State Fault Refusal :=
  .next <|
    match s.graph id with
    | none => s
    | some g =>
      let x := g.node n
      if !x.running then s
      else if !s.imageReady g then s.again (.taskDeal id n)
      else
        let r := s.nodeRec g n
        if r.count ≤ x.dealt then s
        else
          match s.launch x.launch with
          | none => s.openBatch g n r
          | some l => s.dealChunk g n r (l.roles.any (·.split))

/-! ## Stealing (R187) -/

/-- A core whose queue is empty while a batch runs on its die. -/
def State.idle (s : State) (c : CoreId) : Bool :=
  (s.core c).tasks.isEmpty && s.pkg.graphs.any fun g => g.die == c.die && g.nodes.any fun p =>
    p.2.running && decide (0 < p.2.left) && (s.nodeRec g p.1).kind == 1

/-- The k-th core after one in its bench. -/
def benchNext (c : CoreId) (k : Nat) : CoreId := ⟨c.die, c.core / 16 * 16 + (c.core + k) % 16⟩

/-- An idle core starts asking the cores of its bench in turn. -/
def execStealRetry (c : CoreId) (s : State) : Host.Outcome State Fault Refusal :=
  .next (if s.idle c then s.later 1 (.stealRequest c (benchNext c 1)) else s)

/-- A victim answers, in the order in which the requests reach it: it refuses, or hands over the last tasks of its queue. A wave
that one of the two can form in that cycle takes effect first. -/
def execStealRequest (thief victim : CoreId) (s : State) : Host.Outcome State Fault Refusal :=
  .next <|
    let s := (s.formWave victim).formWave thief
    let q := (s.core victim).tasks
    let k := min 16 (q.length / 2)
    if q.length < 2 then
      let d := (victim.core + 16 - thief.core % 16) % 16
      if s.idle thief = false then s
      else if 15 ≤ d then s.later 256 (.stealRetry thief) else s.later 1 (.stealRequest thief (benchNext thief (d + 1)))
    else
      (s.modCore victim fun c => { c with tasks := q.take (q.length - k) }).queueTasks thief (q.drop (q.length - k))

/-! ## The end of a team (R167, R171, R186) -/

/-- A wave's tasks complete with its team. -/
def State.endWave (s : State) (x : Team) : State :=
  let s := x.finished.foldl (fun s p => s.taskDone p.1.graph p.1.node p.1.index p.2) s
  let used := (s.teams.any fun p => p.2.launch == x.launch && (p.2.live || p.2.out)) ||
    s.pkg.graphs.any fun g => g.nodes.any fun n => n.2.launch == x.launch
  if used then s else s.dropLaunch x.launch

/-- The block of the team's launch can be written. -/
def State.blockReady (s : State) (x : Team) : Bool :=
  x.wave || ((s.launch x.launch).all fun l => s.virtWritable l.asid l.statusAt 16)

def execTeamEnd (t : Nat) (s : State) : Host.Outcome State Fault Refusal :=
  .next <|
    let x := s.team t
    if !x.live || x.trails || !x.liveGroups.isEmpty then s
    else if !s.teamOver t || !s.blockReady x || !s.recallRoom (s.windowRegs t) then s.again (.teamEnd t)
    else
      match s.teamPair t with
      | some q => (if q.ending.isSome then s else s.endSoon t q.id).again (.teamEnd t)
      | none =>
        if x.cluster.isSome then
          let s := s.recallWindow t
          if s.writesTo t s.time then s.again (.teamEnd t) else (s.leaveCluster t).later 1 (.teamEnd t)
        else
          let s := s.release t
          if x.wave then s.endWave x else s.countDone x.launch

end Sys2Proof.Machine
end

