-- ==== Sys2Proof/Machine/HostPort.lean ====
section
/-!
DEFINITION. The host port, queues, fabric, kiln cores and the bounds on firmware (15 R327-R341), and the debug interface's hold on
a halted group (16 R348).
-/

namespace Sys2Proof.Machine


/-- An answer that leaves by the port that asked (log 33). -/
def State.answer (s : State) (bs : List Byte) : State := s.modPkg fun p => { p with reports := p.reports ++ [bs] }

/-! ## Queues (R329-R331) -/

def queueKey (fn q : Nat) : Nat := fn * 256 + q
def QBlock.zero : QBlock := ⟨0, 0, 0⟩
def State.queue (s : State) (fn q : Nat) : QBlock := SMap.get .zero s.pkg.queues (queueKey fn q)
def State.setQueueBlock (s : State) (fn q : Nat) (b : QBlock) : State :=
  s.modPkg fun p => { p with queues := SMap.set .zero p.queues (queueKey fn q) b }

def QBlock.base (b : QBlock) : Nat := field b.block.toNat 0 52
def QBlock.size (b : QBlock) : Nat := 2 ^ (field b.block.toNat 52 4 + 6)
def QBlock.en (b : QBlock) : Bool := field b.block.toNat 56 1 == 1
def QBlock.perm (b : QBlock) : Bool := field b.block.toNat 57 1 == 1
def QBlock.asid (b : QBlock) : BitVec 16 := BitVec.ofNat 16 (field b.block.toNat 64 16)
def QBlock.kvroot (b : QBlock) : DWord := BitVec.ofNat 64 (field b.block.toNat 128 64)
/-- EN cleared. -/
def QBlock.off (b : QBlock) : QBlock := { b with block := b.block &&& ~~~(BitVec.twoPow 256 56) }

/-- A function and a queue that exist (R328, R329). -/
def queueIs (fn q : Nat) : Bool := decide (fn < 64) && decide (q < 256)

/-- What a write of the binding fields leaves (R329): reserved bits read zero, KVROOT's too (R36), and a nonzero one of this
block's clears EN. DESIGN CHOICE (log 40): a reserved QLOG clears EN as well. -/
def queueBits (v : Nat) : BitVec 256 :=
  let bad := field v 58 6 != 0 || field v 80 48 != 0 || decide (10 < field v 52 4)
  let en := if bad then 0 else field v 56 1
  BitVec.ofNat 256 (field v 0 56 + 2 ^ 56 * en + 2 ^ 57 * field v 57 1 + 2 ^ 64 * field v 64 16 + 2 ^ 134 * field v 134 46)

/-- The host writes TAIL: a queue that would hold more than its ring is closed (R331). -/
def execQueueDoorbell (fn q : Nat) (tail : Word) (s : State) : Host.Outcome State Fault Refusal :=
  .next <|
    let b := s.queue fn q
    let b' := { b with tail := tail }
    if !queueIs fn q then s
    else if !b.en then s.setQueueBlock fn q b'
    else if b.size < (tail - b.head).toNat then s.setQueueBlock fn q b'.off
    else (s.setQueueBlock fn q b').pollOnce 1 (.queueEntry fn q)

/-- The fields of a collective's descriptor (R333): OP, ROP, DTYPE, ROOT, GID, BYTES, SRC, DST, STATUS. -/
def collFields (x : Nat) : List Nat :=
  [field x 0 2, field x 2 2, field x 4 2, field x 6 10, field x 16 16, field x 32 32, field x 64 64, field x 128 64, field x 192 64]

/-- Submits a queue's entry to its agent. -/
def State.submitEntry (s : State) (fn q : Nat) (b : QBlock) (kind die va : Nat) (irq : Option (Nat × Nat)) : State :=
  let (id, s) := s.fresh
  let va64 : DWord := BitVec.ofNat 64 va
  match kind with
  | 0 =>
    let l : Launch :=
      { id := id, va := va64, asid := b.asid, kvroot := b.kvroot, cls := .parallel, priv := b.perm, idem := false, roles := [],
        rings := [], dies := [], timed := false, tstart := 0, src := some (fn, q), icount := 0, geo := (0, 0, 0), cluster := 0, spad := 0,
        grid := (0, 0, 0), ttbase := 0, graph := none, irq := irq, next := [], live := 0, ended := 0, state := 0 }
    (s.modPkg fun p => { p with launches := p.launches ++ [l] }).later 1 (.launchSubmit id)
  | 1 =>
    let g : Graph := ⟨id, die, va64, b.asid, b.kvroot, [], [], false, b.perm, none, irq⟩
    (s.modPkg fun p => { p with graphs := p.graphs ++ [g] }).later 1 (.graphSubmit id)
  | _ =>
    let c : Coll := ⟨id, fn, q, va64, b.asid, [], [], [], false, [], irq⟩
    (s.modPkg fun p => { p with colls := p.colls ++ [c] }).later 1 (.collectiveSubmit fn q id)

/-- An entry is rejected for what it holds itself: a reserved KIND or bit (R330). DIE is no reserved field, and only a graph's
names a die. -/
def entryBad (x : Nat) : Bool := decide (2 < field x 0 4) || field x 7 1 != 0 || field x 21 43 != 0 || field x 128 384 != 0

/-- A collective's descriptor is rejected: reserved bits (R333). DESIGN CHOICE (log 40): the reserved ROP 3 too. -/
def descBad (d : Nat) : Bool := field d 256 256 != 0 || field d 2 2 == 3

/-- Takes the next entry of a queue (R330, R331); a collective whose descriptor does not translate yet waits in its place. -/
def execQueueEntry (fn q : Nat) (s : State) : Host.Outcome State Fault Refusal :=
  .next <|
    let b := s.queue fn q
    if !s.pkg.booted || !b.en || b.head == b.tail then s
    else
      let a := b.base + 64 * (b.head.toNat % b.size)
      let x := s.readNat 0 a 64
      let kind := field x 0 4
      let va := field x 64 64
      let irq := if field x 6 1 = 1 then some (fn, field x 10 11) else none
      match (if kind = 2 ∧ entryBad x = false then s.readVirt 0 b.asid va 64 else some 0) with
      | none => s.again (.queueEntry fn q)
      | some desc =>
        let bad := entryBad x || descBad desc
        let ack := if bad then 2 else 1
        let s := (s.writePa 0 (a + 1) (BitVec.ofNat 8 (field x 8 8 / 4 * 4 + ack))).noteWrite (memWatch a)
        let b := { b with head := b.head + 1 }
        let s := s.setQueueBlock fn q b
        let s := if bad then s else s.submitEntry fn q b kind (field x 4 2) va irq
        if b.head = b.tail then s else s.pollOnce 1 (.queueEntry fn q)

/-! ## BAR0 and BAR2 (R328, R329) -/

/-- The 32 bytes of a queue's control block. -/
def QBlock.bytes (b : QBlock) : List Byte :=
  leBytes 32 (b.block.toNat % 2 ^ 192 + 2 ^ 192 * b.tail.toNat + 2 ^ 224 * b.head.toNat)

/-- The window of BAR2. -/
def inBar2 (va n : Nat) : Bool := decide (va + n ≤ 2 ^ 36)

/-- A host transfer: a read of a queue's block through BAR0, or a transfer through BAR2 on the HO path, in the queue's context; a
fault is answered with completer abort, an empty answer here (log 33). Of a replicated page it reads and writes the replica of die 0,
where R217 puts the host port on no die (DESIGN CHOICE, log 49). -/
def execHostBar2Access (fn q : Nat) (va : DWord) (n : Nat) (acc : HostAccess) (s : State) :
    Host.Outcome State Fault Refusal :=
  .next <|
    let b := s.queue fn q
    let tr := fun (k : FaultKind) (a : Nat) => (s.virt k b.asid a).filter fun t => !t.host
    if !s.pkg.booted || !queueIs fn q then s.answer []
    else
      match acc with
      | .block => s.answer b.bytes
      | .read =>
        let bs := (List.range n).map fun i => (tr .engRead (va.toNat + i)).map fun t => s.readTr t 0 (va.toNat + i)
        s.answer (if inBar2 va.toNat n && bs.all (·.isSome) then bs.map fun b => b.getD 0 else [])
      | .write x =>
        if inBar2 va.toNat n && (List.range n).all fun i => (tr .engWrite (va.toNat + i)).isSome then
          s.putBytes 0 (tr .engWrite) ((leBytes n x).zipIdx.map fun p => (va.toNat + p.2, p.1)) []
        else s.answer []

/-! ## Firmware's registers (R284, R290, R291, R313, R329, R339, R345, R355, R359, R381) -/

/-- The fault-injection record as it is kept: reserved bits read zero, and one that is written nonzero disarms it (R381). -/
def injectBits (v : Nat) : BitVec 128 :=
  let kept := BitVec.ofNat 128 (2 ^ 128 - 2 ^ 64 + 0xF1FFF1F03)
  let x := BitVec.ofNat 128 v
  if x &&& ~~~kept = 0 then x else x &&& kept &&& ~~~1

def execConfigWrite (reg : ConfigReg) (v : Nat) (s : State) : Host.Outcome State Fault Refusal :=
  .next <|
    if !s.pkg.booted then s
    else
      match reg with
      | .asTable => s.modPkg fun p => { p with asTable := v }
      | .domainTable => s.modPkg fun p => { p with domTable := v }
      | .gateTable => s.modPkg fun p => { p with gateTable := v }
      | .handlerTable => s.modPkg fun p => { p with handlerTable := v }
      | .faultRing d => s.modDie d fun k => { k with ringBase := v }
      | .ownership i => if i < 256 then s.modPkg fun p => { p with own := SMap.set 0 p.own i (BitVec.ofNat 256 v) } else s
      | .savePool d => s.modDie d fun k => { k with pool := k.pool ++ [v] }
      | .comparator d c i => if i < 12 then s.modCore ⟨d, c⟩ fun k => { k with cmp := SMap.set 0 k.cmp i (BitVec.ofNat 128 v) } else s
      | .injection d b => s.modBench (d * 12 + b) fun k => { k with inject := injectBits v, injCount := 0, injPair := none }
      | .queueBlock fn q =>
        let b := { s.queue fn q with block := queueBits v }
        let s := if queueIs fn q then s.setQueueBlock fn q b else s
        if queueIs fn q && b.en && b.head != b.tail then s.pollOnce 1 (.queueEntry fn q) else s
      | .powerLimit => s.modPkg fun p => { p with power := min v 3400 }

/-! ## Collectives (R333-R335; log 29) -/

def State.modColl (s : State) (id : Nat) (f : Coll → Coll) : State :=
  s.modPkg fun p => { p with colls := p.colls.map fun c => if c.id = id then f c else c }
def Coll.at (c : Coll) (k : Nat) : Nat := c.desc.getD k 0
def Coll.bytes (c : Coll) : Nat := c.at 5
def Coll.chunks (c : Coll) : Nat := ceilDiv c.bytes 4096
/-- The bytes of a chunk. -/
def Coll.len (c : Coll) (k : Nat) : Nat := min 4096 (c.bytes - 4096 * k)

/-- Two elements combined (R334). -/
def collElem (rop dtype a b : Nat) : Nat :=
  let f := if dtype = 0 then f32 else f64
  let n := if dtype % 2 = 0 then 32 else 64
  if dtype < 2 then
    match rop with
    | 0 => (fpAdd f .rn false a b).1
    | 1 => (fpMinMax f false a b).1
    | _ => (fpMinMax f true a b).1
  else
    let x := (BitVec.ofNat n a).toInt
    let y := (BitVec.ofNat n b).toInt
    match rop with
    | 0 => (a + b) % 2 ^ n
    | 1 => if y < x then b else a
    | _ => if x < y then b else a

/-- The elements of a chunk. -/
def elemsOf (w : Nat) (bs : List Byte) : List Nat :=
  (List.range (bs.length / w)).map fun k => leNat ((bs.drop (w * k)).take w)

/-- The contributions to a chunk, combined in ascending PKGID. -/
def reduceChunk (rop dtype : Nat) (cs : List (List Byte)) : List Byte :=
  let w := if dtype % 2 = 0 then 4 else 8
  match cs with
  | [] => []
  | c :: rest =>
    let es := rest.foldl (fun a b => (a.zip (elemsOf w b)).map fun p => collElem rop dtype p.1 p.2) (elemsOf w c)
    es.flatMap fun e => leBytes w e

/-- A collective whose chunks have all landed: records, the status word, and its vector; it waits while these have no page to be
written to. -/
def State.collOver (s : State) (id : Nat) : State :=
  match s.pkg.colls.find? fun c => c.id == id with
  | none => s
  | some c =>
    if c.done.length < c.chunks then s
    else
      let recs := c.errs.mergeSort fun a b => decide (a.1 < b.1) || (decide (a.1 = b.1) && decide (a.2 ≤ b.2))
      let kept := recs.take 64
      let lost := c.lost || decide (64 < recs.length)
      let put := fun (s : State) =>
        (kept.zipIdx.foldl (fun s p => s.writeVirt 0 c.asid (c.at 8 + 4 + 8 * p.2) 8 (p.1.2 % 1024 + 2 ^ 32 * p.1.1)) s).writeVirt 0
          c.asid (c.at 8) 4 (kept.length + (if lost then 0x80000000 else 0))
      if !s.virtWritable c.asid (c.at 8) (4 + 8 * kept.length) then s.later 16 (.collectiveSubmit c.fn c.q id)
      else (put s).raiseIrq c.irq |>.modPkg fun p => { p with colls := p.colls.filter fun c => c.id != id }

/-- The fabric unit takes a collective, in the order of its queue's ring (R331), or one that is over tries again to write its status. -/
def execCollectiveSubmit (fn q coll : Nat) (s : State) : Host.Outcome State Fault Refusal :=
  .next <|
    match s.pkg.colls.find? fun c => c.id == coll with
    | none => s
    | some c =>
      if !c.desc.isEmpty then s.collOver coll
      else if (s.pkg.colls.takeWhile fun k => k.id != coll).any fun k => k.fn == fn && k.q == q && k.desc.isEmpty then
        s.again (.collectiveSubmit fn q coll)
      else
        match s.readVirt 0 c.asid c.va.toNat 64 with
        | none => s.again (.collectiveSubmit fn q coll)
        | some x => (s.modColl coll fun c => { c with desc := collFields x }).collOver coll

/-- This package contributes to a collective: a broadcast's source alone does (R333). -/
def State.contributes (s : State) (c : Coll) : Bool := c.at 0 != 3 || c.at 3 == s.pkg.id

/-- This package's own contribution to a chunk: its bytes and poison, of a replicated page those of die 0's replica (R217; DESIGN
CHOICE, log 49). -/
def State.ownPart (s : State) (c : Coll) (rank k : Nat) : Option (List Byte × Bool) :=
  let a := c.at 6 + 4096 * k + (if c.at 0 = 2 then rank * c.bytes else 0)
  let bs := (List.range (c.len k)).map fun i => (s.virt .engRead c.asid (a + i)).map fun t =>
    (s.readTr t 0 (a + i), !t.host && s.poisoned (t.addr 0 (a + i)))
  if bs.all (·.isSome) then some (bs.map fun b => (b.getD (0, false)).1, bs.any fun b => (b.getD (0, false)).2) else none

/-- What lands at this package of a chunk: bytes by address, and whether poisoned. -/
def collLands (c : Coll) (k : Nat) (parts : List Contribution) : List (Bytes × Bool) :=
  let dst := c.at 7 + 4096 * k
  let at_ := fun (a : Nat) (bs : List Byte) => bs.zipIdx.map fun p => (a + p.2, p.1)
  match c.at 0 with
  | 1 => parts.zipIdx.map fun p => (at_ (dst + p.2 * c.bytes) p.1.bytes, p.1.poisoned)
  | 3 => (parts.filter fun p => p.pkg == c.at 3).map fun p => (at_ dst p.bytes, p.poisoned)
  | _ => [(at_ dst (reduceChunk (c.at 1) (c.at 2) (parts.map (·.bytes))), parts.any (·.poisoned))]

/-- The pieces of what this package sends for a chunk: a reduce-scatter sends that chunk of every member's share, the k-th chunk of
a share standing after the chunks of the shares before it (R333, R334; DEDUCED, log 29). -/
def Coll.pieces (c : Coll) (chunk members : Nat) : List Nat :=
  if c.at 0 = 2 then (List.range members).map fun r => r * c.chunks + chunk else [chunk]

/-- The flits of a piece that this package has not sent. -/
def Coll.unsent (c : Coll) (piece : Nat) : Nat :=
  ceilDiv (c.len (piece % c.chunks)) 256 - ((c.gone.find? fun g => g.1 == piece).map (·.2)).getD 0
def Coll.sent (c : Coll) (piece n : Nat) : Coll :=
  { c with gone := (piece, ceilDiv (c.len (piece % c.chunks)) 256 - c.unsent piece + n) :: c.gone.filter fun g => g.1 != piece }

/-- The flits of a chunk's pieces leave, each by its own lane, as many as the lanes' rates let; or the governor drops them. -/
def State.sendPieces (s : State) (id chunk members : Nat) : State :=
  match s.pkg.colls.find? fun c => c.id == id with
  | none => s
  | some c =>
    (c.pieces chunk members).foldl (fun s p =>
      let n := c.unsent p
      if !s.mayReach (c.at 4) true then (s.dropFlits n).modColl id fun c => c.sent p n
      else match s.planeOf p with
        | none => s
        | some lane =>
          let k := s.laneLeft lane n
          (s.sendFlits lane k).modColl id fun c => c.sent p k) s

/-- What this package sends for a chunk has left. -/
def State.piecesSent (s : State) (id chunk members : Nat) : Bool :=
  (s.pkg.colls.find? fun c => c.id == id).all fun c => (c.pieces chunk members).all fun p => c.unsent p == 0

/-- The contributions to a chunk: the other packages' and this one's, of a broadcast its source's alone. -/
def State.contributions (s : State) (c : Coll) (own : List Byte × Bool) (parts : List Contribution) : List Contribution :=
  let others := parts.filter fun p => p.pkg != s.pkg.id
  let all := (⟨s.pkg.id, own.1, own.2⟩ :: others).mergeSort fun a b => decide (a.pkg ≤ b.pkg)
  if c.at 0 = 3 then all.filter fun p => p.pkg == c.at 3 else all

/-- A chunk of a collective lands, once what this package sends for it has left: the planes combine the contributions of the other
packages with this one's. A chunk whose group the package may not address is dropped by the governor, and nothing comes back
(R338; log 30). -/
def execCollectiveChunk (id chunk : Nat) (parts : List Contribution) (lost : Bool) (s : State) :
    Host.Outcome State Fault Refusal :=
  .next <|
    let e : Instr := .collectiveChunk id chunk parts lost
    match s.pkg.colls.find? fun c => c.id == id, s.planeOf chunk with
    | some c, some _ =>
      let rank := (parts.filter fun p => decide (p.pkg < s.pkg.id)).length
      let members := (parts.filter fun p => p.pkg != s.pkg.id).length + 1
      let late := c.desc.isEmpty || c.done.contains chunk || decide (c.chunks ≤ chunk)
      let s := if s.contributes c && !late then s.sendPieces id chunk members else s
      if late then s
      else if s.contributes c && !s.mayReach (c.at 4) true then s
      else if s.contributes c && !s.piecesSent id chunk members then s.later (800 - s.time % 800) e
      else
        match (if s.contributes c then s.ownPart c rank chunk else some ([], false)) with
        | none => s.again e
        | some own =>
          let all := s.contributions c own parts
          let out := collLands c chunk all
          if !out.all fun o => o.1.all fun b => (s.virt .engWrite c.asid b.1).isSome then s.again e
          else
            let s := out.foldl (fun s o =>
              s.putBytes 0 (fun a => s.virt .engWrite c.asid a) o.1 (if o.2 then granuleAddrs o.1 else [])) s
            let bad := (all.filter (·.poisoned)).map fun p => (chunk, p.pkg)
            (s.modColl id fun c => { c with done := chunk :: c.done, errs := c.errs ++ bad, lost := c.lost || lost }).collOver id
    | _, _ => s

/-! ## The egress governor (R338) -/

/-- A flit leaves by a lane: outside the set it is dropped and counted, beyond the rate it waits. -/
def execEgressFlit (lane dst : Nat) (isGroup : Bool) (s : State) : Host.Outcome State Fault Refusal :=
  .next <|
    if !s.pkg.booted || decide (72 ≤ lane) then s
    else if !s.mayReach dst isGroup then s.dropFlits 1
    else if s.laneLeft lane 1 = 0 then s.later (800 - s.time % 800) (.egressFlit lane dst isGroup)
    else s.sendFlits lane 1

/-! ## Boot, attestation, keys (R296, R336, R337) -/

/-- The first image that verifies and is new enough. -/
def bootImage (minVer : Nat) (l : List Image) : Option Image :=
  l.find? fun i => i.digestOk && i.keyOk && decide (minVer ≤ i.version)

/-- A package reset (R336): the ROM loads the egress configuration and starts the firmware, or halts the package and
reports. What it keeps is in log 33. -/
def execPackageReset (sigOk : Bool) (egress : EgressConfig) (sources : List Image) (s : State) :
    Host.Outcome State Fault Refusal :=
  .next <|
    let img := bootImage s.pkg.fwMin sources
    let p := { Pkg.zero with
      id := s.pkg.id, fwMin := s.pkg.fwMin, keyGen := s.pkg.keyGen, link := s.pkg.link,
      egress := if sigOk then egress else ⟨[], [], []⟩, booted := img.isSome, fwVersion := (img.map (·.version)).getD 0,
      fwImage := (img.map (·.bits)).getD 0,
      reports := if img.isSome then [] else [[]] }
    let t := { State.reset with
      mem := s.mem, memTag := s.memTag, poison := s.poison, veils := s.veils, hostMem := s.hostMem, pkg := p, time := s.time, epoch := s.epoch,
      nextId := s.nextId, inputs := s.inputs, sched := s.sched, freeCtr := s.freeCtr }
    [0, 1, 2, 3].foldl (fun t d => t.modDie d fun k => { k with clk := 0 - BitVec.ofNat 64 s.time }) t

/-- The egress configuration as a text of numbers. -/
def egressText (e : EgressConfig) : List Nat :=
  e.rates.length :: e.rates ++ e.packages.length :: e.packages ++ e.groups.length :: e.groups

/-- What a report holds (R337): the digests of the ROM, the egress configuration and the running image, the fused counter and the
nonce, in this layout (log 33). -/
def State.attested (s : State) (nonce : Nat) : List Byte :=
  Config.digest Config.rom ++ Config.digest (egressText s.pkg.egress) ++ Config.digest [s.pkg.fwImage] ++ leBytes 8 s.pkg.fwMin ++
    leBytes 32 nonce

/-- The firmware answers an attestation request: the report and its signature. -/
def execAttestationRequest (nonce : Nat) (s : State) : Host.Outcome State Fault Refusal :=
  .next (if s.pkg.booted then s.answer (s.attested nonce ++ Config.sign (s.attested nonce)) else s)

/-- The kiln cores load a fresh key into an identifier. -/
def execKeyLoad (id : Nat) (s : State) : Host.Outcome State Fault Refusal :=
  .next (if s.pkg.booted && decide (id < 4096) then
    s.modPkg fun p => { p with keyGen := SMap.mod 0 p.keyGen id fun n => n + 1 } else s)

/-! ## Power, heat, management, debug (R339-R341, R348) -/

/-- A die at 105 degrees or more stretches the clock. -/
def State.hot (s : State) : Bool := [0, 1, 2, 3].any fun d => decide (105 ≤ SMap.get 0 s.pkg.thermal d)

/-- The clamp: the draw, averaged over a millisecond, in watts. -/
def execPowerClamp (draw : Nat) (s : State) : Host.Outcome State Fault Refusal :=
  .next (s.modPkg fun p => { p with clamped := decide (p.power ≤ draw) || s.hot })

/-- Halts every group of every team. -/
def State.haltAll (s : State) : State :=
  s.liveTeams.foldl (fun s t => (s.team t).liveGroups.foldl (fun s g => s.modGroup t g fun x => { x with halted := true }) s) s

/-- A die's junction temperature (R341; log 31). -/
def execThermalLimit (die temp : Nat) (s : State) : Host.Outcome State Fault Refusal :=
  .next <|
    let s := s.modPkg fun p => { p with thermal := SMap.set 0 p.thermal die temp }
    let s := s.modPkg fun p => { p with clamped := p.clamped || decide (105 ≤ temp) }
    if temp < 115 then s
    else
      let s := [0, 1, 2, 3].foldl (fun s d => s.modDie d fun k => { k with throttled := true }) s.haltAll
      s.tellKiln 1 die

/-- The management window. -/
def managed (a n : Nat) : Bool := decide (mgmtPa ≤ a) && decide (a + n ≤ mgmtPa + mgmtSize)

/-- The management port reads or writes device memory in its window under key 0; anything else is an error, an empty answer
here (R340). -/
def execManagementAccess (pa : DWord) (n : Nat) (wr : Option (List Byte)) (s : State) : Host.Outcome State Fault Refusal :=
  .next <|
    match wr with
    | none => s.answer (if managed pa.toNat n then s.readPas 0 pa.toNat n else [])
    | some bs =>
      if managed pa.toNat bs.length then
        (s.writePas 0 pa.toNat bs).noteWrite (memWatch pa.toNat)
      else s.answer []

/-- Every group of a team ends where it stands: its lines close, at every call depth (log 34). -/
def State.killTeam (s : State) (t : Nat) : State :=
  let s := (s.boundRegs.filter fun r => r.team == t).foldl (fun s r => s.closeLine r) s
  let s := (s.team t).groupIds.foldl (fun s g =>
    let s := s.withdraw t g
    s.modGroup t g fun x =>
      { x with live := false, halted := false, abort := none, depth := 0, frames := [], c := { x.c with a := .off, x := .off, latch := none } }) s
  (((s.askCkpt t).recheckBarriers t)).later 1 (.teamEnd t)

/-- A tag state as its 32 bytes (R257). -/
def tagNat (y : TagState) : Nat :=
  y.issued.toNat + 2 ^ 32 * y.landed.toNat + 2 ^ 64 * bit01 y.err + 2 ^ 65 * bit01 y.pois + 2 ^ 128 * y.faddr.toNat
def tagOf (x : Nat) : TagState :=
  ⟨BitVec.ofNat 32 (field x 0 32), BitVec.ofNat 32 (field x 32 32), field x 64 1 == 1, field x 65 1 == 1, BitVec.ofNat 64 (field x 128 64)⟩

/-- A piece of the X stream, which only a split group has. -/
def onX : DebugLoc → Bool
  | .vec x _ _ | .bank x _ _ | .uni x _ | .pred x _ | .pc x _ | .amask x | .fstat x | .partw x | .rgncnt x | .rgnEntry x
  | .tcause x | .tlane x | .tadr x | .gen x _ | .keptAmask x | .keptPc x _ | .keptFstat x | .keptPartw x => x
  | _ => false

/-- A piece of a halted group's state: none where the group has no such piece. -/
def Group.debugRead (g : Group) : DebugLoc → Option Nat
  | .vec x r i => if r < g.window x ∧ i < 32 then some (SMap.get 0 (g.stream x).v (32 * r + i)).toNat else none
  | .bank x r i => if 176 ≤ r ∧ r < 192 ∧ i < 32 then some (SMap.get 0 (g.stream x).bank (32 * r + i)).toNat else none
  | .uni x r => if r < 32 then some ((g.stream x).uni r).toNat else none
  | .pred x p => if p = 0 ∨ 8 ≤ p then none else some (SMap.get 0 (g.stream x).p p).toNat
  | .pc x i => if i < 32 then some ((g.stream x).pc i).toNat else none
  | .amask x => some (g.stream x).amask.toNat
  | .fstat x => some (g.stream x).fstat.toNat
  | .partw x => some (g.stream x).partw.toNat
  | .rgncnt x => some (g.stream x).rgncnt.toNat
  | .rgnEntry x => some (g.stream x).rgnEntry.toNat
  | .tcause x => some (g.stream x).tcause.toNat
  | .tlane x => some (g.stream x).tlane.toNat
  | .tadr x => some (g.stream x).tadr.toNat
  | .gen x i => if i < 32 then some ((g.stream x).genOf i).toNat else none
  | .acc a e => if a < g.c.abud ∧ e < 4096 then some (SMap.get 0 g.c.accs (4096 * a + e)).toNat else none
  | .rowM a r => if a < g.c.abud ∧ r < 64 then some (g.rowM a r).toNat else none
  | .rowHi a r => if a < g.c.abud ∧ r < 64 then some (g.rowHi a r).toNat else none
  | .rowLo a r => if a < g.c.abud ∧ r < 64 then some (g.rowLo a r).toNat else none
  | .decl cv => if cv < 4 then some (g.decl cv).toNat else none
  | .enrolled r => if r < 4 then some (g.enrolled r).toNat else none
  | .arrived r => if r < 4 then some (g.arrived r).toNat else none
  | .signed cv => if cv < 4 then some (g.signed cv).toNat else none
  | .line _ _ => none
  | .queueCount q => if q < 4 then some (g.queue q).length else none
  | .queue q j i => if q < 4 ∧ i < 32 then ((g.queue q)[j]?).map fun e => (SMap.get 0 e.lanes i).toNat else none
  | .tag n w => if n < 8 ∧ w < 4 then some (field (tagNat (SMap.get .zero g.c.tags n)) (64 * w) 64) else none
  | .asid => some g.c.asid.toNat
  | .kvroot => some g.c.kvroot.toNat
  | .keptAmask x => if (g.stream x).mode = .normal then none else some (g.stream x).kept.amask.toNat
  | .keptPc x i => if (g.stream x).mode ≠ .normal ∧ i < 32 then some (SMap.get 0 (g.stream x).kept.lpc i).toNat else none
  | .keptFstat x => if (g.stream x).mode = .normal then none else some (g.stream x).kept.fstat.toNat
  | .keptPartw x => if (g.stream x).mode = .normal then none else some (g.stream x).kept.partw.toNat

/-- Writes such a piece; a reserved bit stays zero, and a value that a register cannot hold is not written. -/
def Group.debugWrite (g : Group) (l : DebugLoc) (v : DWord) : Group :=
  let w : Word := v.setWidth 32
  let on := fun (x : Bool) (f : Stream → Stream) => g.setStream x (f (g.stream x))
  if (g.debugRead l).isNone || (onX l && !g.split) then g
  else
    match l with
    | .vec x r i => on x fun st => { st with v := SMap.set 0 st.v (32 * r + i) w }
    | .bank x r i => on x fun st => { st with bank := SMap.set 0 st.bank (32 * r + i) w }
    | .uni x r => on x fun st => st.setUni r w
    | .pred x p => on x fun st => { st with p := SMap.set 0 st.p p w }
    | .pc x i => if pcValid v then on x fun st => st.setPc i v else g
    | .amask x => if w = 0 then g else on x fun st => { st with amask := w }
    | .fstat x => on x fun st => { st with fstat := w &&& 0x1F }
    | .partw x => if [2, 4, 8, 16, 32].contains w.toNat then on x fun st => { st with partw := w } else g
    | .rgncnt x => on x fun st => { st with rgncnt := w }
    | .rgnEntry x => if pcValid v then on x fun st => { st with rgnEntry := v } else g
    | .tcause x => on x fun st => { st with tcause := w &&& 0x1FFFF }
    | .tlane x => on x fun st => { st with tlane := w }
    | .tadr x => on x fun st => { st with tadr := v }
    | .gen x i => on x fun st => st.setGen i w
    | .acc a e => { g with c.accs := SMap.set 0 g.c.accs (4096 * a + e) w }
    | .rowM a r => g.setRow a r w (g.rowHi a r) (g.rowLo a r)
    | .rowHi a r => g.setRow a r (g.rowM a r) w (g.rowLo a r)
    | .rowLo a r => g.setRow a r (g.rowM a r) (g.rowHi a r) w
    | .decl cv => g.setDecl cv w
    | .enrolled r => { g with c.rjEnr := SMap.set 0 g.c.rjEnr r w }
    | .arrived r => { g with c.rjArr := SMap.set 0 g.c.rjArr r w }
    | .signed cv => g.setSigned cv w
    | .line _ _ | .queueCount _ => g
    | .queue q j i => g.setQueue q ((g.queue q).modify j fun e => { e with lanes := SMap.set 0 e.lanes i w })
    | .tag n k =>
      let x := tagNat (SMap.get .zero g.c.tags n)
      { g with c.tags := SMap.set .zero g.c.tags n (tagOf (x - field x (64 * k) 64 * 2 ^ (64 * k) + v.toNat * 2 ^ (64 * k))) }
    | .asid => if v.toNat < 2 ^ 16 then { g with c.asid := v.setWidth 16 } else g
    | .kvroot => if field v.toNat 0 6 = 0 ∧ field v.toNat 52 12 = 0 then { g with c.kvroot := v } else g
    | .keptAmask x => on x fun st => { st with kept.amask := w &&& st.kept.m0 }
    | .keptPc x i => if pcValid v then on x fun st => { st with kept.lpc := SMap.set 0 st.kept.lpc i v } else g
    | .keptFstat x => on x fun st => { st with kept.fstat := w &&& 0x1F }
    | .keptPartw x => if [2, 4, 8, 16, 32].contains w.toNat then on x fun st => { st with kept.partw := w } else g

/-- The debug interface reads a piece of a halted group's state, a line register as its descriptor (R30). -/
def State.debugLoc (s : State) (t g : Nat) (l : DebugLoc) : Option Nat :=
  match l with
  | .line n high =>
    if n < 16 then some (field (s.descriptor ⟨t, g, (s.group t g).depth, false, false, n⟩).toNat (if high then 64 else 0) 64) else none
  | l => (s.group t g).debugRead l

/-- It writes one: a descriptor as a restore does, RECALLED or EMPTY, what the register held leaving first (log 33). -/
def State.debugPut (s : State) (t g : Nat) (l : DebugLoc) (v : DWord) : State :=
  match l with
  | .line n high =>
    let r : LineRef := ⟨t, g, (s.group t g).depth, false, false, n⟩
    let x := (s.descriptor r).toNat
    let x := if high then field x 0 64 + 2 ^ 64 * v.toNat else 2 ^ 64 * field x 64 64 + v.toNat
    if decide (n < 16) && !descriptorBad x && (field x 0 2 == 0 || field x 0 2 == 3) then
      (s.leaveLine r).setLineAt r (s.savedLine (s.group t g).c.asid t x)
    else s
  | l => s.modGroup t g fun x => x.debugWrite l v

/-- The debug interface reads or writes a halted group's state, resumes the group with each lane at its LPC, or ends its team
(R348; log 33). -/
def execDebugResume (t g : Nat) (act : DebugAction) (s : State) : Host.Outcome State Fault Refusal :=
  .next <|
    if !(s.group t g).halted || !(s.team t).live then s
    else
      match act with
      | .resume =>
        let s := s.modGroup t g fun x => { x with halted := false }
        (s.group t g).sides.foldl (fun s x => s.later 1 (.trapEntry ⟨t, g, x⟩)) s
      | .endTeam =>
        if s.recallRoom (s.boundRegs.filter fun r => r.team == t) then s.killTeam t else s.again (.debugResume t g .endTeam)
      | .read l =>
        let x := s.group t g
        s.answer (if onX l && !x.split then [] else (s.debugLoc t g l).elim [] (leBytes 8))
      | .write l v =>
        let free := match l with
          | .line n _ => s.recallRoom [⟨t, g, (s.group t g).depth, false, false, n⟩]
          | _ => true
        if free then s.debugPut t g l v else s.again (.debugResume t g (.write l v))

/-- The widths and rates (GT/s) at which the host port trains, falling back (R328; the list of lower rates is PRESUMED, log 50). -/
def fallBack (l : List Nat) (n : Nat) : Nat := (l.find? fun k => decide (k ≤ n)).getD 0

def execHostLinkTraining (width rate : Nat) (s : State) : Host.Outcome State Fault Refusal :=
  .next (s.modPkg fun p => { p with link := (fallBack [16, 8, 4, 2, 1] width, fallBack [128, 64, 32, 16, 8, 5, 2] rate) })

end Sys2Proof.Machine
end

