-- ==== Sys2Proof/Machine/Lanes.lean ====
section
/-!
DEFINITION. Group operations: instructions that combine the executing lanes of a tile (05 R126-R131, 12 R270, R271).
-/

namespace Sys2Proof.Machine

/-- The tile width (R127). -/
def State.tileW (s : State) : Nat := s.here.partw.toNat

/-- The first lane of a lane's tile. -/
def tileBase (w i : Nat) : Nat := w * (i / w)

/-- The executing lanes of a lane's tile (R126). -/
def tileLanes (w : Nat) (ex : Mask) (i : Nat) : List Nat :=
  (maskLanes ex).filter fun j => j / w == i / w

/-- VOTE's sets T and Y for a lane (R128). -/
def voteSets (s : State) (ex : Mask) (p : Fin 8) (i : Nat) : List Nat × List Nat :=
  let t := tileLanes s.tileW ex i
  (t, t.filter fun j => (s.here.pred p).getLsbD j)

def execVote (g : Guard) (form : VoteForm) (a : Fin 8) (s : State) : Host.Outcome State Fault Refusal :=
  let us := match form with
    | .every d => [Use.pout d, .pin a]
    | .some d => [.pout d, .pin a]
    | .same d => [.pout d, .pin a]
    | .lanes d => [d1 d, .pin a]
    | .count d => [d1 d, .pin a]
    | .first d => [d1 d, .pin a]
  issue { g := g, uses := us }
    (fun c s =>
      let ty := voteSets s c.ex a
      .done (match form with
        | .every d => s.setPred d c.ex fun i => (ty i).2.length == (ty i).1.length
        | .some d => s.setPred d c.ex fun i => !(ty i).2.isEmpty
        | .same d => s.setPred d c.ex fun i => (ty i).2.length == (ty i).1.length || (ty i).2.isEmpty
        | .lanes d => s.setDst d c.ex fun i => maskOf fun j => (ty i).2.contains j
        | .count d => s.setDst d c.ex fun i => BitVec.ofNat 32 (ty i).2.length
        | .first d => s.setDst d c.ex fun i =>
            BitVec.ofNat 32 (((ty i).2.head?.map fun j => j % s.tileW).getD s.tileW))) s

/-- The source lane of SHFL (R129). -/
def shflLane (m : ShflMode) (w i n : Nat) : Nat :=
  let pos := i % w
  let base := tileBase w i
  match m with
  | .pick => base + n % w
  | .lo => if n ≤ pos then i - n else i
  | .hi => if pos + n < w then i + n else i
  | .swz => base + (pos ^^^ (n % w))
  | .rol => base + (pos + n) % w
  | .ror => base + (pos + (w - n % w)) % w

def execShfl (g : Guard) (mode : ShflMode) (d : Dst) (a b : Src) (s : State) : Host.Outcome State Fault Refusal :=
  issue { g := g, uses := [d1 d, u1 a, u1 b] }
    (fun c s => .done (s.setDst d c.ex fun i => s.src a (shflLane mode s.tileW i (s.src b i).toNat))) s

/-- The operations of REDG, with the flags they raise (R130). -/
def redgOp (op : RedgOp) (rm : Rm) (x y : Word) : Word × Flags :=
  match op with
  | .add => (x + y, 0)
  | .min => (if y.toInt < x.toInt then y else x, 0)
  | .max => (if x.toInt < y.toInt then y else x, 0)
  | .umin => (if y.toNat < x.toNat then y else x, 0)
  | .umax => (if x.toNat < y.toNat then y else x, 0)
  | .and => (x &&& y, 0)
  | .or => (x ||| y, 0)
  | .xor => (x ^^^ y, 0)
  | .fadd => let r := fpAdd f32 rm false x.toNat y.toNat; (BitVec.ofNat 32 r.1, r.2)
  | .fmin => let r := fpMinMax f32 false x.toNat y.toNat; (BitVec.ofNat 32 r.1, r.2)
  | .fmax => let r := fpMinMax f32 true x.toNat y.toNat; (BitVec.ofNat 32 r.1, r.2)

/-- One node of the tree: absent positions pass the other side on. -/
def redgNode (op : RedgOp) (rm : Rm) (x y : Option (Word × Flags)) : Option (Word × Flags) :=
  match x, y with
  | some a, some b => let r := redgOp op rm a.1 b.1; some (r.1, a.2 ||| b.2 ||| r.2)
  | none, y => y
  | x, none => x

/-- The tree over neighbouring positions (R130): the values of level k pair up into level k + 1. -/
def redgPairs (op : RedgOp) (rm : Rm) : List (Option (Word × Flags)) → List (Option (Word × Flags))
  | x :: y :: l => redgNode op rm x y :: redgPairs op rm l
  | l => l

/-- redgTree: five levels cover 32 positions. -/
def redgTree (op : RedgOp) (rm : Rm) (l : List (Option (Word × Flags))) : Word × Flags :=
  let f := redgPairs op rm
  ((f (f (f (f (f l))))).head?.getD none).getD (0, 0)

/-- The combination of a lane's tile. -/
def redgOf (s : State) (op : RedgOp) (rm : Rm) (a : Src) (ex : Mask) (i : Nat) : Word × Flags :=
  let w := s.tileW
  redgTree op rm ((List.range w).map fun k =>
    let j := tileBase w i + k
    if ex.getLsbD j then some (s.src a j, 0) else none)

def execRedg (g : Guard) (op : RedgOp) (rm : Rm) (d : Dst) (a : Src) (s : State) : Host.Outcome State Fault Refusal :=
  issue { g := g, uses := [d1 d, u1 a] }
    (fun c s =>
      let r := fun i => redgOf s op rm a c.ex i
      .done ((s.setDst d c.ex fun i => (r i).1).raise (orFlags c.ex fun i => (r i).2))) s

/-- SCAN's operation, whether it excludes the lane itself, and its identity. -/
def scanOp (op : ScanOp) (rm : Rm) (x y : Word) : Word × Flags :=
  match op with
  | .add | .addx => (x + y, 0)
  | .fadd | .faddx => let r := fpAdd f32 rm false x.toNat y.toNat; (BitVec.ofNat 32 r.1, r.2)
  | .max => (if x.toInt < y.toInt then y else x, 0)
  | .min => (if y.toInt < x.toInt then y else x, 0)
def scanExcl : ScanOp → Bool
  | .addx => true
  | .faddx => true
  | _ => false

/-- The chain of R131 over the lanes of one tile, ascending: each executing lane's result, and the flags. -/
def scanChain (op : ScanOp) (rm : Rm) (starts : Nat → Bool) (val : Nat → Word) :
    List Nat → Option Word → Flags → List (Nat × Word) → List (Nat × Word) × Flags
  | [], _, fl, out => (out, fl)
  | i :: l, run, fl, out =>
    let run := if starts i then none else run
    let r : Word × Flags := match run with
      | none => (val i, 0)
      | some x => scanOp op rm x (val i)
    let res := if scanExcl op then run.getD 0 else r.1
    scanChain op rm starts val l (some r.1) (fl ||| r.2) ((i, res) :: out)

/-- The results of every tile. -/
def scanAll (s : State) (op : ScanOp) (rm : Rm) (starts : Nat → Bool) (a : Src) (ex : Mask) :
    List (Nat × Word) × Flags :=
  (List.range (32 / s.tileW)).foldl (fun r k =>
    let q := scanChain op rm starts (fun i => s.src a i) (tileLanes s.tileW ex (k * s.tileW)) none 0 []
    (r.1 ++ q.1, r.2 ||| q.2)) ([], 0)

def execScan (g : Guard) (op : ScanOp) (seg : Option (Fin 8)) (rm : Rm) (d : Dst) (a : Src) (s : State) :
    Host.Outcome State Fault Refusal :=
  issue { g := g, uses := [d1 d, u1 a] ++ (match seg with | some p => [Use.pin p] | none => []) }
    (fun c s =>
      let starts := fun i => match seg with
        | some p => (s.here.pred p).getLsbD i
        | none => false
      let r := scanAll s op rm starts a c.ex
      .done ((s.setDst d c.ex fun i => ((r.1.find? fun x => x.1 == i).map (·.2)).getD 0).raise r.2)) s

/-- PART checks its value whatever the lanes (R127). -/
def execPart (g : Guard) (b : Src) (s : State) : Host.Outcome State Fault Refusal :=
  issue { g := g, uses := [u1 b], lanes := false }
    (fun c s =>
      let w := s.src b (low c.iss)
      if w = 2 ∨ w = 4 ∨ w = 8 ∨ w = 16 ∨ w = 32 then
        .done (if c.ex = 0 then s else s.modHere fun st => { st with partw := w })
      else c.illegal) s

/-- The key of a lane (R270). -/
def matchKey (s : State) (wide : Bool) (a b : Src) (j : Nat) : DWord :=
  if wide then
    let x := s.srcPair a j
    pairOf (x.setWidth 32) (x.extractLsb' 32 32 &&& s.src b j)
  else (s.src a j &&& s.src b j).setWidth 64

def execMatchLanes (g : Guard) (wide : Bool) (d : Dst) (a b : Src) (s : State) : Host.Outcome State Fault Refusal :=
  issue { g := g, uses := [d1 d, if wide then u2 a else u1 a, u1 b] }
    (fun c s => .done (s.setDst d c.ex fun i =>
      maskOf fun j => (tileLanes s.tileW c.ex i).contains j && matchKey s wide a b j == matchKey s wide a b i)) s

/-- COMPACT's value for a lane (R271). -/
def compactVal (s : State) (ex : Mask) (a b : Src) (p : Fin 8) (i : Nat) : Word :=
  let e := tileLanes s.tileW ex i
  let surv := e.filter fun j => (s.here.pred p).getLsbD j
  match surv[(e.idxOf i)]? with
  | some j => s.src a j
  | none => s.src b i

def execCompact (g : Guard) (d : Dst) (a b : Src) (p : Fin 8) (s : State) : Host.Outcome State Fault Refusal :=
  issue { g := g, uses := [d1 d, u1 a, u1 b, .pin p] }
    (fun c s => .done (s.setDst d c.ex fun i => compactVal s c.ex a b p i)) s

end Sys2Proof.Machine
end

