-- ==== Sys2Proof/Machine/Locks.lean ====
section
/-!
DEFINITION. Scratchpad locks (R233, R234): LLK and SUL.
-/

namespace Sys2Proof.Machine

/-- The lock bit of the word at a lane's offset. -/
def bitOf (l : LineReg) (o : Nat → Nat) (i : Nat) : Nat := lockOf (128 * l.line + o i)

/-- A lane holds a bit other than one that it was given while it waited for it. -/
def State.holdsOther (s : State) (id : StreamId) (b i : Nat) : Bool :=
  (s.team id.team).st.locks.any fun p =>
    heldBy p.2 id.grp (lockLane id.x i) && !(p.1 == b && (match (s.stream id).holdOf i with
      | some (.llk b' _) => b' == b
      | _ => false))

/-- Takes bits for lanes, ascending: the lanes that got theirs. -/
def State.takeLocks (s : State) (id : StreamId) (bit : Nat → Nat) : List Nat → List Nat × State
  | [] => ([], s)
  | i :: l =>
    let h := (s.team id.team).lock (bit i)
    let me := (id.grp, lockLane id.x i + 64 * (s.group id.team id.grp).depth)
    if h = none ∨ heldBy h id.grp (lockLane id.x i) then
      let r := (s.modTeam id.team fun t => t.setLock (bit i) (some me)).takeLocks id bit l
      (i :: r.1, r.2)
    else s.takeLocks id bit l

/-- The lanes that stay wait for their bits, from their first attempt on. -/
def Stream.waitLocks (st : Stream) (m : Mask) (bit : Nat → Nat) (date : Nat) : Stream :=
  (maskLanes m).foldl (fun st i =>
    match st.holdOf i with
    | some (.llk b _) => if b = bit i then st else st.setHold i (some (.llk (bit i) date))
    | _ => st.setHold i (some (.llk (bit i) date))) st

def execLlk (g : Guard) (la : Fin 16) (wide : Bool) (d : Dst) (l : LOp) (s : State) : Host.Outcome State Fault Refusal :=
  issue { g := g, uses := [if wide then d2 d else d1 d, u1 l.b, .line l.ln], la := some la, noCalleeSp := true,
          path := some .ls }
    (fun c s =>
      let o := s.lineOff l
      let n := if wide then 8 else 4
      match s.checkLine c l.ln n o (fun l => l.mode == 3) false with
      | .stop a => a
      | .ok _ lr =>
        let bit := bitOf lr o
        let twice := maskOf fun i => c.ex.getLsbD i && s.holdsOther c.id (bit i) i
        if twice ≠ 0 then c.trapOf 13 0 c.pc twice
        else
          let r := s.takeLocks c.id bit (maskLanes c.ex)
          let got := maskOf fun i => r.1.contains i
          let stay := c.ex &&& ~~~got
          if got = 0 ∧ c.iss = c.ex then
            if s.resumed then .hold else .jump (s.modStream c.id fun st => st.waitLocks stay bit s.time)
          else
            let c' : Ctx := { c with iss := c.iss &&& ~~~stay, ex := got }
            r.2.linePoison c' lr o <|
              let f := fun k i => BitVec.ofNat 32 (s.lineNat c.id lr (o i + 4 * k) 4)
              let t := r.2.modStream c.id fun st => (st.setHolds got none).waitLocks stay bit s.time
              let t := if got = 0 then t.pushZeros [d1 d] else t.longLat c' la d (n / 4) f 0
              .jump (t.advance c.id c'.iss)) s

/-- One lane of SUL: its store, then its bit is given back where the lane holds it. -/
def State.unlockLane (s : State) (c : Ctx) (l : LineReg) (n : Nat) (o : Nat → Nat) (b : Src) (i : Nat) : State :=
  let x := leNat ((s.srcs b (n / 4) i).flatMap fun w => leBytes 4 w.toNat)
  let bs := (leBytes n x).zipIdx.map fun p => (o i + p.2, p.1)
  let s := s.storeLine s.myCore l.key (LWrite.mk' c.id.team c.id.grp s.time false bs)
  if heldBy ((s.team c.id.team).lock (bitOf l o i)) c.id.grp (lockLane c.id.x i) then s.freeLock c.id.team (bitOf l o i)
  else s

def execSul (g : Guard) (wide : Bool) (l : LOp) (b : Src) (s : State) : Host.Outcome State Fault Refusal :=
  issue { g := g, uses := [u1 l.b, if wide then u2 b else u1 b, .line l.ln], noCalleeSp := true, path := some .ls }
    (fun c s =>
      let o := s.lineOff l
      let n := if wide then 8 else 4
      match s.checkLine c l.ln n o (fun l => l.mode == 3) false with
      | .stop a => a
      | .ok _ lr =>
        if !s.journalRoom s.myCore c.id.team lr.key then .hold
        else
          let bs := s.storeBytes c (if wide then .d else .w) o b
          let s := s.record (0x88 + 256 * n) c.ex (lineRecord lr bs)
          .done (((maskLanes c.ex).foldl (fun s i => s.unlockLane c lr n o b i) s).journalCheck s.myCore)) s

end Sys2Proof.Machine
end

