-- ==== Sys2Proof/Machine/Multicast.lean ====
section
/-!
DEFINITION. CMCAST (10 R237, R238): a scratchpad line copied into the scratchpads of members of a cluster.
-/

namespace Sys2Proof.Machine

/-- The members that a mask names: the lowest number that is not a current member, or the teams. -/
def castMembers (cl : Option Cluster) (m : Nat) : Nat ⊕ List Nat :=
  let named := (List.range 16).filter fun k => m.testBit k
  let team := fun k => cl.bind fun c => c.member k
  match named.find? fun k => (team k).isNone with
  | some k => .inl k
  | none => .inr (named.filterMap team)

/-- The checks of the destination, in order (R237). -/
def castCheck (c : Ctx) (s : State) (d m : Nat) (go : List Nat → Act) : Act :=
  let one := BitVec.twoPow 32 (low c.ex)
  if d % 128 ≠ 0 then c.trapOf 10 0 (BitVec.ofNat 64 d) one
  else if 65536 ≤ m then c.illegal
  else
    match castMembers (s.clusterOf c.id.team) m with
    | .inl k => c.trapOf 8 0 (BitVec.ofNat 64 (d % 2 ^ 21 + 2 ^ 56 * k)) one
    | .inr ts =>
      if ts.any fun t => decide ((s.team t).spadSize ≤ d) then c.trapOf 7 0 (BitVec.ofNat 64 d) one else go ts

/-- Issues a multicast: the source is read, the lines are no longer present, and the writes enter the lehr. -/
def State.startCast (s : State) (c : Ctx) (line d : Nat) (ts : List Nat) (at_ : Option DWord) : State :=
  let e := s.entry s.myCore (scratchKey c.id.team line)
  let bytes : Bytes := lineOffsets.map fun i => (i, e.byte i)
  let pois := (List.range 8).filter e.poisonAt
  let (n, s) := s.fresh
  let s := ts.foldl (fun s t => s.addPend t (d / 128) 1) s
  let s := s.modCore s.myCore fun k => { k with casts := k.casts ++ [⟨n, c.id.team, s.time, at_, ts, d / 128, ts.length⟩] }
  let s := s.askCkpt c.id.team
  ts.foldl (fun s t => s.enterLehr s.myCore c.id.team c.id.grp c.id.x s.time (.land n t d bytes pois)) s

def execCmcast (g : Guard) (at_ : Option (Fin 32)) (l : LOp) (b : Src) (s : State) : Host.Outcome State Fault Refusal :=
  issue { g := g, uses := [u1 l.b, u1 b, .line l.ln] ++ (match at_ with | some r => [u2 (.s r)] | none => []), cls := .a,
          noCalleeSp := true, noDmr := true, path := some .cl }
    (fun c s =>
      let i := low c.ex
      let one : Ctx := { c with ex := BitVec.twoPow 32 i }
      match s.checkLine one l.ln 128 (fun _ => 0) (fun l => l.mode == 3) false with
      | .stop a => a
      | .ok _ lr =>
        let d := s.lineOff l i
        castCheck c s d (s.src b i).toNat fun ts =>
          if ts.isEmpty then .done s
          else if !s.lehrTakes s.myCore c.id.team ts.length then .hold
          else .done (s.startCast c lr.line d ts (at_.map fun r => pairOf (s.here.uni r.val) (s.here.uni (r.val + 1))))) s

/-- The lines of a multicast become present at every member. -/
def State.castPresent (s : State) (c : CoreId) (k : Cast) : State :=
  (k.dests.foldl (fun s t => s.subPend t k.line 1) s).modCore c fun x => { x with casts := x.casts.filter fun y => y.id != k.id }

/-- A write of a multicast lands at its member; it sets the line's presence bit, or waits for the others where CMCAST.AT
says when (R238). -/
def State.castLands (s : State) (c : CoreId) (e : LehrEntry) (cast t off : Nat) (bytes : Bytes) (pois : List Nat) : State :=
  let w : LWrite := { LWrite.mk' e.team e.grp e.date false bytes with left := bytes.map (·.1), pois := pois }
  let s := (s.storeLine (s.teamCore t) (scratchKey t (off / 128)) w).journalCheck (s.teamCore t)
  let s := s.modCore c fun k => { k with lehr := k.lehr.filter fun x => x.id != e.id,
                                         casts := k.casts.map fun x => if x.id = cast then { x with left := x.left - 1 } else x }
  match (s.core c).casts.find? fun x => x.id == cast with
  | none => s
  | some k =>
    match k.at_ with
    | none =>
      let s := s.subPend t k.line 1
      if k.left = 0 then s.modCore c fun x => { x with casts := x.casts.filter fun y => y.id != cast } else s
    | some d =>
      if k.left ≠ 0 then s
      else if d.toNat ≤ (s.clk c.die).toNat then s.castPresent c k
      else s.later (d - s.clk c.die).toNat (.cmcastTimedPresence c cast)

def execCmcastLanding (c : CoreId) (id : Nat) (s : State) : Host.Outcome State Fault Refusal :=
  .next <|
    match (s.core c).lehr.find? fun e => e.id == id with
    | some e =>
      match e.work with
      | .land cast t off bytes pois =>
        if !e.sent then s
        else if !s.journalRoom (s.teamCore t) e.team (scratchKey t (off / 128)) then s.again (.cmcastLanding c id)
        else s.castLands c e cast t off bytes pois
      | _ => s
    | none => s

/-- The first cycle at or after T on which every landing has arrived. -/
def execCmcastTimedPresence (c : CoreId) (id : Nat) (s : State) : Host.Outcome State Fault Refusal :=
  .next <|
    match (s.core c).casts.find? fun k => k.id == id with
    | none => s
    | some k =>
      match k.at_ with
      | none => s
      | some d =>
        if k.left ≠ 0 then s
        else if (s.clk c.die).toNat < d.toNat then s.later 1 (.cmcastTimedPresence c id)
        else s.castPresent c k

end Sys2Proof.Machine
end

