-- ==== Sys2Proof/Machine/Narrow.lean ====
section
/-!
DEFINITION. Narrow data (06 R133-R139): conversions through a tensor identifier, and the packing of six- and four-bit codes.
-/

namespace Sys2Proof.Machine

/-- Each executing lane steps its generator (R97). -/
def State.stepGens (s : State) (ex : Mask) : State :=
  s.modHere fun st => (maskLanes ex).foldl (fun st i => st.setGen i (lfsrStep (st.genOf i))) st

def isSr : Rm → Bool
  | .sr => true
  | _ => false

/-- The draw of a lane, after its generator's step. -/
def State.draw (s : State) (i : Nat) : Nat := (lfsrStep (s.here.genOf i)).toNat / 256

/-- The condition of QNT and DQNT on their entry (R133). -/
def quantEntry (e : Tensor) (b : Src) : Bool := e.etype == 0 && (e.blk != 0 || b == .v 0)

def execQnt (g : Guard) (clamp : Bool) (rm : Rm) (d : Dst) (a b : Src) (tid : BitVec 12) (s : State) :
    Host.Outcome State Fault Refusal :=
  issue { g := g, cls := .x, uses := [d1 d, u1 a, u1 b] }
    (fun c s => tensorAt c tid.toNat s fun e s =>
      if !quantEntry e b then c.illegal
      else
        let f := NFmt.of e.nfd
        let one := fun i =>
          let x := f32.value (s.src a i).toNat
          let k := (s.src b i).toNat % 256
          let y := if e.blk = 0 then x else if k = 255 then .nan false else x.scaled (127 - k)
          f.round rm (s.draw i) (clamp || e.blk != 0) y false
        let s' := if isSr rm then s.stepGens c.ex else s
        .done (s'.setRes d c.ex one)) s

def execDqnt (g : Guard) (d : Dst) (a b : Src) (tid : BitVec 12) (s : State) : Host.Outcome State Fault Refusal :=
  issue { g := g, cls := .x, uses := [d1 d, u1 a, u1 b] }
    (fun c s => tensorAt c tid.toNat s fun e s =>
      if !quantEntry e b then c.illegal
      else
        let one := fun i =>
          let x := (NFmt.of e.nfd).value (s.src a i).toNat
          roundTo f32 .rn false (if e.blk = 0 then x else x.timesScale (s.src b i).toNat)
        .done (s.setRes d c.ex one)) s

/-- BSCALE: elements 2i and 2i + 1 of the row stand in lane i. -/
def execBscale (g : Guard) (d : Dst) (a b : Src) (tid : BitVec 12) (s : State) : Host.Outcome State Fault Refusal :=
  issue { g := g, cls := .x, uses := [d1 d, u1 a, u1 b] }
    (fun c s => tensorAt c tid.toNat s fun e s =>
      if e.etype ≠ 0 ∨ e.blk = 0 then c.illegal
      else
        let block := fun i => 2 * i / blockLen e.blk
        let xs := fun i => ((maskLanes c.ex).filter fun j => block j == block i).flatMap fun j =>
          [f32.value (s.src a j).toNat, f32.value (s.src b j).toNat]
        .done (s.setDst d c.ex fun i => BitVec.ofNat 32 (ue8Choose (xs i) (NFmt.of e.nfd)))) s

/-- The rounding modes that a form of CVTF accepts (R137). -/
def cvtfMode (e : Tensor) (from_ : Bool) (rm : Rm) : Bool :=
  e.etype != 7 && (rm == .rn || (!from_ && (match e.etype with
    | 0 => true
    | 6 => false
    | _ => rm != .sr)))

/-- CVTF.TO of one value. -/
def cvtfTo (e : Tensor) (rm : Rm) (r : Nat) (x : FVal) : Nat × Flags :=
  match e.etype with
  | 0 => (NFmt.of e.nfd).round rm r false x false
  | 4 => roundWith f16 rm false (x, sigFlags [x])
  | 5 => roundWith bf16 rm false (x, sigFlags [x])
  | 6 => roundWith f32 rm false (x, sigFlags [x])
  | _ =>
    let y := fpToInt rm (-(2 ^ (e.width - 1) : Int)) (2 ^ (e.width - 1) - 1) x
    ((BitVec.ofInt e.width y.1).toNat, y.2)

/-- CVTF.FROM of one code. -/
def cvtfFrom (e : Tensor) (code : Nat) : Nat × Flags :=
  let x := e.value code
  roundWith f32 .rn false (x, sigFlags [x])

def execCvtf (g : Guard) (from_ : Bool) (rm : Rm) (d : Dst) (a : Src) (tid : BitVec 12) (s : State) :
    Host.Outcome State Fault Refusal :=
  issue { g := g, cls := .x, uses := [d1 d, u1 a] }
    (fun c s => tensorAt c tid.toNat s fun e s =>
      if !cvtfMode e from_ rm then c.illegal
      else
        let one := fun i => if from_ then cvtfFrom e (s.src a i).toNat
          else cvtfTo e rm (s.draw i) (f32.value (s.src a i).toNat)
        let s' := if isSr rm then s.stepGens c.ex else s
        .done (s'.setRes d c.ex one)) s

/-- The smoothing vector of an entry with n channels (R102). -/
def Tensor.smooths (v : Tensor) (n : Nat) : Bool := v.etype == 6 && v.rows == 1 && v.cols == n

/-- SMOOTH reads the vector through the MX path (R138); an entry of another shape is invalid as R101 has it, TADR its address
(R102). -/
def execSmooth (g : Guard) (d : Dst) (a b : Src) (tid : BitVec 12) (s : State) : Host.Outcome State Fault Refusal :=
  issue { g := g, cls := .x, uses := [d1 d, u1 a, u1 b], path := some .mx }
    (fun c s => tensorAt c tid.toNat s fun e s =>
      if e.smode ≠ 1 then c.illegal
      else tensorAt c e.smid s fun v s =>
        if !v.smooths e.cols then
          c.trapOf 1 0 (BitVec.ofNat 64 (tensorAddr (s.group c.id.team c.id.grp).c.ttbase e.smid)) c.iss
        else if v.space ≠ 1 then c.illegal
        else
          let j := fun i => (s.src b i).toNat
          let inside := (maskLanes c.ex).filter fun i => decide (j i < e.cols)
          readPad c s (v.spans (inside.map fun i => (0, j i))) <|
            let one := fun i =>
              if e.cols ≤ j i then (f32.qnan, Flags.nv)
              else fpDiv f32 .rn (f32.value (s.src a i).toNat) (s.padValue c.id.team v 0 (j i))
            .done (s.setRes d c.ex one)) s

/-! ## Packing (R139) -/

/-- The stream of the low w bits of A of all 32 lanes. -/
def State.packLanes (s : State) (a : Src) (w : Nat) : Nat :=
  lanes.foldl (fun x j => x + (s.src a j).toNat % 2 ^ w * 2 ^ (w * j)) 0

/-- The stream that the first w words hold. -/
def State.streamWords (s : State) (a : Src) (w : Nat) : Nat :=
  (List.range w).foldl (fun x k => x + (s.src a k).toNat * 2 ^ (32 * k)) 0

/-- A code of w bits zero- or sign-extended. -/
def extendCode (w : Nat) (sgn : Bool) (x : Nat) : Word :=
  if sgn then (BitVec.ofNat w x).signExtend 32 else BitVec.ofNat 32 (x % 2 ^ w)

def execPack6 (g : Guard) (d : Dst) (a : Src) (s : State) : Host.Outcome State Fault Refusal :=
  issue { g := g, cls := .x, uses := [d1 d, u1 a] }
    (fun c s => .done (s.setDst d c.ex fun i => BitVec.ofNat 32 (s.packLanes a 6 / 2 ^ (32 * i)))) s

def execUnpk6 (g : Guard) (sgn : Bool) (d : Dst) (a : Src) (s : State) : Host.Outcome State Fault Refusal :=
  issue { g := g, cls := .x, uses := [d1 d, u1 a] }
    (fun c s => .done (s.setDst d c.ex fun i => extendCode 6 sgn (s.streamWords a 6 / 2 ^ (6 * i)))) s

def execPack4 (g : Guard) (d : Dst) (a : Src) (s : State) : Host.Outcome State Fault Refusal :=
  issue { g := g, cls := .x, uses := [d1 d, u1 a] }
    (fun c s => .done (s.setDst d c.ex fun i => BitVec.ofNat 32 (s.packLanes a 4 / 2 ^ (32 * i)))) s

def execUnpk4 (g : Guard) (sgn : Bool) (d : Dst) (a : Src) (s : State) : Host.Outcome State Fault Refusal :=
  issue { g := g, cls := .x, uses := [d1 d, u1 a] }
    (fun c s => .done (s.setDst d c.ex fun i => extendCode 4 sgn (s.streamWords a 4 / 2 ^ (4 * i)))) s

end Sys2Proof.Machine
end

