-- ==== Sys2Proof/Machine/Waiting.lean ====
section
/-!
DEFINITION. Waiting on memory (R195, R196): POLL with its back-off, LWAIT with its watch, and the steps that take them up
again.
-/

namespace Sys2Proof.Machine

/-! ## POLL (R195) -/

def pollTest (cmp : PollCmp) (w x : Word) : Bool :=
  match cmp with
  | .eq => w == x
  | .ne => w != x
  | .uge => decide (x.toNat ≤ w.toNat)
  | .ult => decide (w.toNat < x.toNat)

/-- The wait after k failed attempts. -/
def pollDelay (k : Nat) : Nat := min (16 * 2 ^ (k - 1)) 4096

/-- A failed attempt: the back-off grows, and the next attempt is due later. -/
def State.pollFails (s : State) (id : StreamId) (pc : DWord) : State :=
  let st := s.stream id
  let k := ((st.poll.find? fun p => p.pc == pc).map (·.tries)).getD 0 + 1
  let rest := st.poll.filter fun p => p.pc != pc
  (s.modStream id fun st => { st with back := min (st.back + 1) 6, poll := ⟨pc, k, s.time + pollDelay k, false⟩ :: rest }).later
    (pollDelay k) (.pollRetry id)

def execPoll (g : Guard) (cmp : PollCmp) (acq : Bool) (scope : Scope) (d : Dst) (l : LOp) (b : Src) (s : State) :
    Host.Outcome State Fault Refusal :=
  issue { g := g, uses := [d1 d, u1 l.b, u1 b, .line l.ln], noDmr := true, path := some .ls }
    (fun c s =>
      let o := s.lineOff l
      match s.checkLine c l.ln 4 o (fun l => l.mode != 1) false with
      | .stop a => a
      | .ok _ lr =>
        s.lineMatch c lr 4 o true false <|
          let look := fun (s : State) =>
            if lr.mode = 3 then s else (s.refreshLine c.id.team c.id.grp lr).getD s
          let s := look s
          s.linePoison c lr o <|
            let w := fun i => BitVec.ofNat 32 (s.lineNat c.id lr (o i) 4)
            if (maskLanes c.ex).all fun i => pollTest cmp (w i) (s.src b i) then
              let s := s.setDst d c.ex w
              let s := s.modHere fun st => { st with back := 0, poll := st.poll.filter fun p => p.pc != c.pc }
              .done (if acq then s.acquire c.id scope else s)
            else .wait fun s => (look s).pollFails c.id c.pc) s

/-- The next attempt of a POLL falls due: its program counter may issue again. -/
def execPollRetry (st : StreamId) (s : State) : Host.Outcome State Fault Refusal :=
  .next (s.modStream st fun x => { x with poll := x.poll.map fun p => { p with ready := p.ready || decide (p.due ≤ s.time) } })

/-! ## LWAIT (R196) -/

/-- The name of the line that a register watches; a MODE 1 register is not translated at its opening (R288). -/
def State.watchKey (s : State) (asid : BitVec 16) (die : Nat) (l : LineReg) : Nat :=
  if l.mode = 3 then l.key
  else if l.windowed then l.pa
  else if l.mode = 1 then s.watchName die (4 * globalKey asid l.line + 3)
  else if l.host then hostWatch l.pa
  else memWatch l.pa

/-- The date of the fetch that gave a register its contents. -/
def State.contentsDate (s : State) (t : Nat) (l : LineReg) : Nat :=
  if l.mode = 1 ∨ l.mode = 3 then l.fetched else max l.fetched (s.entry (s.teamCore t) l.key).fetched

/-- A partition's 4,096 watches are all in use. -/
def State.watchesFull (s : State) (k : Nat) : Bool :=
  let sts := s.teams.flatMap fun p => p.2.st.groups.flatMap fun q => [q.2.c.a, q.2.c.x]
  let keys := sts.filterMap fun st => st.watch.map (·.ln)
  k % 4 == 0 && decide (4096 ≤ (keys.filter fun x => x % 4 == 0 && x / 4 % 192 == k / 4 % 192).length)

/-- LWAIT parks the stream on its watch, or completes at once with cause 4. An OPENING register holds it (R224). -/
def execLwait (g : Guard) (d : Dst) (ln : Fin 16) (b : Src) (s : State) : Host.Outcome State Fault Refusal :=
  issue { g := g, uses := [d1 d, u1 b, .line ln], noDmr := true, path := some .ls }
    (fun c s =>
      match s.checkLine c ln 1 (fun _ => 0) (fun _ => true) false with
      | .stop a => a
      | .ok r lr =>
        let k := s.watchKey s.myAsid s.myCore.die lr
        if s.contentsDate c.id.team lr < SMap.get 0 s.wrote k ∨ s.watchesFull k then .done (s.setDst d c.ex fun _ => 4)
        else
          let n := (s.src b (low c.ex)).toNat
          let w : WatchRec := ⟨k, r.ln, d, c.ex, c.pc, s.time, if n = 0 then none else some (s.time + n), none⟩
          let s := s.modHere fun st => { st with watch := some w }
          .jump (if n = 0 then s else s.later n (.lwaitWake c.id 3))) s

/-- The event that wakes a watch has come about since it was armed; a spurious wake may come at any time. -/
def State.wakeHolds (s : State) (id : StreamId) (w : WatchRec) (cause : Nat) : Bool :=
  match cause with
  | 0 => decide (w.since ≤ SMap.get 0 s.wrote (s.watchName (s.team id.team).die w.ln))
  | 1 => (s.lineAt (s.lineRef id (Fin.ofNat 16 w.reg))).st != .opened
  | 3 => (match w.due with | some d => decide (d ≤ s.time) | none => false)
  | 4 => false
  | _ => true

/-- A watch wakes its stream: LWAIT completes with the cause in D (R196). -/
def execLwaitWake (id : StreamId) (cause : Nat) (s : State) : Host.Outcome State Fault Refusal :=
  .next <|
    match (s.stream id).watch with
    | none => s
    | some w =>
      if !s.wakeHolds id w cause then s
      else s.modStream id fun st =>
        let f := fun i => BitVec.ofNat 32 cause ^^^ (match w.flip with
          | some (l, m) => if l = i then m else 0
          | none => 0)
        let st := { st.put w.dst w.ex f with watch := none }
        st.setPcs (st.lanesAt w.pc) fun _ => nextPc w.pc

end Sys2Proof.Machine
end

