-- ==== Sys2Proof/Machine/Preempt.lean ====
section
/-!
DEFINITION. Pre-emption (16 R359-R362), and saving and restoring a context (18 R382-R395; log 32).
-/

namespace Sys2Proof.Machine

/-! ## The choice (R359) -/

inductive Choose where
  | flush | drain | save
  deriving DecidableEq, Repr

/-- What a pre-emption of a team does. -/
def State.chooseFor (s : State) (t : Nat) (drain : Bool) : Choose :=
  let x := s.team t
  let i := if x.wave then 0 else ((s.launch x.launch).map fun l => l.icount.toNat).getD 0
  let all := i * x.st.groups.length
  if x.idem && (x.st.groups.all fun q => q.2.depth == 0 && q.2.dmr == .alone) && x.cluster.isNone &&
      (i == 0 || decide (4 * x.ecount < all)) then .flush
  else if drain && i != 0 && decide (7 * all ≤ 8 * x.ecount) then .drain
  else .save

/-! ## Flush and restart (R361) -/

/-- The offsets of a line whose bytes by a team stand in a core's lehr. -/
def Core.lostAt (c : Core) (t key : Nat) : List Nat :=
  c.lehr.flatMap fun e => match e.work with
    | .depart asid va _ _ bs _ =>
      if asid = keyAsid key ∧ va = keyVa key then (bs.filter fun b => b.team == t).map (·.off) else []
    | _ => []

/-- The line store and the lehr of a core without a team's writes that have not been applied. -/
def Core.flushTeam (c : Core) (t : Nat) : Core :=
  let cut := fun (key : Nat) (w : LWrite) =>
    if w.team ≠ t then w
    else { w with bytes := w.bytes.filter fun b => w.left.contains b.1 && !(c.lostAt t key).contains b.1 }
  let lines := c.lines.map fun p => (p.1, { p.2 with log := (p.2.log.map (cut p.1)).filter fun w => !w.bytes.isEmpty })
  let keep := fun (e : LehrEntry) =>
    if e.team == t && (match e.work with | .depart _ _ _ _ _ _ => false | _ => true) then none
    else match e.work with
      | .depart asid va dest rep bs clean =>
        let bs := bs.filter fun b => b.team != t
        if bs.isEmpty then none else some { e with work := .depart asid va dest rep bs clean }
      | _ => some e
  { c with lines := lines, lehr := c.lehr.filterMap keep, cmds := c.cmds.filter (·.team != t),
           casts := c.casts.filter (·.team != t), regMoves := c.regMoves.filter fun r => !r.2.contains t }

/-- A team is thrown away and goes back to the head of its order. -/
def State.flushTeam (s : State) (t : Nat) : State :=
  let x := s.team t
  let s := s.modCore x.coreId fun c => c.flushTeam t
  let s := (s.forget t).setTeam t .off
  let s := s.modLaunch x.launch fun l => { l with live := l.live - 1 }
  let s := s.modDie x.die fun d => { d with back := (x.launch, x.index) :: d.back }
  s.pollOnce 1 (.teamAdmission x.die (x.cls == .weak))

/-! ## Requests (R359, R360) -/

/-- A stream of the team is in its save routine. -/
def Team.inSave (t : Team) : Bool := t.st.groups.any fun q => q.2.c.a.mode == .save || q.2.c.x.mode == .save

/-- The area of a save that the gaffer asks for: from the die's pool. -/
def State.takeArea (s : State) (die : Nat) : Option (DWord × State) :=
  match (s.die die).pool with
  | [] => none
  | a :: rest => some (BitVec.ofNat 64 a, s.modDie die fun d => { d with pool := rest })

/-- The members of a cluster that no request names yet are asked for with areas from the die's pool, where it holds enough. -/
def State.askMembers (s : State) (t : Nat) : State :=
  let ts := (s.clusterTeams t).filter fun u => (s.team u).saving.isNone && (s.team u).live
  let die := (s.team t).die
  if (s.die die).pool.length < ts.length then s
  else
    ts.foldl (fun s u =>
      match s.takeArea die with
      | none => s
      | some r => (r.2.modTeam u fun x => { x with saving := some r.1, pooled := true }).later 1 (.saveRequest u)) s

/-- Starts a save: a cluster's members are saved together, each into an area of its own (R392). Where system software has named the
area of one, it may name those of the others until they are delivered; else they come from the pool (log 32). -/
def State.startSave (s : State) (t : Nat) (by_ : Preemptor) : State :=
  match by_ with
  | .system area => ((s.modTeam t fun x => { x with saving := some area }).later 1 (.saveRequest t)).askMembers t
  | .gaffer => s.askMembers t

/-- Carries out the choice. -/
def State.preempt (s : State) (t : Nat) (by_ : Preemptor) (drain : Bool) : State :=
  match s.chooseFor t drain with
  | .flush => s.flushTeam t
  | .drain => (s.modTeam t fun x => { x with drain := some by_ }).later 65536 (.drainTimeout t)
  | .save => s.startSave t by_

def execPreemptRequest (t : Nat) (by_ : Preemptor) (s : State) : Host.Outcome State Fault Refusal :=
  .next <|
    let x := s.team t
    let mine := match by_ with
      | .system _ => true
      | .gaffer => x.cls == .weak && !x.wave
    let named := match by_ with
      | .system area => if !x.inSave && (s.agenda.any fun e => e.2 == .saveRequest t) then some area else none
      | .gaffer => none
    if !x.live || x.trails || !mine || x.drain.isSome then s
    else match named, x.saving with
      | some area, some old =>
        let s := s.modTeam t fun x => { x with saving := some area }
        if x.pooled then (s.modTeam t fun x => { x with pooled := false }).modDie x.die fun d => { d with pool := d.pool ++ [old.toNat] }
        else s
      | _, some _ => s
      | _, none => s.preempt t by_ true

/-- 65,536 cycles into a drain the gaffer decides again. -/
def execDrainTimeout (t : Nat) (s : State) : Host.Outcome State Fault Refusal :=
  .next <|
    let x := s.team t
    match x.drain with
    | none => s
    | some by_ => if !x.live then s else (s.modTeam t fun x => { x with drain := none }).preempt t by_ false

/-! ## The save area (R382-R387) -/

/-- Byte i of a number. -/
def byteOf (x i : Nat) : Byte := BitVec.ofNat 8 (field x (8 * i) 8)

/-- The groups of a team in order: a block's number, the group's number, and the group. -/
def Team.blocks (t : Team) : List (Nat × Nat × Group) := t.st.groups.zipIdx.map fun p => (p.2, p.1.1, p.1.2)

/-- The bytes of a save area. -/
def Team.areaSize (t : Team) : Nat := 0x8000 + t.st.groups.length * 0x40000 + t.spadSize

/-- The team header (R384); tn is the team's number. -/
def State.headerNat (s : State) (t state : Nat) : Nat :=
  let x := s.team t
  let l : Option Launch := s.launch x.launch
  let c : Option GCtx := (x.st.groups.head?).map fun q => q.2.ctxAt 0
  let locks : Nat := (x.st.locks.map fun p => if p.2.isSome then 2 ^ p.1 else 0).sum
  let occ : Nat := ([0, 1, 2, 3].map fun k => 2 ^ (8 * k) * (SMap.get 0 x.st.rings k % 256)).sum
  let bars := ((x.st.phases.find? fun p => p.scope == 1).map fun p => p.arrived.length).getD 0
  0x45564153 + 2 ^ 32 * state + 2 ^ 40 * (x.st.groups.length % 64) + 2 ^ 48 * (match c with | some k => k.asid.toNat | none => 0) +
  2 ^ 64 * x.spadSize + 2 ^ 96 * x.tx + 2 ^ 128 * x.ty + 2 ^ 160 * x.tz + 2 ^ 192 * (match l with | some k => k.va.toNat | none => 0) +
  2 ^ 256 * (match c with | some k => k.kvroot.toNat | none => 0) + 2 ^ 320 * (match c with | some k => k.ttbase.toNat | none => 0) + 2 ^ 384 * x.die +
  2 ^ 386 * (s.pkg.id % 1024) + 2 ^ 396 * bit01 x.cluster.isSome + 2 ^ 397 * ((x.cluster.map (·.2)).getD 0) +
  2 ^ 401 * (bars % 64) + 2 ^ 407 * bit01 x.st.bankCur + 2 ^ 416 * x.st.tickets.toNat + 2 ^ 448 * occ + 2 ^ 512 * locks

/-- The last ticket issued that is k modulo 1,024. -/
def ticketAt (next : Word) (k : Nat) : Nat := (next - 1 - (next - 1 - BitVec.ofNat 32 k) % 1024).toNat

/-- A ticket's status as its four words (R268). -/
def ticketNat (t : Ticket) : Nat :=
  (ticketWord t 0).toNat + 2 ^ 32 * (ticketWord t 1).toNat + 2 ^ 64 * (ticketWord t 2).toNat + 2 ^ 96 * (ticketWord t 3).toNat
def ticketOf (x : Nat) : Ticket :=
  ⟨field x 0 4, field x 4 6, field x 10 1 == 1, field x 32 32, field x 64 32, field x 96 32⟩

/-- A scope's arrival is pending in a group until its BARW clears the slot (R242). -/
def Group.arrivalPending (g : Group) (sc : Scope) : Bool := g.slot sc != .clear

/-- The group header (R386); led says that the group led a pair. -/
def groupNat (n : Nat) (g : Group) (led : Bool) : Nat :=
  let c := g.c
  let pend := bit01 (g.arrivalPending .team) + 2 * bit01 (g.arrivalPending .cluster) + 4 * bit01 (g.arrivalPending .die) +
    8 * bit01 (g.arrivalPending .package)
  let fs := g.frames.reverse.zipIdx
  let frames : Nat := (fs.map fun p => 2 ^ (128 + 10 * p.2) * (p.1.frame % 1024)).sum
  let gates : Nat := (fs.map fun p => 2 ^ (168 + 8 * p.2) * (p.1.gate % 256)).sum
  n % 32 + 2 ^ 5 * g.role + 2 ^ 7 * bit01 g.split + 2 ^ 8 * c.vbud + 2 ^ 12 * c.va + 2 ^ 16 * c.lbud + 2 ^ 21 * c.abud +
  2 ^ 25 * g.depth + 2 ^ 28 * bit01 led + 2 ^ 29 * pend + frames + gates

/-- The lock bit that a lane of a stream holds, as 8 * bank + bit. -/
def Team.heldBy (t : Team) (g : Nat) (x : Bool) (i : Nat) : Option Nat :=
  (t.st.locks.find? fun p => Sys2Proof.Machine.heldBy p.2 g (lockLane x i)).map (·.1)

/-- The byte that names a lock bit: its bank and the bit (R387). -/
def lockByte (b : Nat) : Nat := b / 8 + 32 * (b % 8)

/-- A byte of a stream part (R387), none for the routine words, which the device does not write. R387 places the bytes of
the lock bits inside the 256 bytes of the LPCs: a lane that holds a lock bit has its byte there, and the other bytes are the LPCs'
(log 32). -/
def State.partByte (s : State) (t n : Nat) (x : Bool) (o : Nat) : Option Byte :=
  let tm := s.team t
  let g := tm.group n
  let st := g.stream x
  let k := st.kept
  let held := maskOf fun i => (tm.heldBy n x i).isSome
  if o < 0x1000 then none
  else some <|
    if o < 0x1080 then byteOf (st.uni ((o - 0x1000) / 4)).toNat (o % 4)
    else if o < 0x109C then byteOf (st.pred (Fin.ofNat 8 ((o - 0x1080) / 4 + 1))).toNat (o % 4)
    else if o < 0x10A0 then 0
    else if o < 0x10D8 then
      byteOf (k.m0.toNat + 2 ^ 32 * k.fstat.toNat + 2 ^ 64 * k.partw.toNat + 2 ^ 96 * st.rgncnt.toNat +
        2 ^ 128 * st.rgnEntry.toNat + 2 ^ 256 * k.tcause.toNat + 2 ^ 288 * k.tlane.toNat + 2 ^ 320 * k.tadr.toNat +
        2 ^ 384 * k.back + 2 ^ 416 * held.toNat) (o - 0x10A0)
    else if o < 0x1100 then 0
    else if o < 0x1200 then
      match if 0x1180 ≤ o ∧ o < 0x11A0 then tm.heldBy n x (o - 0x1180) else none with
      | some b => BitVec.ofNat 8 (lockByte b)
      | none => byteOf (SMap.get 0 k.lpc ((o - 0x1100) / 8)).toNat (o % 8)
    else if o < 0x1280 then byteOf (st.genOf ((o - 0x1200) / 4)).toNat (o % 4)
    else if o < 0x12A0 then
      let r := (o - 0x1280) / 8
      if g.rjSide r = x then byteOf ((g.enrolled r).toNat + 2 ^ 32 * (g.arrived r).toNat) (o % 8) else 0
    else if o < 0x2000 then 0
    else
      let r := (o - 0x2000) / 128
      if r < g.window x then byteOf (SMap.get 0 st.v (32 * r + (o - 0x2000) % 128 / 4)).toNat (o % 4) else 0

/-- A sparsity as the latch's image names it, 0 for a dense operation. -/
def sparsityCode : Option Sparsity → Nat
  | none => 0
  | some .n8 => 1
  | some .n12 => 2
  | some .n16 => 3
  | some .n24 => 4
def sparsityOf : Nat → Option Sparsity
  | 1 => some .n8
  | 2 => some .n12
  | 3 => some .n16
  | 4 => some .n24
  | _ => none

/-- The byte of a reuse latch at an offset of its image, before the device's own layout is laid over it. -/
def latchByte (l : Option Latch) (o : Nat) : Byte :=
  match l with
  | none => 0
  | some l =>
    if o < 32 then
      byteOf (1 + 2 ^ 8 * l.a + 2 ^ 16 * l.cls + 2 ^ 20 * sparsityCode l.sparse + 2 ^ 32 * l.b.toNat + 2 ^ 64 * l.decl.toNat) o
    else byteOf (SMap.get 0 l.regs (32 * (l.a + (o - 32) / 128) + (o - 32) % 128 / 4)).toNat (o % 4)

/-- The latch that the bytes of an image hold. -/
def latchOf (byte : Nat → Byte) : Option Latch :=
  let h := leNat ((List.range 32).map byte)
  if field h 0 1 = 0 then none
  else
    let a := field h 8 8
    some
      { a := a, b := BitVec.ofNat 32 (field h 32 32), cls := field h 16 4, sparse := sparsityOf (field h 20 4),
        decl := BitVec.ofNat 32 (field h 64 32),
        regs := (List.range 63).foldl (fun m j => lanes.foldl (fun m i =>
          SMap.set 0 m (32 * (a + j) + i) (BitVec.ofNat 32 (leNat ((List.range 4).map fun k => byte (32 + 128 * j + 4 * i + k))))) m) [] }

/-- A byte of a group block (R385). The layout of the latch's image is the device's own: no one can tell its bytes, and every
device reads them back (log 32). -/
def State.blockByte (s : State) (t n : Nat) (led : Bool) (o : Nat) : Option Byte :=
  let g := (s.team t).group n
  let c := g.c
  if o < 0x8000 then s.partByte t n false o
  else if o < 0x10000 then if g.split then s.partByte t n true (o - 0x8000) else some 0
  else some <|
    if o < 0x10100 then byteOf (groupNat n g led) (o - 0x10000)
    else if o < 0x10200 then byteOf (s.descriptor ⟨t, n, g.depth, false, false, (o - 0x10100) / 16⟩).toNat (o % 16)
    else if o < 0x10300 then byteOf (tagNat (SMap.get .zero c.tags ((o - 0x10200) / 32))) (o % 32)
    else if o < 0x10320 then byteOf (g.decl ((o - 0x10300) / 8)).toNat (o % 8)
    else if o < 0x10400 then 0
    else if o < 0x10410 then byteOf (g.queue ((o - 0x10400) / 4)).length (o % 4)
    else if o < 0x11000 then 0
    else if o < 0x12000 then
      let e := ((g.queue ((o - 0x11000) / 1024))[(o - 0x11000) % 1024 / 128]?)
      match e with
      | some e => byteOf (SMap.get 0 e.lanes ((o - 0x11000) % 128 / 4)).toNat (o % 4)
      | none => 0
    else if o < 0x14000 then latchByte c.latch (o - 0x12000) ^^^ Config.latchMask (o - 0x12000)
    else if o < 0x15800 then
      let a := (o - 0x14000) / 768
      let r := (o - 0x14000) % 768 / 12
      if a < c.abud then byteOf ((g.rowM a r).toNat + 2 ^ 32 * (g.rowHi a r).toNat + 2 ^ 64 * (g.rowLo a r).toNat) ((o - 0x14000) % 12)
      else 0
    else if o < 0x20000 then 0
    else
      let a := (o - 0x20000) / 16384
      let e := (o - 0x20000) % 16384 / 4
      if a < c.abud then byteOf (g.acc a (e / 64) (e % 64)).toNat (o % 4) else 0

/-- The bytes of the whole area by offset. -/
def State.areaByte (s : State) (t : Nat) (led : Bool) (o : Nat) : Option Byte :=
  let x := s.team t
  if o < 0x100 then some (byteOf (s.headerNat t 1) o)
  else if o < 0x2000 then some 0
  else if o < 0x6000 then
    let k := s.ticket t (ticketAt x.st.tickets ((o - 0x2000) / 16))
    some (if k = .unknown then 0 else byteOf (ticketNat k) (o % 16))
  else if o < 0x8000 then
    let b := if o < 0x7000 then x.st.bank0 else x.st.bank1
    some (byteOf (SMap.get 0 b ((o - 0x6000) % 0x1000 / 16)).toNat (o % 16))
  else
    let k := (o - 0x8000) / 0x40000
    match x.st.groups[k]? with
    | some q => s.blockByte t q.1 led ((o - 0x8000) % 0x40000)
    | none => some (s.spad t (o - 0x8000 - x.st.groups.length * 0x40000))

/-! ## Saving (R362, R388-R392) -/

/-- A save that cannot go on writes STATE 2 where it can; the team stays, halted (R391). -/
def State.saveFails (s : State) (t : Nat) : State :=
  let x := s.team t
  let s := match x.saving with
    | some a => s.writeVirt x.die x.asid (stateByte a) 1 2
    | none => s
  let s := x.groupIds.foldl (fun s g => s.modGroup t g fun k => { k with halted := true }) s
  s.modTeam t fun x => { x with saving := none, pooled := false, led := false }

/-- LWAIT completes with cause 2. -/
def State.disarm (s : State) (id : StreamId) : State :=
  match execLwaitWake id 2 s with
  | .next t => t
  | _ => s

/-- A change of a group's context at a call depth, made as of the current one (R318). -/
def State.atDepth (s : State) (t g d : Nat) (f : State → State) : State :=
  let c := (s.group t g).c
  if (s.group t g).depth ≤ d then f s
  else
    let s := f (s.modGroup t g fun x => { x with c := x.ctxAt d })
    s.modGroup t g fun x => { x.setCtxAt d x.c with c := c }

/-- The streams of a group, those that a call hides too, give up their LWAITs, with cause 2, and their POLLs (R388). -/
def State.disarmAll (s : State) (t g : Nat) : State :=
  (List.range ((s.group t g).depth + 1)).foldl (fun s d => (s.group t g).sides.foldl (fun s x =>
    s.atDepth t g d fun s => (s.disarm ⟨t, g, x⟩).modStream ⟨t, g, x⟩ fun st => { st with poll := [] }) s) s

/-- Delivers the request to one stream. -/
def State.deliverOne (s : State) (id : StreamId) (area : DWord) : State :=
  let st := s.stream id
  if !st.live then s
  else
    s.takeTrap id ⟨16, 0, area, st.amask⟩

/-- The line registers of a team, hidden ones included, which a context save recalls (R33). -/
def State.teamRegs (s : State) (t : Nat) : List LineRef := s.boundRegs.filter fun r => r.team == t

/-- A context save recalls a register; one with a fatal outcome pending becomes EMPTY (R294). -/
def State.saveReg (s : State) (r : LineRef) : State :=
  if (s.lineAt r).fault.isSome then s.setLineAt r .empty else s.recallReg r

/-- Delivers a save request to every stream of a team. -/
def State.deliver (s : State) (t : Nat) (area : DWord) : State :=
  (s.team t).groupIds.foldl (fun s g =>
    let sides := (s.group t g).sides
    let s := s.disarmAll t g
    let s := ((s.teamRegs t).filter fun r => r.grp == g).foldl (fun s r => s.saveReg r) s
    let s := s.withdraw t g
    sides.foldl (fun s x => s.deliverOne ⟨t, g, x⟩ area) s) s

/-- No stream is in handler mode or on its way there, and none holds a trap (R362). -/
def Team.quiet (t : Team) : Bool :=
  t.st.groups.all fun q => q.2.sides.all fun x => (q.2.stream x).mode == .normal && (q.2.stream x).traps.isEmpty && (q.2.stream x).entering.isNone

/-- The date from which a leading group is held for a save. -/
def Team.heldFrom (t : Team) : Option Nat :=
  t.st.groups.findSome? fun q => if saveHold ≤ q.2.wait then some (q.2.wait - saveHold) else none

def execSaveRequest (t : Nat) (s : State) : Host.Outcome State Fault Refusal :=
  .next <|
    let x := s.team t
    let again := s.again (.saveRequest t)
    match x.saving with
    | none => s
    | some area =>
      if !x.live || x.liveGroups.isEmpty then s
      else if x.inSave then
        if x.st.groups.any fun q => q.2.halted then
          ((s.clusterTeams t).filter fun u => (s.team u).saving.isSome).foldl (fun s u => s.saveFails u) s
        else again
      else if !((s.clusterTeams t).all fun u => (s.team u).saving.isSome) then (s.askMembers t).again (.saveRequest t)
      else if x.restoring || x.blocked.isSome || !x.quiet || !s.recallRoom (s.teamRegs t) then again
      else
        match s.teamPair t with
        | none => (s.deliver t area).again (.saveRequest t)
        | some q =>
          match x.heldFrom with
          | none => (s.askCkpt t).again (.saveRequest t)
          | some d =>
            if !s.safeSince t d then again
            else
              let g := (x.groupIds.head?).getD 0
              let s := (s.endPair t g q.id).modGroup t g fun k => { k with wait := 0 }
              ((s.modTeam t fun x => { x with led := true }).deliver t area).again (.saveRequest t)

/-- The routine lines of a team's streams: what is still open there leaves as a release of SYSTEM scope has it (R389, R390). -/
def State.routineRegs (s : State) (t : Nat) : List LineRef := (s.teamRegs t).filter fun r => r.routine && (s.lineAt r).st != .empty

/-- No arrival and no contribution of the team is on its way to its combining point (R390). -/
def State.arrivalsOver (s : State) (t : Nat) : Bool := !s.agenda.any fun e => match e.2 with
  | .barrierArrival u _ _ => u == t
  | .credContribution u _ => u == t
  | _ => false

/-- A member of a cluster is ready to be spilled, or is out already (R392). -/
def State.spillReady (s : State) (t : Nat) : Bool :=
  let x := s.team t
  x.out || (x.live && x.inSave && x.routinesOver && (s.routineRegs t).isEmpty && !s.teamCmds t && !x.busy && s.writesOver t &&
    s.arrivalsOver t && x.blocked.isNone)

/-- A team leaves its core; what stays with the package stays in its record (R390). -/
def State.switchOut (s : State) (t : Nat) (area : DWord) (asid : BitVec 16) : State :=
  let frames := s.pkg.frames
  let s := s.forget t
  let s := s.modPkg fun p => { p with frames := frames, saved := p.saved ++ [⟨t, area, asid, none⟩] }
  s.modTeam t fun x =>
    { x with live := false, out := true, saving := none, pooled := false, pending := none, wantCkpt := false, journal := [], replay := [],
             counts := [], prefetch := [], recalls := [], poisoned := [], drain := none }

/-- The translations of a team's save area, as its device needs them (R382, R391). -/
def State.lookArea (s : State) (t : Nat) : Tx × State :=
  let x := s.team t
  s.translateSpan x.coreId .engWrite x.asid ((x.saving.map (·.toNat)).getD 0) x.areaSize 0 ((x.groupIds.head?).getD 0) 0 0

/-- The device writes a team's area and takes the team off its core. -/
def State.spill (s : State) (t : Nat) : State :=
  let x := s.team t
  match x.saving with
  | none => s
  | some area =>
    let image := fun (line : Nat) => (List.range 128).filterMap fun i =>
      (s.areaByte t x.led (128 * line + i)).map fun b => (area.toNat + 128 * line + i, b)
    let s := (List.range (x.areaSize / 128)).foldl
      (fun u line => u.putBytes x.die (fun a => s.tlbFind x.coreId x.asid a) (image line) []) s
    s.switchOut t area x.asid

/-- The device spills a team whose every stream has ended its routine, and the other members of its cluster in the same step: where
the area of one is fatal, none of them is spilled (R391, R392). -/
def execSaveSpill (t : Nat) (s : State) : Host.Outcome State Fault Refusal :=
  .next <|
    let x := s.team t
    let again := fun (s : State) => s.again (.saveSpill t)
    let ts := (s.clusterTeams t).filter fun u => !(s.team u).out
    if x.saving.isNone || !x.live || !x.inSave || !x.routinesOver then s
    else if !(s.routineRegs t).isEmpty then
      again (if s.recallTakes t (s.routineRegs t) then (s.routineRegs t).foldl (fun s r => s.closeLine r) s else s)
    else if !s.writesOver t then again (s.askCkpt t)
    else if !ts.all fun u => s.spillReady u then again s
    else
      let looked := ts.foldl (fun (r : List Tx × State) u => let q := r.2.lookArea u; (r.1 ++ [q.1], q.2)) ([], s)
      if looked.1.contains .fatal then ts.foldl (fun s u => s.saveFails u) looked.2
      else if looked.1.contains .wait then again looked.2
      else ts.foldl (fun s u => s.spill u) looked.2

/-! ## Restoring (R393-R395) -/

/-- The reserved bits of a header, of its KVROOT and of the group headers (R36, R384, R386, R393). -/
def headerBad (h : Nat) : Bool :=
  field h 0 32 != 0x45564153 || field h 32 2 != 1 || field h 34 6 != 0 || field h 46 2 != 0 || field h 408 8 != 0 || field h 480 32 != 0 ||
  field h 256 6 != 0 || field h 308 12 != 0 || field h 768 1280 != 0
def groupBad (g : Nat) : Bool := field g 33 95 != 0 || field g 200 1848 != 0

/-- The reserved bits of a group's descriptors (R30, R393): 256 bytes of them; and of its tag states (R257). -/
def linesBad (x : Nat) : Bool := (List.range 16).any fun n => descriptorBad (field x (128 * n) 128)
def tagsBad (x : Nat) : Bool := (List.range 8).any fun n => field x (256 * n + 67) 61 != 0 || field x (256 * n + 192) 64 != 0

/-- The bits of a program counter that are not reserved (R37). -/
def lpcBits : DWord := 0x00FFFFFFFFFFFFC7

/-- A byte of a stream part's LPCs, given by the offset in its 512 bytes from 0x1000, is the lock byte of a lane that holds one. -/
def lockAt (p o : Nat) : Bool := decide (0x180 ≤ o) && decide (o < 0x1A0) && (field p (8 * 0xD4) 32).testBit (o - 0x180)

/-- The reserved bits of a stream part, of which p is the 512 bytes from 0x1000: FSTAT, the region entry, TCAUSE and the LPCs. -/
def partBad (p : Nat) : Bool :=
  field p (8 * 0xA4 + 5) 27 != 0 || field p (8 * 0xB0 + 3) 3 != 0 || field p (8 * 0xB7) 8 != 0 || field p (8 * 0xC0 + 17) 15 != 0 ||
  (List.range 32).any fun i =>
    let o := 0x100 + 8 * i
    (!lockAt p o && field p (8 * o + 3) 3 != 0) || (!lockAt p (o + 7) && field p (8 * (o + 7)) 8 != 0)

/-- The area is refused for what it says of a die and a package, its reserved bits apart (R393). -/
def State.areaRefused (s : State) (die h : Nat) (gs : List Nat) : Bool :=
  headerBad h || gs.any groupBad || (field h 386 10 != s.pkg.id && gs.any fun g => field g 25 3 != 0) ||
  gs.any fun g => field g 31 2 != 0 && (field h 386 10 != s.pkg.id || field h 384 2 != die)

/-- The rest of an area that holds reserved bits: what stands between the header and the tickets, and of each group its descriptors,
its tag states and its two stream parts. -/
def restBad (between : Nat) (blocks : List (Nat × Nat × Nat × Nat)) : Bool :=
  between != 0 || blocks.any fun b => linesBad b.1 || tagsBad b.2.1 || partBad b.2.2.1 || partBad b.2.2.2

/-- A team that another package has saved, as its headers describe it; the arrivals that stand in PEND are made up when it is loaded
(log 32). -/
def State.strangerTeam (s : State) (h : Nat) (gs : List Nat) : Team :=
  let asid : BitVec 16 := BitVec.ofNat 16 (field h 48 16)
  let lb : DWord := BitVec.ofNat 64 (field h 192 64)
  let l := s.pkg.launches.find? fun l => l.va == lb && l.asid == asid
  let t : Team :=
    { Team.off with
      die := ((l.map (·.home)).getD 0), launch := (l.map (·.id)).getD 0, cls := (l.map (·.cls)).getD .parallel,
      tx := field h 96 32, ty := field h 128 32, tz := field h 160 32, spadSize := field h 64 32,
      priv := (l.map (·.priv)).getD false, started := true }
  gs.foldl (fun t g =>
    let x := startGroup (field g 5 2) (field g 7 1 == 1) (field g 8 4) (field g 12 4) (field g 16 5) (field g 21 4)
      (if t.priv then 2 else 0) asid (BitVec.ofNat 64 (field h 256 64)) (BitVec.ofNat 64 (field h 320 64)) .off .off
    t.setGroup (field g 0 5) x) t

/-- What the areas of one cluster share in their headers: launch block, die and package. -/
def clusterMark (h : Nat) : Nat := field h 192 64 + 2 ^ 64 * field h 384 12

/-- A stranger of a cluster takes its member number in the set of those that were saved with it; the set is whole with as many members
as the launch block gives a cluster (R393; DESIGN CHOICE, log 32). -/
def State.enterSet (s : State) (t h : Nat) (asid : BitVec 16) : State :=
  let m := field h 397 4
  let b := benchKey (s.teamCore t)
  let n := ((s.readVirt 0 asid (field h 192 64) 256).map fun x => field x 88 8).getD 0
  let mate := s.pkg.saved.findSome? fun v =>
    if v.src = some (clusterMark h) ∧ v.asid = asid ∧ v.team ≠ t then (s.team v.team).cluster.map (·.1) else none
  let old := mate.bind fun id => (s.bench b).clusters.find? fun c => c.id == id && (SMap.get none c.members m).isNone
  let (id, s) := s.fresh
  let c : Cluster := old.getD ⟨id, asid, 0, n, [], n, true⟩
  (s.modBench b fun k => { k with clusters := (k.clusters.filter fun x => x.id != c.id) ++
    [{ c with members := SMap.set none c.members m (some t) }] }).modTeam t fun x => { x with cluster := some (c.id, m) }

/-- Every member of a saved cluster has been asked for. -/
def State.setAsked (s : State) (t : Nat) : Bool :=
  ((s.clusterTeams t).all fun u => (s.team u).saving.isSome || (s.team u).live) &&
  ((s.pkg.saved.find? fun v => v.team == t).all fun v => v.src.isNone || (s.clusterOf t).all fun c => decide (c.n ≤ c.members.length))

/-- The team of an area: the one that this package has saved there, or a new one that its headers describe. -/
def State.areaTeam (s : State) (asid : BitVec 16) (area : DWord) (h : Nat) (gs : List Nat) : Nat × State :=
  match s.pkg.saved.find? fun v => v.area == area && v.asid == asid with
  | some v => (v.team, s)
  | none =>
    let f := s.fresh
    let v : Saved := ⟨f.1, area, asid, some (clusterMark h)⟩
    let s := (f.2.setTeam f.1 { s.strangerTeam h gs with out := true }).modPkg fun p => { p with saved := p.saved ++ [v] }
    (f.1, if field h 396 1 = 1 then s.enterSet f.1 h asid else s)

/-- The die whose gaffer restores an area. -/
def State.areaDie (s : State) (asid : BitVec 16) (area : DWord) (h : Nat) (gs : List Nat) : Nat :=
  match s.pkg.saved.find? fun v => v.area == area && v.asid == asid with
  | some v => (s.team v.team).die
  | none => (s.strangerTeam h gs).die

/-- System software asks for a restore: the area is refused, or its team enters the order of its gaffer. -/
def execRestoreRequest (asid : BitVec 16) (area : DWord) (s : State) : Host.Outcome State Fault Refusal :=
  .next <|
    let rd := fun (o n : Nat) => s.readVirt 0 asid (area.toNat + o) n
    if !s.pkg.booted then s else
    match rd 0 256 with
    | none => s.again (.restoreRequest asid area)
    | some h =>
      let blocks := (List.range (field h 40 6)).map fun k => 0x8000 + 0x40000 * k
      let heads := blocks.map fun b => rd (b + 0x10000) 256
      let between := rd 0x100 0x1F00
      let rest := blocks.map fun b => [rd (b + 0x10100) 256, rd (b + 0x10200) 256, rd (b + 0x1000) 512, rd (b + 0x9000) 512]
      if !heads.all (·.isSome) || between.isNone || !rest.all fun l => l.all (·.isSome) then s.again (.restoreRequest asid area)
      else
        let gs := heads.map fun g => g.getD 0
        let at_ := fun (l : List (Option Nat)) (k : Nat) => (l.getD k none).getD 0
        if s.areaRefused (s.areaDie asid area h gs) h gs || restBad (between.getD 0) (rest.map fun l => (at_ l 0, at_ l 1, at_ l 2, at_ l 3)) then
          s.tellKiln 2 area.toNat
        else
          let r := s.areaTeam asid area h gs
          let s := r.2.modTeam r.1 fun x => { x with saving := some area, led := gs.any fun g => field g 28 1 == 1 }
          if !s.setAsked r.1 then s
          else
            let x := s.team r.1
            let first := ((s.clusterTeams r.1).head?).getD r.1
            let weak := x.cls == .weak && !x.wave
            (s.modDie x.die fun d =>
              if weak then { d with weakOrder := d.weakOrder ++ [2 * first + 1] }
              else { d with order := d.order ++ [2 * first + 1] }).pollOnce 1 (.teamAdmission x.die weak)

/-- The hold of a lane whose program counter stands at an instruction where lanes are held: a barrier that its group has arrived at, or
an LLK of a lane that holds a bit. An area from another package says no more of it (R395; log 32). -/
def State.heldAt (s : State) (t : Nat) (asid : BitVec 16) (pend : Scope → Bool) (bit : Option Nat) (pc : DWord) : Option Hold :=
  match s.readVirt (s.team t).die asid (64 * (pc.toNat / 64) + 4 + 12 * (pc.toNat % 8)) 12 with
  | none => none
  | some w =>
    match decode (BitVec.ofNat 96 w) with
    | .ok (.bar _ sc) => if pend sc then some (.barrier sc) else none
    | .ok (.llk _ _ _ _ _) => bit.map fun b => .llk b 0
    | _ => none

/-- The LPCs of a stream part: a byte that a lock byte has taken the place of comes from the team's record (log 32). -/
def partLpc (st : Stream) (rd : Nat → Nat → Nat) : SMap DWord :=
  let m := rd 0x10D4 4
  lanes.foldl (fun l i =>
    let old := SMap.get 0 st.kept.lpc i
    let b := fun (k : Nat) =>
      if 128 ≤ 8 * i + k ∧ 8 * i + k < 160 ∧ m.testBit (8 * i + k - 128) then byteOf old.toNat k else BitVec.ofNat 8 (rd (0x1100 + 8 * i + k) 1)
    SMap.set 0 l i (BitVec.ofNat 64 (leNat ((List.range 8).map b)) &&& lpcBits)) []

/-- Reads a stream part over a stream (R387, R394), which then enters its restore routine. A lane held at PARK, at LLK or at a barrier
is held still; one at MMA signs again (R395). -/
def Stream.load (st : Stream) (rd : Nat → Nat → Nat) (part window : Nat) (x : Bool) (date : Nat) : Stream :=
  let w := fun (o : Nat) => BitVec.ofNat 32 (rd o 4)
  let d := fun (o : Nat) => BitVec.ofNat 64 (rd o 8)
  let amask : Mask := w 0x10A0
  let lpc := partLpc st rd
  let stays := fun (h : Option Hold) => match h with
    | some (.mma _) => false
    | some .regrp => false
    | _ => true
  let k : Kept := { Kept.off with
    m0 := amask, amask := amask, fstat := w 0x10A4 &&& 0x1F, partw := w 0x10A8, lpc := lpc, recorded := lpc, tcause := w 0x10C0 &&& 0x1FFFF,
    tlane := w 0x10C4, tadr := d 0x10C8, hold := st.kept.hold.filter fun h => stays h.2 && amask.getLsbD h.1 }
  let v := (List.range window).foldl (fun m r => lanes.foldl (fun m i => SMap.set 0 m (32 * r + i) (w (0x2000 + 128 * r + 4 * i))) m) []
  let u := (List.range 32).foldl (fun m r => SMap.set 0 m r (w (0x1000 + 4 * r))) []
  let p := (List.range 7).foldl (fun m r => SMap.set 0 m (r + 1) (w (0x1080 + 4 * r))) []
  let st : Stream := { Stream.off with
    live := amask != 0, v := v, u := u, p := p, rgncnt := w 0x10AC, rgnEntry := d 0x10B0 &&& lpcBits, entry := st.entry, tcause := w 0x10C0 &&& 0x1FFFF,
    tlane := w 0x10C4, tadr := d 0x10C8, back := rd 0x10D0 4, pend := st.pend.filter (·.cred.isSome), epoch := date, jseq := st.jseq }
  let st := lanes.foldl (fun st i => st.setGen i (w (0x1200 + 4 * i))) st
  if amask = 0 then st
  else
    let st := { st with kept := k, mode := .restore, amask := BitVec.allOnes 32, partw := 32, check := true }
    (st.setPcs (BitVec.allOnes 32) fun _ => d 0).setBank part window x

/-- The entries of queue k. -/
def queueOf (rd : Nat → Nat → Nat) (k : Nat) : List QEntry :=
  (List.range (min 8 (rd (0x10400 + 4 * k) 4))).map fun j =>
    ⟨0, lanes.foldl (fun m i => SMap.set 0 m i (BitVec.ofNat 32 (rd (0x11000 + 1024 * k + 128 * j + 4 * i) 4))) [], true⟩

/-- The call frames that a group header names, innermost first: what stands in a claimed frame is the device's own (R314, R386). -/
def Group.framesOf (g : Group) (h : Nat) : List GateFrame :=
  (List.range (field h 25 3)).reverse.filterMap fun d =>
    g.frames.find? fun f => f.frame % 1024 == field h (128 + 10 * d) 10 && f.gate % 256 == field h (168 + 8 * d) 8

/-- Reads a group block over a group (R385). -/
def Group.load (g : Group) (area base : Nat) (rd : Nat → Nat → Nat) (date : Nat) : Group :=
  let w := fun (o : Nat) => BitVec.ofNat 32 (rd o 4)
  let c := g.c
  let side := fun (x : Bool) (o n : Nat) => rd ((if x then 0x8000 else 0) + o) n
  let part := fun (x : Bool) => area + base + (if x then 0x8000 else 0)
  let st := fun (x : Bool) => (c.stream x).load (side x) (part x) (g.window x) x date
  let rj := fun (r : Nat) => (if g.rjSide r then 0x8000 else 0) + 0x1280 + 8 * r
  let four := fun (f : Nat → Word) => [0, 1, 2, 3].foldl (fun (m : SMap Mask) k => SMap.set 0 m k (f k)) []
  let es := (List.range (4096 * c.abud)).foldl (fun m e => SMap.set 0 m e (w (0x20000 + 4 * e))) []
  let row := fun (d : Word) (o : Nat) => (List.range (64 * c.abud)).foldl (fun m r => SMap.set d m r (w (0x14000 + 12 * r + o))) []
  { g with
    halted := false, abort := none, wait := 0, depth := (g.framesOf (rd 0x10000 256)).length, frames := g.framesOf (rd 0x10000 256),
    c := { c with
      a := st false
      x := if g.split then st true else .off
      lines := []
      tags := (List.range 8).foldl (fun m n => SMap.set .zero m n (tagOf (rd (0x10200 + 32 * n) 32))) []
      cvDecl := four fun k => w (0x10300 + 8 * k)
      cvSigned := []
      mma := []
      rjEnr := four fun r => w (rj r)
      rjArr := four fun r => w (rj r + 4)
      queues := [0, 1, 2, 3].foldl (fun m k => SMap.set [] m k (queueOf rd k)) []
      accs := es
      accM := row negInf 0
      accHi := row 0 4
      accLo := row 0 8
      latch := latchOf fun o => BitVec.ofNat 8 (rd (0x12000 + o) 1) ^^^ Config.latchMask o } }

/-- The locks that the lanes of a group's streams hold, as an area gives them (R387). -/
def locksOf (rd : Nat → Nat → Nat) (base n : Nat) (x : Bool) : List (Nat × Nat × Nat) :=
  let o := base + (if x then 0x8000 else 0)
  let m : Mask := BitVec.ofNat 32 (rd (o + 0x10D4) 4)
  (maskLanes m).map fun i =>
    let b := rd (o + 0x1180 + i) 1
    (8 * (b % 32) + b / 32, n, lockLane x i)

/-- The status of a ticket as an area holds it: zeros where none has been issued (R382, R383). -/
def savedTicket (x : Nat) : Ticket := if x = 0 then .unknown else ticketOf x

/-- Reads an area over a team's record. -/
def Team.load (x : Team) (area : Nat) (rd : Nat → Nat → Nat) (date : Nat) : Team :=
  let blocks := x.blocks
  let x := blocks.foldl (fun x b =>
    let base := 0x8000 + 0x40000 * b.1
    let g := b.2.2.load area base (fun o n => rd (base + o) n) date
    x.setGroup b.2.1 g) x
  let held := blocks.flatMap fun b => [false, true].flatMap fun s => locksOf rd (0x8000 + 0x40000 * b.1) b.2.1 s
  let tickets : Word := BitVec.ofNat 32 (rd 52 4)
  let bank := fun (o : Nat) => (List.range 256).foldl (fun m k => SMap.set 0 m k (BitVec.ofNat 128 (rd (o + 16 * k) 16))) []
  let st := { x.st with
    locks := held.foldl (fun m h =>
      let same := match SMap.get none x.st.locks h.1 with
        | some o => if o.1 = h.2.1 ∧ o.2 % 64 = h.2.2 then some o else none
        | none => none
      SMap.set none m h.1 (some (same.getD (h.2.1, h.2.2)))) []
    bank0 := bank 0x6000
    bank1 := bank 0x7000
    bankCur := field (rd 48 8) 23 1 == 1
    rings := [0, 1, 2, 3].foldl (fun m k => SMap.set 0 m k (rd (56 + k) 1)) []
    tickets := tickets }
  let x := { x with
    st := st, started := true
    led := blocks.any fun b => field (rd (0x8000 + 0x40000 * b.1 + 0x10000) 4) 28 1 == 1
    statuses := (List.range 1024).foldl (fun m k =>
      SMap.set .unknown m (ticketAt tickets k) (savedTicket (rd (0x2000 + 16 * k) 16))) [] }
  { x with safe := ⟨x.st, date⟩ }

/-- The result of a reduction that completed while the team was out (R155, R394). -/
def State.lateCred (s : State) (t : Nat) : State :=
  let b := benchKey (s.teamCore t)
  let waits := fun (s : State) (r : CredRed) => match (s.group t r.grp).openCred with
    | some (_, p) => r.pends.any fun q => q.2 == p.id
    | none => false
  ((s.bench b).creds.filter fun r => r.members.isEmpty && waits s r).foldl (fun s r =>
    let s := s.modTeam t fun x => x.mapCores true fun k => k.modGroup r.grp fun g => g.finishCred (some (credResult r.got))
    let left := r.who.filter fun p => (s.team p.2).out
    if left.isEmpty then s.modBench b fun k => { k with creds := k.creds.filter (· != r) } else s) s

/-- The arrivals of a team that another package has saved, from PEND and BARCNT of its area: at TEAM scope the first BARCNT groups are
of the phase that is open, and of those beyond them a phase has released, with a total that the area does not hold (R384, R386;
log 32). -/
def State.strangerArrivals (s : State) (t : Nat) (bars : Nat) (pend : Nat → Nat) : State :=
  let x := s.team t
  let at_ := fun (k : Nat) => (x.groupIds.zipIdx.filter fun g => (pend g.2).testBit k).map (·.1)
  let held := BarSlot.pending .none 0 false true s.time
  let total : DWord := BitVec.ofNat 64 ((Config.freeWord s.freeCtr).toNat + 2 ^ 32 * (Config.freeWord (s.freeCtr + 1)).toNat)
  let put := fun (s : State) (sc : Scope) (b : BarSlot) (gs : List Nat) => gs.foldl (fun s g => s.modGroup t g fun y => y.setSlot sc b) s
  let s := put (put s .team held ((at_ 0).take bars)) .team (.released total false) ((at_ 0).drop bars)
  let s := put { s with freeCtr := s.freeCtr + 2 } .cluster held (at_ 1)
  let phase := fun (sc : Scope) (gs : List Nat) => gs.foldl (fun p g => Phase.add p g .none 0 false false) (.new (scopeCode sc) t none)
  let s := s.modTeam t fun x => x.mapCores false fun k =>
    { k with phases := k.phases ++ ([phase .team ((at_ 0).take bars), phase .cluster (at_ 1)].filter fun p => !p.arrived.isEmpty) }
  (s.checkTeam t .team).checkTeam t .cluster

/-- The holds of its lanes (R395). -/
def State.strangerHolds (s : State) (t : Nat) : State :=
  (s.team t).st.groups.foldl (fun s q => q.2.sides.foldl (fun s x =>
    s.modStream ⟨t, q.1, x⟩ fun st =>
      let h := fun (i : Nat) => s.heldAt t (s.team t).asid (fun sc => (s.group t q.1).arrivalPending sc) ((s.team t).heldBy q.1 x i)
        (SMap.get 0 st.kept.lpc i)
      { st with kept.hold := (maskLanes st.kept.amask).foldl (fun m i => SMap.set none m i (h i)) [] }) s) s

/-- The scratchpad image comes back. -/
def State.loadPad (s : State) (t base : Nat) (rd : Nat → Byte) : State :=
  s.spadWrite t t 0 0 0 ((List.range (s.team t).spadSize).map fun o => rd (base + o)) []

/-- The restore of a team that leads a pair again ends, with STATE 3, once the pair's checkpoint is safe (R395). -/
def State.restoreOver (s : State) (t : Nat) (area : DWord) : State :=
  let x := s.team t
  if !x.live || !x.started || x.restoring then s
  else if x.st.groups.any fun q => decide (x.safe.date < q.2.wait) then s.again (.restoreLoad t)
  else
    let r := s.translate x.coreId .engWrite x.asid (stateByte area) 0 ((x.groupIds.head?).getD 0) 0 0 false
    match r.1 with
    | .wait => r.2.again (.restoreLoad t)
    | .fatal => r.2.modTeam t fun x => { x with saving := none }
    | .ok tr => (r.2.putBytes x.die (fun _ => some tr) [(stateByte area, 3)] []).modTeam t fun x => { x with saving := none }

/-- The device loads a saved area into the team that has been admitted again. -/
def execRestoreLoad (t : Nat) (s : State) : Host.Outcome State Fault Refusal :=
  .next <|
    let x := s.team t
    match x.saving, s.pkg.saved.find? fun v => v.team == t with
    | some area, some v =>
      if !x.live || x.started then s
      else if !s.pkg.booted || (s.die x.die).throttled then s.again (.restoreLoad t)
      else
        let r := s.translateSpan x.coreId .engRead v.asid area.toNat x.areaSize 0 ((x.groupIds.head?).getD 0) 0 0
        match r.1 with
        | .wait => r.2.again (.restoreLoad t)
        | .fatal =>
          let s := (r.2.unseat t).modTeam t fun x => { x with live := false, out := true, saving := none }
          s.tellKiln 3 area.toNat
        | .ok _ =>
          let s := r.2
          let byte := fun (o : Nat) => s.readVa x.coreId v.asid (area.toNat + o)
          let rd := fun (o n : Nat) => leNat ((List.range n).map fun i => byte (o + i))
          let s := s.setTeam t (x.load area.toNat rd s.time)
          let s := s.loadPad t (0x8000 + 0x40000 * x.st.groups.length) byte
          let s := s.modPkg fun p => { p with saved := p.saved.filter fun v => v.team != t }
          if v.src.isNone then s.lateCred t
          else
            let s := (s.strangerArrivals t (field (rd 48 8) 17 6) fun k => field (rd (0x8000 + 0x40000 * k + 0x10000) 8) 29 4).strangerHolds t
            s.modTeam t fun x => { x with safe := ⟨x.st, s.time⟩ }
    | some area, none => s.restoreOver t area
    | _, _ => s

end Sys2Proof.Machine
end

