-- ==== Sys2Proof/Machine/Dispatch.lean ====
section
/-!
DEFINITION. The meaning of every instruction and step: one arm per constructor.
-/

namespace Sys2Proof.Machine

def exec (i : Instr) (s : State) : Host.Outcome State Fault Refusal :=
  match i with
  -- Control flow and waiting (07, 08)
  | .nop => Sys2Proof.Machine.execNop s
  | .bra g u slot toff => Sys2Proof.Machine.execBra g u slot toff s
  | .brx g u a => Sys2Proof.Machine.execBrx g u a s
  | .call g u d slot toff => Sys2Proof.Machine.execCall g u d slot toff s
  | .ret g u a => Sys2Proof.Machine.execRet g u a s
  | .exit g => Sys2Proof.Machine.execExit g s
  | .yield g => Sys2Proof.Machine.execYield g s
  | .poll g cmp acq scope d l c => Sys2Proof.Machine.execPoll g cmp acq scope d l c s
  | .lwait g d ln c => Sys2Proof.Machine.execLwait g d ln c s
  | .enrol g rj => Sys2Proof.Machine.execEnrol g rj s
  | .park g rj => Sys2Proof.Machine.execPark g rj s
  | .strike g rj => Sys2Proof.Machine.execStrike g rj s
  | .brk g num => Sys2Proof.Machine.execBrk g num s
  -- Integers, bits, moves (05)
  | .iadd g uns sat d a b => Sys2Proof.Machine.execIadd g uns sat d a b s
  | .isub g uns sat d a b => Sys2Proof.Machine.execIsub g uns sat d a b s
  | .imul g uns sat d a b => Sys2Proof.Machine.execImul g uns sat d a b s
  | .imulh g uns d a b => Sys2Proof.Machine.execImulh g uns d a b s
  | .imad g uns sat d a b c => Sys2Proof.Machine.execImad g uns sat d a b c s
  | .imin g uns d a b => Sys2Proof.Machine.execImin g uns d a b s
  | .imax g uns d a b => Sys2Proof.Machine.execImax g uns d a b s
  | .iabs g sat d a => Sys2Proof.Machine.execIabs g sat d a s
  | .iadd64 g uns sat d a b => Sys2Proof.Machine.execIadd64 g uns sat d a b s
  | .imad64 g uns sat d a b c => Sys2Proof.Machine.execImad64 g uns sat d a b c s
  | .lea g zext sh d a b => Sys2Proof.Machine.execLea g zext sh d a b s
  | .sel g d a b c => Sys2Proof.Machine.execSel g d a b c s
  | .icmp g rel d a b => Sys2Proof.Machine.execIcmp g rel d a b s
  | .idiv g la uns sat d a b => Sys2Proof.Machine.execIdiv g la uns sat d a b s
  | .irem g la uns d a b => Sys2Proof.Machine.execIrem g la uns d a b s
  | .and g d a b => Sys2Proof.Machine.execAnd g d a b s
  | .or g d a b => Sys2Proof.Machine.execOr g d a b s
  | .xor g d a b => Sys2Proof.Machine.execXor g d a b s
  | .shl g d a b => Sys2Proof.Machine.execShl g d a b s
  | .shr g d a b => Sys2Proof.Machine.execShr g d a b s
  | .sar g d a b => Sys2Proof.Machine.execSar g d a b s
  | .rot g right d a b => Sys2Proof.Machine.execRot g right d a b s
  | .popc g d a => Sys2Proof.Machine.execPopc g d a s
  | .clz g d a => Sys2Proof.Machine.execClz g d a s
  | .brev g d a => Sys2Proof.Machine.execBrev g d a s
  | .bfe g uns d a b => Sys2Proof.Machine.execBfe g uns d a b s
  | .bfi g d a b c => Sys2Proof.Machine.execBfi g d a b c s
  | .mov g wide d a => Sys2Proof.Machine.execMov g wide d a s
  | .plop g op d a b => Sys2Proof.Machine.execPlop g op d a b s
  | .pmov g form => Sys2Proof.Machine.execPmov g form s
  | .movsr g d sreg => Sys2Proof.Machine.execMovsr g d sreg s
  -- Group operations (05, 12)
  | .vote g form a => Sys2Proof.Machine.execVote g form a s
  | .shfl g mode d a b => Sys2Proof.Machine.execShfl g mode d a b s
  | .redg g op rm d a => Sys2Proof.Machine.execRedg g op rm d a s
  | .scan g op seg rm d a => Sys2Proof.Machine.execScan g op seg rm d a s
  | .part g b => Sys2Proof.Machine.execPart g b s
  | .matchLanes g wide d a b => Sys2Proof.Machine.execMatchLanes g wide d a b s
  | .compact g d a b c => Sys2Proof.Machine.execCompact g d a b c s
  | .regrp g d a b => Sys2Proof.Machine.execRegrp g d a b s
  -- Floating point (05)
  | .fadd g m d a b => Sys2Proof.Machine.execFadd g m d a b s
  | .fmul g m d a b => Sys2Proof.Machine.execFmul g m d a b s
  | .ffma g m d a b c => Sys2Proof.Machine.execFfma g m d a b c s
  | .fmin g m d a b => Sys2Proof.Machine.execFmin g m d a b s
  | .fmax g m d a b => Sys2Proof.Machine.execFmax g m d a b s
  | .fcmp g rel m d a b => Sys2Proof.Machine.execFcmp g rel m d a b s
  | .frnd g m d a => Sys2Proof.Machine.execFrnd g m d a s
  | .hadd2 g bf m d a b => Sys2Proof.Machine.execHadd2 g bf m d a b s
  | .hmul2 g bf m d a b => Sys2Proof.Machine.execHmul2 g bf m d a b s
  | .hfma2 g bf m d a b c => Sys2Proof.Machine.execHfma2 g bf m d a b c s
  | .dadd g m d a b => Sys2Proof.Machine.execDadd g m d a b s
  | .dmul g m d a b => Sys2Proof.Machine.execDmul g m d a b s
  | .dfma g m d a b c => Sys2Proof.Machine.execDfma g m d a b c s
  | .dmin g m d a b => Sys2Proof.Machine.execDmin g m d a b s
  | .dmax g m d a b => Sys2Proof.Machine.execDmax g m d a b s
  | .dcmp g rel m d a b => Sys2Proof.Machine.execDcmp g rel m d a b s
  | .fcvt g op m d a => Sys2Proof.Machine.execFcvt g op m d a s
  | .rcp g la neg abs d a => Sys2Proof.Machine.execRcp g la neg abs d a s
  | .rsq g la neg abs d a => Sys2Proof.Machine.execRsq g la neg abs d a s
  | .sqrt g la neg abs d a => Sys2Proof.Machine.execSqrt g la neg abs d a s
  | .ex2 g la neg abs d a => Sys2Proof.Machine.execEx2 g la neg abs d a s
  | .lg2 g la neg abs d a => Sys2Proof.Machine.execLg2 g la neg abs d a s
  | .sin g la neg abs d a => Sys2Proof.Machine.execSin g la neg abs d a s
  | .cos g la neg abs d a => Sys2Proof.Machine.execCos g la neg abs d a s
  | .tanh g la neg abs d a => Sys2Proof.Machine.execTanh g la neg abs d a s
  | .tblev g la d a b c => Sys2Proof.Machine.execTblev g la d a b c s
  | .tblsw g => Sys2Proof.Machine.execTblsw g s
  | .drcp g la neg abs d a => Sys2Proof.Machine.execDrcp g la neg abs d a s
  | .dsqrt g la neg abs d a => Sys2Proof.Machine.execDsqrt g la neg abs d a s
  -- Narrow data (06)
  | .qnt g clamp rm d a b tid => Sys2Proof.Machine.execQnt g clamp rm d a b tid s
  | .dqnt g d a b tid => Sys2Proof.Machine.execDqnt g d a b tid s
  | .bscale g d a b tid => Sys2Proof.Machine.execBscale g d a b tid s
  | .cvtf g src rm d a tid => Sys2Proof.Machine.execCvtf g src rm d a tid s
  | .pack6 g d a => Sys2Proof.Machine.execPack6 g d a s
  | .unpk6 g sgn d a => Sys2Proof.Machine.execUnpk6 g sgn d a s
  | .pack4 g d a => Sys2Proof.Machine.execPack4 g d a s
  | .unpk4 g sgn d a => Sys2Proof.Machine.execUnpk4 g sgn d a s
  | .smooth g d a b tid => Sys2Proof.Machine.execSmooth g d a b tid s
  -- Line memory (10)
  | .openLine g mode u d l c => Sys2Proof.Machine.execOpenLine g mode u d l c s
  | .openReopen g ln => Sys2Proof.Machine.execOpenReopen g ln s
  | .opens g u d l => Sys2Proof.Machine.execOpens g u d l s
  | .close g ln => Sys2Proof.Machine.execClose g ln s
  | .flush g ln => Sys2Proof.Machine.execFlush g ln s
  | .ld g la size acq scope d l => Sys2Proof.Machine.execLd g la size acq scope d l s
  | .st g size rel scope l c => Sys2Proof.Machine.execSt g size rel scope l c s
  | .linfo g la d ln => Sys2Proof.Machine.execLinfo g la d ln s
  | .llk g la wide d l => Sys2Proof.Machine.execLlk g la wide d l s
  | .sul g wide l c => Sys2Proof.Machine.execSul g wide l c s
  | .amo g la op sem scope d a c => Sys2Proof.Machine.execAmo g la op sem scope d a c s
  | .red g op rel scope a c => Sys2Proof.Machine.execRed g op rel scope a c s
  | .scat g op rel scope a c => Sys2Proof.Machine.execScat g op rel scope a c s
  | .cmcast g at_ l c => Sys2Proof.Machine.execCmcast g at_ l c s
  | .mst g size rel scope l c => Sys2Proof.Machine.execMst g size rel scope l c s
  | .fence g sem path scope => Sys2Proof.Machine.execFence g sem path scope s
  | .xfence g pa pb scope => Sys2Proof.Machine.execXfence g pa pb scope s
  | .afence g => Sys2Proof.Machine.execAfence g s
  | .bar g scope => Sys2Proof.Machine.execBar g scope s
  | .bara g op scope a => Sys2Proof.Machine.execBara g op scope a s
  | .barw g scope d => Sys2Proof.Machine.execBarw g scope d s
  | .sbinit g l c => Sys2Proof.Machine.execSbinit g l c s
  | .sbexp g l c => Sys2Proof.Machine.execSbexp g l c s
  | .sbarv g l c => Sys2Proof.Machine.execSbarv g l c s
  | .sbwait g d l c => Sys2Proof.Machine.execSbwait g d l c s
  | .cjoin g d a b => Sys2Proof.Machine.execCjoin g d a b s
  | .cleave g => Sys2Proof.Machine.execCleave g s
  -- Engines (11)
  | .cpy g toGlobal tag a b c => Sys2Proof.Machine.execCpy g toGlobal tag a b c s
  | .cpwait g tag => Sys2Proof.Machine.execCpwait g tag s
  | .kick g d a c => Sys2Proof.Machine.execKick g d a c s
  | .gthr g d a b c tid => Sys2Proof.Machine.execGthr g d a b c tid s
  | .emb g d a tid => Sys2Proof.Machine.execEmb g d a tid s
  | .cpstBt g la tag d => Sys2Proof.Machine.execCpstBt g la tag d s
  | .cpstTkt g la d a => Sys2Proof.Machine.execCpstTkt g la d a s
  -- Matrix unit and triples (06)
  | .mma g la r cv d a b c tid => Sys2Proof.Machine.execMma g la r cv d a b c tid s
  | .mmas g la r cv n d a b c tid => Sys2Proof.Machine.execMmas g la r cv n d a b c tid s
  | .maccZero g la d => Sys2Proof.Machine.execMaccZero g la d s
  | .maccInit g la d => Sys2Proof.Machine.execMaccInit g la d s
  | .maccMov g la d a => Sys2Proof.Machine.execMaccMov g la d a s
  | .maccRd g la d a b => Sys2Proof.Machine.execMaccRd g la d a b s
  | .maccWr g la d a b => Sys2Proof.Machine.execMaccWr g la d a b s
  | .maccRdst g la d a => Sys2Proof.Machine.execMaccRdst g la d a s
  | .maccWrst g la d a => Sys2Proof.Machine.execMaccWrst g la d a s
  | .maccDecl g la d => Sys2Proof.Machine.execMaccDecl g la d s
  | .mrel g => Sys2Proof.Machine.execMrel g s
  | .smax g la d a => Sys2Proof.Machine.execSmax g la d a s
  | .sexp g la q d a => Sys2Proof.Machine.execSexp g la q d a s
  | .smerge g la d a => Sys2Proof.Machine.execSmerge g la d a s
  | .cred g la d => Sys2Proof.Machine.execCred g la d s
  -- Tasks and graphs (08)
  | .tdone g a => Sys2Proof.Machine.execTdone g a s
  | .gcond g op num a => Sys2Proof.Machine.execGcond g op num a s
  | .gsig g num => Sys2Proof.Machine.execGsig g num s
  -- Key-value space (13)
  | .kvopen g rw u d ln c => Sys2Proof.Machine.execKvopen g rw u d ln c s
  | .kvfill g d a b c tid => Sys2Proof.Machine.execKvfill g d a b c tid s
  | .kvmap g la d a b => Sys2Proof.Machine.execKvmap g la d a b s
  | .kvfork g la d a b => Sys2Proof.Machine.execKvfork g la d a b s
  | .kvdrop g la d a => Sys2Proof.Machine.execKvdrop g la d a s
  -- Gates, traps, system (14, 16, 17)
  | .gcall g d num => Sys2Proof.Machine.execGcall g d num s
  | .gret g a => Sys2Proof.Machine.execGret g a s
  | .trap g num => Sys2Proof.Machine.execTrap g num s
  | .eret g r => Sys2Proof.Machine.execEret g r s
  | .setsr g sreg a => Sys2Proof.Machine.execSetsr g sreg a s
  | .setsrAmask g a => Sys2Proof.Machine.execSetsrAmask g a s
  | .setsrLpc g a => Sys2Proof.Machine.execSetsrLpc g a s
  | .dmrbeg g d => Sys2Proof.Machine.execDmrbeg g d s
  | .dmrend g => Sys2Proof.Machine.execDmrend g s
  | .rgn g region => Sys2Proof.Machine.execRgn g region s
  | .halt g => Sys2Proof.Machine.execHalt g s
  | .tlbinv g form => Sys2Proof.Machine.execTlbinv g form s
  | .recall g form => Sys2Proof.Machine.execRecall g form s
  -- Steps of the device
  | .pollRetry st => Sys2Proof.Machine.execPollRetry st s
  | .lwaitWake st cause => Sys2Proof.Machine.execLwaitWake st cause s
  | .lineFetchLands r => Sys2Proof.Machine.execLineFetchLands r s
  | .amoPerformed st id => Sys2Proof.Machine.execAmoPerformed st id s
  | .frUpdateMerge c id => Sys2Proof.Machine.execFrUpdateMerge c id s
  | .cmcastLanding c id => Sys2Proof.Machine.execCmcastLanding c id s
  | .cmcastTimedPresence c id => Sys2Proof.Machine.execCmcastTimedPresence c id s
  | .barrierArrival team grp scope => Sys2Proof.Machine.execBarrierArrival team grp scope s
  | .barrierRelease team grp scope total bad => Sys2Proof.Machine.execBarrierRelease team grp scope total bad s
  | .embExchange c id rows => Sys2Proof.Machine.execEmbExchange c id rows s
  | .commandServiceStart c id => Sys2Proof.Machine.execCommandServiceStart c id s
  | .engineUnitLands c id lane unit => Sys2Proof.Machine.execEngineUnitLands c id lane unit s
  | .credContribution team grp => Sys2Proof.Machine.execCredContribution team grp s
  | .gateAbort team grp code => Sys2Proof.Machine.execGateAbort team grp code s
  | .compareRecord bench pair => Sys2Proof.Machine.execCompareRecord bench pair s
  | .fetchLine st flips => Sys2Proof.Machine.execFetchLine st flips s
  | .issueGrant c part => Sys2Proof.Machine.execIssueGrant c part s
  | .longLatencyWriteback st id => Sys2Proof.Machine.execLongLatencyWriteback st id s
  | .trapEntry st => Sys2Proof.Machine.execTrapEntry st s
  | .pageWalk c id => Sys2Proof.Machine.execPageWalk c id s
  | .kvWalk c id => Sys2Proof.Machine.execKvWalk c id s
  | .faultRecord home c id rec => Sys2Proof.Machine.execFaultRecord home c id rec s
  | .faultResponse c reply => Sys2Proof.Machine.execFaultResponse c reply s
  | .departureApplied c id => Sys2Proof.Machine.execDepartureApplied c id s
  | .checkpointTaken team => Sys2Proof.Machine.execCheckpointTaken team s
  | .checkpointSafe team date => Sys2Proof.Machine.execCheckpointSafe team date s
  | .lehrAgeTimeout team entered => Sys2Proof.Machine.execLehrAgeTimeout team entered s
  | .strikeReport c => Sys2Proof.Machine.execStrikeReport c s
  | .rollback team => Sys2Proof.Machine.execRollback team s
  | .memoryUncorrectable site again => Sys2Proof.Machine.execMemoryUncorrectable site again s
  | .flitCrcError plane fails => Sys2Proof.Machine.execFlitCrcError plane fails s
  | .planeFailure plane => Sys2Proof.Machine.execPlaneFailure plane s
  | .launchSubmit launch => Sys2Proof.Machine.execLaunchSubmit launch s
  | .teamAdmission die weak => Sys2Proof.Machine.execTeamAdmission die weak s
  | .timedLaunchStart launch => Sys2Proof.Machine.execTimedLaunchStart launch s
  | .teamEnd team => Sys2Proof.Machine.execTeamEnd team s
  | .taskDeal graph node => Sys2Proof.Machine.execTaskDeal graph node s
  | .waveFormation c => Sys2Proof.Machine.execWaveFormation c s
  | .stealRequest thief victim => Sys2Proof.Machine.execStealRequest thief victim s
  | .stealRetry c => Sys2Proof.Machine.execStealRetry c s
  | .graphSubmit graph => Sys2Proof.Machine.execGraphSubmit graph s
  | .nodeCompletion graph node => Sys2Proof.Machine.execNodeCompletion graph node s
  | .gcondUpdate upd op num x => Sys2Proof.Machine.execGcondUpdate upd op num x s
  | .gsigArrival graph node => Sys2Proof.Machine.execGsigArrival graph node s
  | .queueDoorbell fn q tail => Sys2Proof.Machine.execQueueDoorbell fn q tail s
  | .queueEntry fn q => Sys2Proof.Machine.execQueueEntry fn q s
  | .hostBar2Access fn q va n acc => Sys2Proof.Machine.execHostBar2Access fn q va n acc s
  | .configWrite reg value => Sys2Proof.Machine.execConfigWrite reg value s
  | .collectiveSubmit fn q coll => Sys2Proof.Machine.execCollectiveSubmit fn q coll s
  | .collectiveChunk id chunk parts lost => Sys2Proof.Machine.execCollectiveChunk id chunk parts lost s
  | .egressFlit lane dst isGroup => Sys2Proof.Machine.execEgressFlit lane dst isGroup s
  | .packageReset sigOk egress sources => Sys2Proof.Machine.execPackageReset sigOk egress sources s
  | .attestationRequest nonce => Sys2Proof.Machine.execAttestationRequest nonce s
  | .keyLoad id => Sys2Proof.Machine.execKeyLoad id s
  | .powerClamp draw => Sys2Proof.Machine.execPowerClamp draw s
  | .thermalLimit die temp => Sys2Proof.Machine.execThermalLimit die temp s
  | .managementAccess pa n wr => Sys2Proof.Machine.execManagementAccess pa n wr s
  | .debugResume team grp act => Sys2Proof.Machine.execDebugResume team grp act s
  | .preemptRequest team by_ => Sys2Proof.Machine.execPreemptRequest team by_ s
  | .drainTimeout team => Sys2Proof.Machine.execDrainTimeout team s
  | .saveRequest team => Sys2Proof.Machine.execSaveRequest team s
  | .saveSpill team => Sys2Proof.Machine.execSaveSpill team s
  | .restoreRequest asid area => Sys2Proof.Machine.execRestoreRequest asid area s
  | .restoreLoad team => Sys2Proof.Machine.execRestoreLoad team s
  | .hostLinkTraining width rate => Sys2Proof.Machine.execHostLinkTraining width rate s

end Sys2Proof.Machine
end

