-- ==== Sys2Proof/Machine/Turn.lean ====
section
/-!
DEFINITION. What a step does around the meaning it runs: before and after an instruction, and before and after a step of the
device (log 2).
-/

namespace Sys2Proof.Machine

/-- A cursor whose line is not fetched: the stream holds it and waits. -/
def State.unfetched (s : State) (c : Cursor) : State :=
  (({ s with cur := c, held := true }).issued c 0).tick

/-- The state with the fetched word at the cursor. -/
def State.atWord (s : State) (c : Cursor) (w : SlotWord) : State :=
  { s with cur := { c with word := w, pop := [] }, held := false, trapped := false }

/-- A word that does not decode raises the illegal-instruction trap (R66). -/
def State.illegalWord (s : State) (c : Cursor) (w : SlotWord) : State :=
  ((((s.atWord c w).drainQueue c.id).trapHere ⟨1, 0, c.pc, c.lanes⟩).issued c 0).tick

/-- The state in which a decoded instruction runs. -/
def State.ready (s : State) (c : Cursor) (w : SlotWord) (i : Instr) : State := ((s.atWord c w).drainFor i c.id).pruneFences c.id

/-- After an instruction: the machine's own settling, the cursor's next program counter, and one unit of time. -/
def State.ended (t s : State) (c : Cursor) : State := (t.settleAll.issued c (c.lanes &&& (s.stream c.id).skipCmp)).tick

/-- A program counter that was tried is ready, and its instruction traps or not. -/
def State.foundReady (s : State) (c : Cursor) (traps : Bool) : State := { s with found := s.found ++ [(c, traps)] }

/-- After a step of the device. -/
def State.afterEvent (u : State) : State :=
  let t := u.settleAll
  if t.held then { t with held := false }.tick else { t with epoch := t.epoch + 1 }.tick

/-- A step in which nothing happens. -/
def State.restStep (s : State) : State := { s with epoch := s.epoch + 1 }.tick

/-- The next issue: the cursor that is up, or the lowest program counter of group 0 of team 0. -/
def State.nextCursor (s : State) : Cursor :=
  match s.toIssue with
  | c :: _ => c
  | [] =>
    let st := s.stream ⟨0, 0, false⟩
    let pc := st.pc (low st.amask)
    ⟨0, 0, false, pc, st.lanesAt pc, 0, []⟩

/-- An instruction in the line of the next issue; without a resident team, one group of a privileged fused launch stands at
slot 0 of line 0 (log 8). -/
def State.placeWord (s : State) (nbits w : Nat) : State :=
  let s := if s.toIssue.isEmpty && !(s.team 0).live then s.setTeam 0 probeTeam else s
  let c := s.nextCursor
  let line : FetchLine := BitVec.ofNat 512 (w % 2 ^ nbits * 2 ^ (32 + 96 * pcSlot c.pc))
  { s.setFetched c.id (pcLine c.pc) (some line) with toIssue := [c] }

end Sys2Proof.Machine
end

