-- ==== Sys2Proof/Machine/Step.lean ====
section
/-!
DEFINITION. One step of the package: the instruction of the next granted program counter, or else the next step of the
device: a wave that can form (R183), or else by the schedule or in the order of `State.nextStep` (log 2). While an opportunity is decided, its program counters
are tried.
-/

namespace Sys2Proof.Machine

/-- Runs the decoded instruction at the cursor. -/
def stepIssue (s : State) (c : Cursor) : Host.Outcome State Fault Refusal :=
  match s.cursorOk c with
  | none => .next s
  | some c =>
    match s.wordAt c with
    | none => .next (s.unfetched c)
    | some w =>
      match decode w with
      | .error _ => .next (s.illegalWord c w)
      | .ok i =>
        match exec i (s.ready c w i) with
        | .next t => .next (t.ended s c)
        | o => o

/-- Tries a program counter of the opportunity (R159): one whose instruction holds is not ready, and only what it notes as
it waits is kept; another is found ready, and nothing has happened yet. -/
def stepProbe (s : State) : Host.Outcome State Fault Refusal :=
  match s.probe with
  | none => .next s.decided
  | some c =>
    match s.wordAt c with
    | none => .next ({ s with cur := c, held := true }.issued c 0)
    | some w =>
      match decode w with
      | .error _ => .next (s.foundReady c true)
      | .ok i =>
        match exec i (s.ready c w i) with
        | .next t => .next (if t.held then t.settleAll.issued c 0 else s.foundReady c t.trapped)
        | o => o

/-- Runs one step of the device. -/
def stepEvent (e : Instr) (s : State) : Host.Outcome State Fault Refusal :=
  match exec e { s with held := false } with
  | .next u => .next u.afterEvent
  | o => o

def step (s : State) : Host.Outcome State Fault Refusal :=
  match s.toIssue with
  | c :: rest => stepIssue { s with toIssue := rest } c
  | [] =>
    if s.opened then stepProbe s
    else match s.dueWave with
    | some c => stepEvent (.waveFormation c) s
    | none =>
      match s.sched with
      | ch :: rest =>
        match { s with sched := rest }.chosen ch with
        | some (e, t) => stepEvent e t
        | none => .next { s with sched := rest }.tick
      | [] =>
        match s.nextStep with
        | some (e, t) => stepEvent e t
        | none => .next s.restStep

/-- The state with an instruction in the fetched line of the next issue. -/
def State.withFetchWord (s : State) (nbits w : Nat) : State := s.placeWord nbits w

end Sys2Proof.Machine
end

