-- ==== Sys2Proof/Laws/Fields.lean ====
section
/-!
SUPPORT. Decoding undoes encoding: the fields of a word, the codes of operands and of fields, and one lemma per form of
word (R46-R66).
-/

namespace Sys2Proof.Laws

open Sys2Proof.Encode Sys2Proof.Decode

theorem toWord_bit (r : Raw) (i : Nat) :
    r.toWord.getLsbD i =
      (r.w ++ r.c ++ r.b ++ r.a ++ r.d ++ r.fl ++ r.la ++ r.pg ++ r.fn ++ r.op :
        BitVec (40 + 8 + 8 + 8 + 8 + 4 + 4 + 4 + 4 + 8)).getLsbD i := rfl

/-- A word holds its fields (R46). -/
@[simp] theorem ofWord_toWord (r : Raw) : Raw.ofWord r.toWord = r := by
  rcases r with ⟨op, fn, pg, la, fl, d, a, b, c, w⟩
  simp only [Raw.ofWord, Raw.mk.injEq]
  refine ⟨?_, ?_, ?_, ?_, ?_, ?_, ?_, ?_, ?_, ?_⟩ <;>
    (apply BitVec.eq_of_getLsbD_eq; intro i hi
     simp only [BitVec.getLsbD_extractLsb', hi, toWord_bit, BitVec.getLsbD_append, decide_true, Bool.true_and]
     repeat rw [if_neg (by omega)]
     first | (rw [if_pos (by omega)]; congr 1; omega) | (congr 1; omega))

/-! ## Codes -/

theorem ofNat8_toNat (n : Nat) (h : n < 256) : (BitVec.ofNat 8 n).toNat = n := by simp; omega

@[simp] theorem guardOf_guard (g : Guard) : guardOf (Encode.guard g) = g := by
  rcases g with ⟨n, p⟩
  revert n p; decide

@[simp] theorem srcOf_v (n : Fin 192) : srcOf (BitVec.ofNat 8 n.val) = some (.v n) := by
  have h := n.2
  have e := ofNat8_toNat n.val (by omega)
  rw [srcOf, dif_pos (by omega)]
  exact congrArg (some ∘ Src.v) (Fin.ext e)

@[simp] theorem srcOf_s (n : Fin 32) : srcOf (BitVec.ofNat 8 (192 + n.val)) = some (.s n) := by
  have h := n.2
  have e := ofNat8_toNat (192 + n.val) (by omega)
  rw [srcOf, dif_neg (by omega), dif_pos (by omega)]
  exact congrArg (some ∘ Src.s) (Fin.ext (show _ - 192 = n.val by omega))

theorem srcOf_rest (x : BitVec 8) (h : 224 ≤ x.toNat) :
    srcOf x = if x = 0xF0 then some .z else if x = 0xF1 then some (.q 0) else if x = 0xF2 then some (.q 1)
      else if x = 0xF3 then some (.q 2) else if x = 0xF4 then some (.q 3) else if x = 0xF5 then some .lane else none := by
  rw [srcOf, dif_neg (by omega), dif_neg (by omega)]

@[simp] theorem srcOf_q (n : Fin 4) : srcOf (BitVec.ofNat 8 (0xF1 + n.val)) = some (.q n) := by
  have h := n.2
  rw [srcOf_rest _ (by rw [ofNat8_toNat] <;> omega)]
  revert n; decide

@[simp] theorem srcOf_z : srcOf 0xF0 = some .z := by rw [srcOf_rest _ (by decide)]; decide
@[simp] theorem srcOf_lane : srcOf 0xF5 = some .lane := by rw [srcOf_rest _ (by decide)]; decide

theorem srcOf_src (a : Src) (h : WellFormed.src a = true) : srcOf (Encode.src a) = some a := by
  cases a with
  | v n => exact srcOf_v n
  | s n => exact srcOf_s n
  | z => exact srcOf_z
  | q n => exact srcOf_q n
  | lane => exact srcOf_lane
  | imm w => simp [WellFormed.src] at h

@[simp] theorem dstOf_dst (d : Dst) : dstOf (Encode.dst d) = some d := by
  cases d with
  | v n => simp only [dstOf, Encode.dst, srcOf_v]
  | s n => simp only [dstOf, Encode.dst, srcOf_s]
  | z => simp only [dstOf, Encode.dst, srcOf_z]
  | q n => simp only [dstOf, Encode.dst, srcOf_q]

@[simp] theorem lineOf_ln (n : Fin 16) : lineOf (Encode.ln n) = some n := by revert n; decide

theorem idxOf_idx {n : Nat} (h : n ≤ 256) (i : Fin n) : idxOf n (Encode.idx i) = some i := by
  have e := ofNat8_toNat i.val (by omega)
  rw [idxOf, Encode.idx, dif_pos (by omega)]
  exact congrArg some (Fin.ext e)

@[simp] theorem vecOf_vec (n : Fin 192) : vecOf (Encode.vec n) = some n := idxOf_idx (by omega) n

@[simp] theorem uniOf_uni (n : Fin 32) : uniOf (Encode.uni n) = some n := by
  have h := n.2
  have e := ofNat8_toNat (192 + n.val) (by omega)
  rw [uniOf, Encode.uni, if_neg (by omega), dif_pos (by omega)]
  exact congrArg some (Fin.ext (show _ - 192 = n.val by omega))

@[simp] theorem rmOf_rm (r : Rm) : rmOf (Encode.rm r).toNat = some r := by cases r <;> rfl
@[simp] theorem scopeOf_scope (x : Scope) : Decode.scopeOf (Encode.scope x).toNat = some x := by cases x <;> rfl
@[simp] theorem pathOf_path (x : Path) : pathOf (Encode.path x).toNat = some x := by cases x <;> rfl
@[simp] theorem semOf_sem (x : Sem) : semOf (Encode.sem x).toNat = x := by cases x <;> rfl
@[simp] theorem sizeOf_size (x : Size) : Decode.sizeOf (Encode.size x).toNat = some x := by cases x <;> rfl
@[simp] theorem farOf_far (x : FarOp) : farOf (Encode.far x).toNat = some x := by cases x <;> rfl
@[simp] theorem irelOf_irel (x : IRel) : irelOf (Encode.irel x).toNat = some x := by cases x <;> rfl
@[simp] theorem frelOf_frel (x : FRel) : frelOf (Encode.frel x).toNat = some x := by cases x <;> rfl
@[simp] theorem plopOf_plop (x : PlopOp) : plopOf (Encode.plop x).toNat = some x := by cases x <;> rfl
@[simp] theorem shflOf_shfl (x : ShflMode) : shflOf (Encode.shfl x).toNat = some x := by cases x <;> rfl
@[simp] theorem redgOf_redg (x : RedgOp) : redgOf (Encode.redg x).toNat = some x := by cases x <;> rfl
@[simp] theorem scanOf_scan (x : ScanOp) : scanOf (Encode.scan x).toNat = some x := by cases x <;> rfl
@[simp] theorem cvtOf_cvt (x : CvtOp) : cvtOf (Encode.cvt x).toNat = x := by cases x <;> rfl
@[simp] theorem pollOf_poll (x : PollCmp) : pollOf (Encode.poll x).toNat = some x := by cases x <;> rfl
@[simp] theorem barOf_bar (x : BarOp) : barOf (Encode.bar x).toNat = some x := by cases x <;> rfl
@[simp] theorem condOf_cond (x : CondOp) : condOf (Encode.cond x).toNat = some x := by cases x <;> rfl
@[simp] theorem fenceOf_sem (x : FenceSem) : fenceOf (Encode.fenceSem x).toNat = some x := by cases x <;> rfl
@[simp] theorem sparsityOf_sparsity (x : Sparsity) : sparsityOf (Encode.sparsity x).toNat = x := by cases x <;> rfl
@[simp] theorem sregOf_sreg (x : SReg) : sregOf (Encode.sreg x).toNat = some x := by cases x <;> rfl

/-! ## Fields of W -/

theorem part_bit {n m : Nat} (x : BitVec n) (lo : Nat) (y : BitVec m)
    (h : ∀ i, i < m → x.getLsbD (lo + i) = y.getLsbD i) : x.extractLsb' lo m = y := by
  apply BitVec.eq_of_getLsbD_eq
  intro i hi
  simp [hi, h i hi]

/-- The low part of an append, and a part above it. -/
theorem part_low {n m : Nat} (x : BitVec n) (y : BitVec m) : (x ++ y).extractLsb' 0 m = y := by
  apply part_bit; intro i hi; simp [BitVec.getLsbD_append, hi]

theorem part_high {n m k : Nat} (x : BitVec n) (y : BitVec m) (lo : Nat) :
    (x ++ y).extractLsb' (m + lo) k = x.extractLsb' lo k := by
  apply part_bit; intro i hi
  simp [BitVec.getLsbD_append, hi, show ¬ m + lo + i < m by omega, show m + lo + i - m = lo + i by omega]

@[simp] theorem w01_mod (m : BitVec 8) (i : Word) : (w01 m i).extractLsb' 0 8 = m := part_low i m
@[simp] theorem w01_imm (m : BitVec 8) (i : Word) : (w01 m i).extractLsb' 8 32 = i := 
  (part_high i m 0).trans (by simp)

@[simp] theorem w2_slot (s : Fin 5) (t : BitVec 37) : (w2 s t).extractLsb' 0 3 = BitVec.ofNat 3 s.val := part_low t _
@[simp] theorem w2_toff (s : Fin 5) (t : BitVec 37) : (w2 s t).extractLsb' 3 37 = t := 
  (part_high t _ 0).trans (by simp)

theorem w3_parts (o : BitVec 7) (sc : BitVec 4) (sm : BitVec 2) :
    (w3 o sc sm).extractLsb' 0 7 = o ∧ (w3 o sc sm).extractLsb' 7 4 = sc ∧ (w3 o sc sm).extractLsb' 11 2 = sm ∧
      (w3 o sc sm).extractLsb' 13 27 = 0 := by
  refine ⟨?_, ?_, ?_, ?_⟩ <;>
    (apply part_bit; intro i hi
     simp only [w3, BitVec.getLsbD_append]
     repeat rw [if_neg (by omega)]
     first | (rw [if_pos (by omega)]; congr 1; omega) | (congr 1; omega))
@[simp] theorem w3_off (o : BitVec 7) (sc : BitVec 4) (sm : BitVec 2) : (w3 o sc sm).extractLsb' 0 7 = o := (w3_parts o sc sm).1
@[simp] theorem w3_scope (o : BitVec 7) (sc : BitVec 4) (sm : BitVec 2) : (w3 o sc sm).extractLsb' 7 4 = sc := (w3_parts o sc sm).2.1
@[simp] theorem w3_sem (o : BitVec 7) (sc : BitVec 4) (sm : BitVec 2) : (w3 o sc sm).extractLsb' 11 2 = sm := (w3_parts o sc sm).2.2.1
@[simp] theorem w3_rest (o : BitVec 7) (sc : BitVec 4) (sm : BitVec 2) : (w3 o sc sm).extractLsb' 13 27 = 0 := (w3_parts o sc sm).2.2.2

theorem w4_parts (tid : BitVec 12) (tag pa pb : BitVec 3) (sc : BitVec 4) (r : BitVec 3) :
    (w4 tid tag pa pb sc r).extractLsb' 0 12 = tid ∧ (w4 tid tag pa pb sc r).extractLsb' 12 3 = tag ∧
      (w4 tid tag pa pb sc r).extractLsb' 15 3 = pa ∧ (w4 tid tag pa pb sc r).extractLsb' 18 3 = pb ∧
      (w4 tid tag pa pb sc r).extractLsb' 21 4 = sc ∧ (w4 tid tag pa pb sc r).extractLsb' 25 3 = r ∧
      (w4 tid tag pa pb sc r).extractLsb' 28 12 = 0 := by
  refine ⟨?_, ?_, ?_, ?_, ?_, ?_, ?_⟩ <;>
    (apply part_bit; intro i hi
     simp only [w4, BitVec.getLsbD_append]
     repeat rw [if_neg (by omega)]
     first | (rw [if_pos (by omega)]; congr 1; omega) | (congr 1; omega))
@[simp] theorem w4_tid (t : BitVec 12) (g a b : BitVec 3) (sc : BitVec 4) (r : BitVec 3) : (w4 t g a b sc r).extractLsb' 0 12 = t := (w4_parts t g a b sc r).1
@[simp] theorem w4_tag (t : BitVec 12) (g a b : BitVec 3) (sc : BitVec 4) (r : BitVec 3) : (w4 t g a b sc r).extractLsb' 12 3 = g := (w4_parts t g a b sc r).2.1
@[simp] theorem w4_pathA (t : BitVec 12) (g a b : BitVec 3) (sc : BitVec 4) (r : BitVec 3) : (w4 t g a b sc r).extractLsb' 15 3 = a := (w4_parts t g a b sc r).2.2.1
@[simp] theorem w4_pathB (t : BitVec 12) (g a b : BitVec 3) (sc : BitVec 4) (r : BitVec 3) : (w4 t g a b sc r).extractLsb' 18 3 = b := (w4_parts t g a b sc r).2.2.2.1
@[simp] theorem w4_scope (t : BitVec 12) (g a b : BitVec 3) (sc : BitVec 4) (r : BitVec 3) : (w4 t g a b sc r).extractLsb' 21 4 = sc := (w4_parts t g a b sc r).2.2.2.2.1
@[simp] theorem w4_rm (t : BitVec 12) (g a b : BitVec 3) (sc : BitVec 4) (r : BitVec 3) : (w4 t g a b sc r).extractLsb' 25 3 = r := (w4_parts t g a b sc r).2.2.2.2.2.1
@[simp] theorem w4_rest (t : BitVec 12) (g a b : BitVec 3) (sc : BitVec 4) (r : BitVec 3) : (w4 t g a b sc r).extractLsb' 28 12 = 0 := (w4_parts t g a b sc r).2.2.2.2.2.2

theorem w5_parts (num sr : BitVec 8) (re : BitVec 16) (p : BitVec 1) :
    (w5 num sr re p).extractLsb' 0 8 = num ∧ (w5 num sr re p).extractLsb' 8 8 = sr ∧ (w5 num sr re p).extractLsb' 16 16 = re ∧
      (w5 num sr re p).extractLsb' 32 1 = p ∧ (w5 num sr re p).extractLsb' 33 7 = 0 := by
  refine ⟨?_, ?_, ?_, ?_, ?_⟩ <;>
    (apply part_bit; intro i hi
     simp only [w5, BitVec.getLsbD_append]
     repeat rw [if_neg (by omega)]
     first | (rw [if_pos (by omega)]; congr 1; omega) | (congr 1; omega))
@[simp] theorem w5_num (n sr : BitVec 8) (re : BitVec 16) (p : BitVec 1) : (w5 n sr re p).extractLsb' 0 8 = n := (w5_parts n sr re p).1
@[simp] theorem w5_sreg (n sr : BitVec 8) (re : BitVec 16) (p : BitVec 1) : (w5 n sr re p).extractLsb' 8 8 = sr := (w5_parts n sr re p).2.1
@[simp] theorem w5_region (n sr : BitVec 8) (re : BitVec 16) (p : BitVec 1) : (w5 n sr re p).extractLsb' 16 16 = re := (w5_parts n sr re p).2.2.1
@[simp] theorem w5_priv (n sr : BitVec 8) (re : BitVec 16) (p : BitVec 1) : (w5 n sr re p).extractLsb' 32 1 = p := (w5_parts n sr re p).2.2.2.1
@[simp] theorem w5_rest (n sr : BitVec 8) (re : BitVec 16) (p : BitVec 1) : (w5 n sr re p).extractLsb' 33 7 = 0 := (w5_parts n sr re p).2.2.2.2

/-! ## FN, FL and MOD -/

@[simp] theorem bit_high (b : Bool) : (Encode.bit b).extractLsb' 1 3 = 0 := by cases b <;> rfl
@[simp] theorem bit_low (b : Bool) : (Encode.bit b).getLsbD 0 = b := by cases b <;> rfl
@[simp] theorem bit1_low (b : Bool) : (Encode.bit1 b).getLsbD 0 = b := by cases b <;> rfl

@[simp] theorem bit_low' (b : Bool) : (Encode.bit b)[0] = b := by cases b <;> rfl
@[simp] theorem bit1_low' (b : Bool) : (Encode.bit1 b)[0] = b := by cases b <;> rfl

theorem fmod_bits (m : FMod) :
    (Encode.fmod m).extractLsb' 0 3 = Encode.rm m.rm ∧ (Encode.fmod m).getLsbD 3 = m.nega ∧ (Encode.fmod m).getLsbD 4 = m.negb ∧
      (Encode.fmod m).getLsbD 5 = m.negc ∧ (Encode.fmod m).getLsbD 6 = m.abs ∧ (Encode.fmod m).getLsbD 7 = m.sat := by
  rcases m with ⟨r, a, b, c, d, e⟩
  cases r <;> cases a <;> cases b <;> cases c <;> cases d <;> cases e <;> decide

@[simp] theorem fmod_rm (m : FMod) : (Encode.fmod m).extractLsb' 0 3 = Encode.rm m.rm := (fmod_bits m).1
@[simp] theorem fmod_nega (m : FMod) : (Encode.fmod m).getLsbD 3 = m.nega := (fmod_bits m).2.1
@[simp] theorem fmod_negb (m : FMod) : (Encode.fmod m).getLsbD 4 = m.negb := (fmod_bits m).2.2.1
@[simp] theorem fmod_negc (m : FMod) : (Encode.fmod m).getLsbD 5 = m.negc := (fmod_bits m).2.2.2.1
@[simp] theorem fmod_abs (m : FMod) : (Encode.fmod m).getLsbD 6 = m.abs := (fmod_bits m).2.2.2.2.1
@[simp] theorem fmod_sat (m : FMod) : (Encode.fmod m).getLsbD 7 = m.sat := (fmod_bits m).2.2.2.2.2

@[simp] theorem fmod_nega' (m : FMod) : (Encode.fmod m)[3] = m.nega := (fmod_bits m).2.1
@[simp] theorem fmod_negb' (m : FMod) : (Encode.fmod m)[4] = m.negb := (fmod_bits m).2.2.1
@[simp] theorem fmod_negc' (m : FMod) : (Encode.fmod m)[5] = m.negc := (fmod_bits m).2.2.2.1
@[simp] theorem fmod_abs' (m : FMod) : (Encode.fmod m)[6] = m.abs := (fmod_bits m).2.2.2.2.1
@[simp] theorem fmod_sat' (m : FMod) : (Encode.fmod m)[7] = m.sat := (fmod_bits m).2.2.2.2.2

/-- MOD of a special function, and MOD with a rounding mode alone. -/
@[simp] theorem negAbs_mk (op : BitVec 8) (fn pg la fl : BitVec 4) (d a b c : BitVec 8) (n s : Bool) (i : Word) :
    Decode.negAbs ⟨op, fn, pg, la, fl, d, a, b, c, w01 (Encode.negAbs n s) i⟩ = .ok (n, s) := by
  simp only [Decode.negAbs, Raw.modBits, w01_mod]
  cases n <;> cases s <;> decide

@[simp] theorem modRm_high (r : Rm) : (0#5 ++ Encode.rm r).extractLsb' 3 5 = 0 := by cases r <;> decide
@[simp] theorem modRm_low (r : Rm) : (0#5 ++ Encode.rm r).extractLsb' 0 3 = Encode.rm r := by cases r <;> decide
@[simp] theorem scope_group : Encode.scope .group = 0 := rfl
@[simp] theorem idxOf_vec (n : Fin 192) : idxOf 192 (Encode.vec n) = some n := vecOf_vec n
theorem slot_mod (n : Nat) (h : n < 5) : n % 8 = n := by omega

/-! ## Operands that an instruction accepts -/

@[simp] theorem src_of_pair {a : Src} (h : WellFormed.pair a = true) : srcOf (Encode.src a) = some a :=
  srcOf_src a (by cases a <;> first | rfl | exact Bool.noConfusion h)
theorem src_of_reg {a : Src} (h : WellFormed.reg a = true) : srcOf (Encode.src a) = some a :=
  srcOf_src a (by cases a <;> first | rfl | exact Bool.noConfusion h)
theorem src_of_squad {a : Src} (h : WellFormed.squad a = true) : srcOf (Encode.src a) = some a :=
  srcOf_src a (by cases a <;> first | rfl | exact Bool.noConfusion h)
theorem src_of_uni {a : Src} (h : WellFormed.uni a = true) : srcOf (Encode.src a) = some a :=
  srcOf_src a (by cases a <;> first | rfl | exact Bool.noConfusion h)
theorem src_of_uniZ {a : Src} (h : WellFormed.uniZ a = true) : srcOf (Encode.src a) = some a :=
  srcOf_src a (by cases a <;> first | rfl | exact Bool.noConfusion h)
theorem src_of_either {a : Src} (h : WellFormed.reg a = true ∨ a = .lane) : srcOf (Encode.src a) = some a := by
  rcases h with h | h
  · exact src_of_reg h
  · rw [h]; exact srcOf_lane
theorem src_of_ssize {z : Size} {a : Src} (h : WellFormed.ssize z a = true) : srcOf (Encode.src a) = some a :=
  srcOf_src a (by cases z <;> cases a <;> first | rfl | exact Bool.noConfusion h)
theorem src_of_farC {z : FarOp} {a : Src} (h : WellFormed.farC z a = true) : srcOf (Encode.src a) = some a :=
  srcOf_src a (by cases z <;> cases a <;> first | rfl | exact Bool.noConfusion h)

theorem src_ne_imm {a : Src} (h : WellFormed.src a = true) : Encode.src a ≠ 0xFE := by
  intro e
  have k := srcOf_src a h
  rw [e, srcOf_rest _ (by decide)] at k
  revert k; simp

theorem imm_of_src {a : Src} (h : WellFormed.src a = true) : Encode.imm a = 0 := by
  cases a <;> simp_all [WellFormed.src, Encode.imm]

/-- B, or the immediate in its place (R51, R53). -/
@[simp] theorem srcB_mk (op : BitVec 8) (fn pg la fl : BitVec 4) (d a c m : BitVec 8) (b : Src) :
    Decode.srcB ⟨op, fn, pg, la, fl, d, a, Encode.src b, c, w01 m (Encode.imm b)⟩ = .ok b := by
  cases h : WellFormed.src b with
  | false =>
    cases b <;> simp_all [WellFormed.src, Decode.srcB, Encode.src, Encode.imm, Raw.immBits]
  | true =>
    rw [Decode.srcB, if_neg (src_ne_imm h)]
    simp [Raw.immBits, imm_of_src h, Decode.noImm, Decode.need, Decode.src, Decode.get, srcOf_src b h, bind, Except.bind]

/-- The source A, or the immediate with A zero (R115). -/
@[simp] theorem srcAI_mk (op : BitVec 8) (fn pg la fl : BitVec 4) (d c m : BitVec 8) (a : Src) :
    Decode.srcAI ⟨op, fn, pg, la, fl, d, Encode.aOr a, Encode.bOr a, c, w01 m (Encode.imm a)⟩ = .ok a := by
  cases h : WellFormed.src a with
  | false =>
    cases a <;> simp_all [WellFormed.src, Decode.srcAI, Encode.aOr, Encode.bOr, Encode.imm, Raw.immBits, Decode.zero8, Decode.need,
      bind, Except.bind]
  | true =>
    have ha : Encode.aOr a = Encode.src a := by cases a <;> simp_all [WellFormed.src, Encode.aOr]
    have hb : Encode.bOr a = 0 := by cases a <;> simp_all [WellFormed.src, Encode.bOr]
    rw [Decode.srcAI, ha, hb]
    simp [Raw.immBits, imm_of_src h, Decode.noImm, Decode.zero8, Decode.need, Decode.src, Decode.get, srcOf_src a h, bind, Except.bind]

theorem cvtOps_src {op : CvtOp} {d : Dst} {a : Src} (h : WellFormed.cvtOps op d a = true) : srcOf (Encode.src a) = some a := by
  cases op <;> first
    | exact src_of_pair (Bool.and_eq_true_iff.mp h).1
    | exact srcOf_src a (Bool.and_eq_true_iff.mp h).1

/-- SETSR's word gives the instruction of its register (R324). -/
theorem setsr_mk (g : Guard) (sr : SReg) (a : Src) (ha : srcOf (Encode.src a) = some a) :
    Decode.setsr ⟨0xE4, 0, Encode.guard g, 0, 0, 0, Encode.src a, 0, 0, w5 0 (Encode.sreg sr) 0 (Encode.bit1 (Decode.privSReg sr))⟩ g =
      match sr with
      | .amask => .ok (.setsrAmask g a)
      | .lpc => .ok (.setsrLpc g a)
      | x => .ok (.setsr g x a) := by
  simp only [Decode.setsr, noFn, noFl, noLa, zero8, need, Decode.get, Decode.src, Decode.f5, Raw.rest5, Raw.num, Raw.sreg, Raw.region, Raw.priv, w5_num, w5_sreg, w5_rest, w5_region, w5_priv, sregOf_sreg, ha]
  simp only [bind, Except.bind]
  cases sr <;> rfl

end Sys2Proof.Laws
end

