-- ==== Sys2Proof/Laws/PerInstr.lean ====
section
/-!
SUPPORT. Encoding, instruction by instruction: decoding gives back every well-formed instruction from its word (R46-R66). A
step of the device has no word.
-/

namespace Sys2Proof.Laws
open Sys2Proof.Encode Sys2Proof.Decode

/-- Decoding gives back a well-formed instruction from its word, and every instruction that is no step of the device has one. -/
def Encoding.Statement (i : Instr) : Prop :=
  (∀ w, encode i = some w → WellFormed.wf i = true → decode w = .ok i) ∧
  ((encode i).isSome = !WellFormed.deviceStep i)

theorem Encoding.of_parse {i : Instr} {r : Raw} (h : Encode.raw i = some r)
    (p : WellFormed.wf i = true → Decode.parse r = .ok i) (d : WellFormed.deviceStep i = false := by rfl) :
    Encoding.Statement i := by
  refine ⟨fun w hw wf => ?_, by simp [encode, h, d]⟩
  simp only [encode, h, Option.map_some, Option.some.injEq] at hw
  subst hw
  simp [decode, p wf, wf, Decode.need, bind, Except.bind]

/-- A step of the device has no word. -/
theorem Encoding.of_none {i : Instr} (h : encode i = none) (d : WellFormed.deviceStep i = true := by rfl) :
    Encoding.Statement i := by
  refine ⟨fun w hw => ?_, by simp [h, d]⟩
  rw [h] at hw
  cases hw

section

set_option Elab.async false

theorem Encoding.nop : Encoding.Statement (.nop) := by
  refine Encoding.of_parse rfl fun h => ?_
  simp only [WellFormed.wf, Bool.and_eq_true] at h
  simp_all [parse, Decode.control, Decode.bare, noLa, noFn, noFl, noW, need, bind, Except.bind, zero8, Encode.guard,
    Encode.bit1]

theorem Encoding.bra (g : Guard) (u : Bool) (slot : Fin 5) (toff : BitVec 37) : Encoding.Statement (.bra g u slot toff)
  := by
  obtain ⟨slot, hs⟩ := slot <;> (
    refine Encoding.of_parse rfl fun h => ?_
    simp only [WellFormed.wf, Bool.and_eq_true] at h
    simp_all [parse, Decode.control, noLa, noFn, need, Decode.get, Decode.flag, bind, Except.bind, zero8, Raw.tslot,
      Raw.toff, slot_mod])

theorem Encoding.brx (g : Guard) (u : Bool) (a : Src) : Encoding.Statement (.brx g u a) := by
  refine Encoding.of_parse rfl fun h => ?_
  simp only [WellFormed.wf, Bool.and_eq_true] at h
  simp_all [parse, Decode.control, noLa, noFn, noW, need, Decode.get, Decode.flag, Decode.src, bind, Except.bind, zero8]

theorem Encoding.call (g : Guard) (u : Bool) (d : Dst) (slot : Fin 5) (toff : BitVec 37) : Encoding.Statement (.call g u
  d slot toff) := by
  obtain ⟨slot, hs⟩ := slot <;> (
    refine Encoding.of_parse rfl fun h => ?_
    simp only [WellFormed.wf, Bool.and_eq_true] at h
    simp_all [parse, Decode.control, noLa, noFn, need, Decode.get, Decode.flag, Decode.dst, bind, Except.bind, zero8,
      Raw.tslot, Raw.toff, slot_mod])

theorem Encoding.ret (g : Guard) (u : Bool) (a : Src) : Encoding.Statement (.ret g u a) := by
  refine Encoding.of_parse rfl fun h => ?_
  simp only [WellFormed.wf, Bool.and_eq_true] at h
  simp_all [parse, Decode.control, noLa, noFn, noW, need, Decode.get, Decode.flag, Decode.src, bind, Except.bind, zero8]

theorem Encoding.exit (g : Guard) : Encoding.Statement (.exit g) := by
  refine Encoding.of_parse rfl fun h => ?_
  simp only [WellFormed.wf, Bool.and_eq_true] at h
  simp_all [parse, Decode.control, Decode.bare, noLa, noFn, noFl, noW, need, bind, Except.bind, zero8]

theorem Encoding.yield (g : Guard) : Encoding.Statement (.yield g) := by
  refine Encoding.of_parse rfl fun h => ?_
  simp only [WellFormed.wf, Bool.and_eq_true] at h
  simp_all [parse, Decode.control, Decode.bare, noLa, noFn, noFl, noW, need, bind, Except.bind, zero8]

theorem Encoding.poll (g : Guard) (cmp : PollCmp) (acq : Bool) (scope : Scope) (d : Dst) (l : LOp) (c : Src) :
  Encoding.Statement (.poll g cmp acq scope d l c) := by
  cases acq <;> (
    refine Encoding.of_parse rfl fun h => ?_
    simp only [WellFormed.wf, Bool.and_eq_true] at h
    simp_all [parse, Decode.control, noLa, noFl, need, Decode.get, Decode.dst, Decode.src, Decode.line, Decode.lop,
      Decode.f3, Decode.scope3, Decode.semOr, bind, Except.bind, Raw.off, Raw.scope3, Raw.sem3, Raw.rest3, srcOf_src,
      WellFormed.lop, Encode.semIf])

theorem Encoding.lwait (g : Guard) (d : Dst) (ln : Fin 16) (c : Src) : Encoding.Statement (.lwait g d ln c) := by
  refine Encoding.of_parse rfl fun h => ?_
  simp only [WellFormed.wf, Bool.and_eq_true] at h
  simp_all [parse, Decode.control, noLa, noFn, noFl, need, Decode.get, Decode.dst, Decode.src, Decode.line,
    Decode.bareLine, Decode.f3, bind, Except.bind, Raw.off, Raw.scope3, Raw.sem3, Raw.rest3, src_of_uniZ]

theorem Encoding.enrol (g : Guard) (rj : Fin 4) : Encoding.Statement (.enrol g rj) := by
  refine Encoding.of_parse rfl fun h => ?_
  simp only [WellFormed.wf, Bool.and_eq_true] at h
  simp_all [parse, Decode.control, noLa, noFn, noFl, noW, need, Decode.get, Decode.idx, bind, Except.bind, zero8,
    idxOf_idx]

theorem Encoding.park (g : Guard) (rj : Fin 4) : Encoding.Statement (.park g rj) := by
  refine Encoding.of_parse rfl fun h => ?_
  simp only [WellFormed.wf, Bool.and_eq_true] at h
  simp_all [parse, Decode.control, noLa, noFn, noFl, noW, need, Decode.get, Decode.idx, bind, Except.bind, zero8,
    idxOf_idx]

theorem Encoding.strike (g : Guard) (rj : Fin 4) : Encoding.Statement (.strike g rj) := by
  refine Encoding.of_parse rfl fun h => ?_
  simp only [WellFormed.wf, Bool.and_eq_true] at h
  simp_all [parse, Decode.control, noLa, noFn, noFl, noW, need, Decode.get, Decode.idx, bind, Except.bind, zero8,
    idxOf_idx]

theorem Encoding.brk (g : Guard) (num : BitVec 8) : Encoding.Statement (.brk g num) := by
  refine Encoding.of_parse rfl fun h => ?_
  simp only [WellFormed.wf, Bool.and_eq_true] at h
  simp_all [parse, Decode.control, noLa, noFn, noFl, need, Decode.f5, bind, Except.bind, zero8, Raw.num, Raw.sreg,
    Raw.region, Raw.priv, Raw.rest5]

theorem Encoding.iadd (g : Guard) (uns sat : Bool) (d : Dst) (a b : Src) : Encoding.Statement (.iadd g uns sat d a b) :=
  by
  refine Encoding.of_parse rfl fun h => ?_
  simp only [WellFormed.wf, Bool.and_eq_true] at h
  simp_all [parse, Decode.integer, noMod, noLa, need, Decode.dab, Decode.get, Decode.fnBit, Decode.flag, Decode.dst,
    Decode.src, bind, Except.bind, zero8, Raw.modBits, srcOf_src]

theorem Encoding.isub (g : Guard) (uns sat : Bool) (d : Dst) (a b : Src) : Encoding.Statement (.isub g uns sat d a b) :=
  by
  refine Encoding.of_parse rfl fun h => ?_
  simp only [WellFormed.wf, Bool.and_eq_true] at h
  simp_all [parse, Decode.integer, noMod, noLa, need, Decode.dab, Decode.get, Decode.fnBit, Decode.flag, Decode.dst,
    Decode.src, bind, Except.bind, zero8, Raw.modBits, srcOf_src]

theorem Encoding.imul (g : Guard) (uns sat : Bool) (d : Dst) (a b : Src) : Encoding.Statement (.imul g uns sat d a b) :=
  by
  refine Encoding.of_parse rfl fun h => ?_
  simp only [WellFormed.wf, Bool.and_eq_true] at h
  simp_all [parse, Decode.integer, noMod, noLa, need, Decode.dab, Decode.get, Decode.fnBit, Decode.flag, Decode.dst,
    Decode.src, bind, Except.bind, zero8, Raw.modBits, srcOf_src]

theorem Encoding.imulh (g : Guard) (uns : Bool) (d : Dst) (a b : Src) : Encoding.Statement (.imulh g uns d a b) := by
  refine Encoding.of_parse rfl fun h => ?_
  simp only [WellFormed.wf, Bool.and_eq_true] at h
  simp_all [parse, Decode.integer, plain, noMod, noLa, noFl, need, Decode.dab, Decode.get, Decode.fnBit, Decode.dst,
    Decode.src, bind, Except.bind, zero8, Raw.modBits, srcOf_src]

theorem Encoding.imad (g : Guard) (uns sat : Bool) (d : Dst) (a b c : Src) : Encoding.Statement (.imad g uns sat d a b
  c) := by
  refine Encoding.of_parse rfl fun h => ?_
  simp only [WellFormed.wf, Bool.and_eq_true] at h
  simp_all [parse, Decode.integer, noMod, noLa, need, Decode.dabc, Decode.get, Decode.fnBit, Decode.flag, Decode.dst,
    Decode.src, bind, Except.bind, Raw.modBits, srcOf_src]

theorem Encoding.imin (g : Guard) (uns : Bool) (d : Dst) (a b : Src) : Encoding.Statement (.imin g uns d a b) := by
  refine Encoding.of_parse rfl fun h => ?_
  simp only [WellFormed.wf, Bool.and_eq_true] at h
  simp_all [parse, Decode.integer, plain, noMod, noLa, noFl, need, Decode.dab, Decode.get, Decode.fnBit, Decode.dst,
    Decode.src, bind, Except.bind, zero8, Raw.modBits, srcOf_src]

theorem Encoding.imax (g : Guard) (uns : Bool) (d : Dst) (a b : Src) : Encoding.Statement (.imax g uns d a b) := by
  refine Encoding.of_parse rfl fun h => ?_
  simp only [WellFormed.wf, Bool.and_eq_true] at h
  simp_all [parse, Decode.integer, plain, noMod, noLa, noFl, need, Decode.dab, Decode.get, Decode.fnBit, Decode.dst,
    Decode.src, bind, Except.bind, zero8, Raw.modBits, srcOf_src]

theorem Encoding.iabs (g : Guard) (sat : Bool) (d : Dst) (a : Src) : Encoding.Statement (.iabs g sat d a) := by
  refine Encoding.of_parse rfl fun h => ?_
  simp only [WellFormed.wf, Bool.and_eq_true] at h
  simp_all [parse, Decode.integer, noMod, noLa, noFn, noImm, need, Decode.da, Decode.get, Decode.flag, Decode.dst,
    Decode.src, bind, Except.bind, zero8, Raw.modBits, Raw.immBits, srcOf_src]

theorem Encoding.iadd64 (g : Guard) (uns sat : Bool) (d : Dst) (a b : Src) : Encoding.Statement (.iadd64 g uns sat d a
  b) := by
  refine Encoding.of_parse rfl fun h => ?_
  simp only [WellFormed.wf, Bool.and_eq_true] at h
  simp_all [parse, Decode.integer, noMod, noLa, need, Decode.dab, Decode.get, Decode.fnBit, Decode.flag, Decode.dst,
    Decode.src, bind, Except.bind, zero8, Raw.modBits]

theorem Encoding.imad64 (g : Guard) (uns sat : Bool) (d : Dst) (a b c : Src) : Encoding.Statement (.imad64 g uns sat d a
  b c) := by
  refine Encoding.of_parse rfl fun h => ?_
  simp only [WellFormed.wf, Bool.and_eq_true] at h
  simp_all [parse, Decode.integer, noMod, noLa, need, Decode.dabc, Decode.get, Decode.fnBit, Decode.flag, Decode.dst,
    Decode.src, bind, Except.bind, Raw.modBits, srcOf_src]

theorem Encoding.lea (g : Guard) (zext : Bool) (sh : Fin 8) (d : Dst) (a b : Src) : Encoding.Statement (.lea g zext sh d
  a b) := by
  cases zext <;> fin_cases sh <;> (
    refine Encoding.of_parse rfl fun h => ?_
    simp only [WellFormed.wf, Bool.and_eq_true] at h
    simp_all [parse, Decode.integer, plain, noMod, noLa, noFl, need, Decode.dab, Decode.get, Decode.dst, Decode.src,
      bind, Except.bind, zero8, Raw.modBits] <;> decide)

theorem Encoding.sel (g : Guard) (d : Dst) (a b : Src) (c : Fin 8) : Encoding.Statement (.sel g d a b c) := by
  refine Encoding.of_parse rfl fun h => ?_
  simp only [WellFormed.wf, Bool.and_eq_true] at h
  simp_all [parse, Decode.integer, plain, noMod, noLa, noFn, noFl, need, Decode.get, Decode.dst, Decode.src, Decode.idx,
    bind, Except.bind, Raw.modBits, srcOf_src, idxOf_idx]

theorem Encoding.icmp (g : Guard) (rel : IRel) (d : Fin 8) (a b : Src) : Encoding.Statement (.icmp g rel d a b) := by
  refine Encoding.of_parse rfl fun h => ?_
  simp only [WellFormed.wf, Bool.and_eq_true] at h
  simp_all [parse, Decode.integer, plain, noMod, noLa, noFl, need, Decode.pab, Decode.get, Decode.src, Decode.idx, bind,
    Except.bind, zero8, Raw.modBits, srcOf_src, idxOf_idx]

theorem Encoding.idiv (g : Guard) (la : Fin 16) (uns sat : Bool) (d : Dst) (a b : Src) : Encoding.Statement (.idiv g la
  uns sat d a b) := by
  refine Encoding.of_parse rfl fun h => ?_
  simp only [WellFormed.wf, Bool.and_eq_true] at h
  simp_all [parse, Decode.integer, noMod, need, Decode.dab, Decode.get, Decode.fnBit, Decode.flag, Decode.dst,
    Decode.src, bind, Except.bind, zero8, Raw.modBits, srcOf_src]

theorem Encoding.irem (g : Guard) (la : Fin 16) (uns : Bool) (d : Dst) (a b : Src) : Encoding.Statement (.irem g la uns
  d a b) := by
  refine Encoding.of_parse rfl fun h => ?_
  simp only [WellFormed.wf, Bool.and_eq_true] at h
  simp_all [parse, Decode.integer, noMod, noFl, need, Decode.dab, Decode.get, Decode.fnBit, Decode.dst, Decode.src,
    bind, Except.bind, zero8, Raw.modBits, srcOf_src]

theorem Encoding.and (g : Guard) (d : Dst) (a b : Src) : Encoding.Statement (.and g d a b) := by
  refine Encoding.of_parse rfl fun h => ?_
  simp only [WellFormed.wf, Bool.and_eq_true] at h
  simp_all [parse, Decode.bits, plain, noMod, noLa, noFn, noFl, need, Decode.dab, Decode.get, Decode.dst, Decode.src,
    bind, Except.bind, zero8, Raw.modBits, srcOf_src]

theorem Encoding.or (g : Guard) (d : Dst) (a b : Src) : Encoding.Statement (.or g d a b) := by
  refine Encoding.of_parse rfl fun h => ?_
  simp only [WellFormed.wf, Bool.and_eq_true] at h
  simp_all [parse, Decode.bits, plain, noMod, noLa, noFn, noFl, need, Decode.dab, Decode.get, Decode.dst, Decode.src,
    bind, Except.bind, zero8, Raw.modBits, srcOf_src]

theorem Encoding.xor (g : Guard) (d : Dst) (a b : Src) : Encoding.Statement (.xor g d a b) := by
  refine Encoding.of_parse rfl fun h => ?_
  simp only [WellFormed.wf, Bool.and_eq_true] at h
  simp_all [parse, Decode.bits, plain, noMod, noLa, noFn, noFl, need, Decode.dab, Decode.get, Decode.dst, Decode.src,
    bind, Except.bind, zero8, Raw.modBits, srcOf_src]

theorem Encoding.shl (g : Guard) (d : Dst) (a b : Src) : Encoding.Statement (.shl g d a b) := by
  refine Encoding.of_parse rfl fun h => ?_
  simp only [WellFormed.wf, Bool.and_eq_true] at h
  simp_all [parse, Decode.bits, plain, noMod, noLa, noFn, noFl, need, Decode.dab, Decode.get, Decode.dst, Decode.src,
    bind, Except.bind, zero8, Raw.modBits, srcOf_src]

theorem Encoding.shr (g : Guard) (d : Dst) (a b : Src) : Encoding.Statement (.shr g d a b) := by
  refine Encoding.of_parse rfl fun h => ?_
  simp only [WellFormed.wf, Bool.and_eq_true] at h
  simp_all [parse, Decode.bits, plain, noMod, noLa, noFn, noFl, need, Decode.dab, Decode.get, Decode.dst, Decode.src,
    bind, Except.bind, zero8, Raw.modBits, srcOf_src]

theorem Encoding.sar (g : Guard) (d : Dst) (a b : Src) : Encoding.Statement (.sar g d a b) := by
  refine Encoding.of_parse rfl fun h => ?_
  simp only [WellFormed.wf, Bool.and_eq_true] at h
  simp_all [parse, Decode.bits, plain, noMod, noLa, noFn, noFl, need, Decode.dab, Decode.get, Decode.dst, Decode.src,
    bind, Except.bind, zero8, Raw.modBits, srcOf_src]

theorem Encoding.rot (g : Guard) (right : Bool) (d : Dst) (a b : Src) : Encoding.Statement (.rot g right d a b) := by
  refine Encoding.of_parse rfl fun h => ?_
  simp only [WellFormed.wf, Bool.and_eq_true] at h
  simp_all [parse, Decode.bits, plain, noMod, noLa, noFl, need, Decode.dab, Decode.get, Decode.fnBit, Decode.dst,
    Decode.src, bind, Except.bind, zero8, Raw.modBits, srcOf_src]

theorem Encoding.popc (g : Guard) (d : Dst) (a : Src) : Encoding.Statement (.popc g d a) := by
  refine Encoding.of_parse rfl fun h => ?_
  simp only [WellFormed.wf, Bool.and_eq_true] at h
  simp_all [parse, Decode.bits, plain, noMod, noLa, noFn, noFl, noImm, need, Decode.da, Decode.get, Decode.dst,
    Decode.src, bind, Except.bind, zero8, Raw.modBits, Raw.immBits, srcOf_src]

theorem Encoding.clz (g : Guard) (d : Dst) (a : Src) : Encoding.Statement (.clz g d a) := by
  refine Encoding.of_parse rfl fun h => ?_
  simp only [WellFormed.wf, Bool.and_eq_true] at h
  simp_all [parse, Decode.bits, plain, noMod, noLa, noFn, noFl, noImm, need, Decode.da, Decode.get, Decode.dst,
    Decode.src, bind, Except.bind, zero8, Raw.modBits, Raw.immBits, srcOf_src]

theorem Encoding.brev (g : Guard) (d : Dst) (a : Src) : Encoding.Statement (.brev g d a) := by
  refine Encoding.of_parse rfl fun h => ?_
  simp only [WellFormed.wf, Bool.and_eq_true] at h
  simp_all [parse, Decode.bits, plain, noMod, noLa, noFn, noFl, noImm, need, Decode.da, Decode.get, Decode.dst,
    Decode.src, bind, Except.bind, zero8, Raw.modBits, Raw.immBits, srcOf_src]

theorem Encoding.bfe (g : Guard) (uns : Bool) (d : Dst) (a b : Src) : Encoding.Statement (.bfe g uns d a b) := by
  refine Encoding.of_parse rfl fun h => ?_
  simp only [WellFormed.wf, Bool.and_eq_true] at h
  simp_all [parse, Decode.bits, plain, noMod, noLa, noFl, need, Decode.dab, Decode.get, Decode.fnBit, Decode.dst,
    Decode.src, bind, Except.bind, zero8, Raw.modBits, srcOf_src]

theorem Encoding.bfi (g : Guard) (d : Dst) (a b c : Src) : Encoding.Statement (.bfi g d a b c) := by
  refine Encoding.of_parse rfl fun h => ?_
  simp only [WellFormed.wf, Bool.and_eq_true] at h
  simp_all [parse, Decode.bits, plain, noMod, noLa, noFn, noFl, need, Decode.dabc, Decode.get, Decode.dst, Decode.src,
    bind, Except.bind, Raw.modBits, srcOf_src]

theorem Encoding.mov (g : Guard) (wide : Bool) (d : Dst) (a : Src) : Encoding.Statement (.mov g wide d a) := by
  refine Encoding.of_parse rfl fun h => ?_
  simp only [WellFormed.wf, Bool.and_eq_true] at h
  simp_all [parse, Decode.bits, plain, noMod, noLa, noFl, need, Decode.get, Decode.fnBit, Decode.dst, bind, Except.bind,
    zero8, Raw.modBits]

theorem Encoding.plop (g : Guard) (op : PlopOp) (d a b : Fin 8) : Encoding.Statement (.plop g op d a b) := by
  refine Encoding.of_parse rfl fun h => ?_
  simp only [WellFormed.wf, Bool.and_eq_true] at h
  simp_all [parse, Decode.bits, plain, noMod, noLa, noFl, noImm, need, Decode.get, Decode.idx, bind, Except.bind, zero8,
    Raw.modBits, Raw.immBits, idxOf_idx]

theorem Encoding.pmov (g : Guard) (form : PmovForm) : Encoding.Statement (.pmov g form) := by
  cases form <;> (
    refine Encoding.of_parse rfl fun h => ?_
    simp only [WellFormed.wf, Bool.and_eq_true] at h
    simp_all [parse, Decode.bits, plain, noMod, noLa, noFl, noImm, need, Decode.get, Decode.dst, Decode.idx, bind,
      Except.bind, zero8, Raw.modBits, Raw.immBits, idxOf_idx])

theorem Encoding.movsr (g : Guard) (d : Dst) (sreg : SReg) : Encoding.Statement (.movsr g d sreg) := by
  refine Encoding.of_parse rfl fun h => ?_
  simp only [WellFormed.wf, Bool.and_eq_true] at h
  simp_all [parse, Decode.bits, noLa, noFn, noFl, need, Decode.get, Decode.dst, Decode.f5, bind, Except.bind, zero8,
    Raw.num, Raw.sreg, Raw.region, Raw.priv, Raw.rest5]

theorem Encoding.vote (g : Guard) (form : VoteForm) (a : Fin 8) : Encoding.Statement (.vote g form a) := by
  cases form <;> (
    refine Encoding.of_parse rfl fun h => ?_
    simp only [WellFormed.wf, Bool.and_eq_true] at h
    simp_all [parse, Decode.group, plain, noMod, noLa, noFl, noImm, need, Decode.get, Decode.dst, Decode.idx, bind,
      Except.bind, zero8, Raw.modBits, Raw.immBits, idxOf_idx])

theorem Encoding.shfl (g : Guard) (mode : ShflMode) (d : Dst) (a b : Src) : Encoding.Statement (.shfl g mode d a b) :=
  by
  refine Encoding.of_parse rfl fun h => ?_
  simp only [WellFormed.wf, Bool.and_eq_true] at h
  simp_all [parse, Decode.group, plain, noMod, noLa, noFl, need, Decode.dab, Decode.get, Decode.dst, Decode.src, bind,
    Except.bind, zero8, Raw.modBits, src_of_reg]

theorem Encoding.redg (g : Guard) (op : RedgOp) (rm : Rm) (d : Dst) (a : Src) : Encoding.Statement (.redg g op rm d a)
  := by
  refine Encoding.of_parse rfl fun h => ?_
  simp only [WellFormed.wf, Bool.and_eq_true] at h
  simp_all [parse, Decode.group, noLa, noFl, noImm, need, Decode.da, Decode.get, Decode.dst, Decode.src, Decode.rmOnly,
    bind, Except.bind, zero8, Raw.modBits, Raw.immBits, srcOf_src]

theorem Encoding.scan (g : Guard) (op : ScanOp) (seg : Option (Fin 8)) (rm : Rm) (d : Dst) (a : Src) :
  Encoding.Statement (.scan g op seg rm d a) := by
  cases seg <;> cases op <;> (
    refine Encoding.of_parse rfl fun h => ?_
    simp only [WellFormed.wf, Bool.and_eq_true] at h
    simp_all [parse, Decode.group, noLa, noFl, noImm, need, Decode.get, Decode.dst, Decode.src, Decode.idx,
      Decode.rmOnly, bind, Except.bind, zero8, Raw.modBits, Raw.immBits, srcOf_src, idxOf_idx, Encode.scan, scanOf] <;>
      decide)

theorem Encoding.part (g : Guard) (b : Src) : Encoding.Statement (.part g b) := by
  refine Encoding.of_parse rfl fun h => ?_
  simp only [WellFormed.wf, Bool.and_eq_true] at h
  simp_all [parse, Decode.group, plain, noMod, noLa, noFn, noFl, need, bind, Except.bind, zero8, Raw.modBits]

theorem Encoding.matchLanes (g : Guard) (wide : Bool) (d : Dst) (a b : Src) : Encoding.Statement (.matchLanes g wide d a
  b) := by
  cases wide <;> (
    refine Encoding.of_parse rfl fun h => ?_
    simp only [WellFormed.wf, Bool.and_eq_true] at h
    simp_all [parse, Decode.group, plain, noMod, noLa, noFl, need, Decode.dab, Decode.get, Decode.fnBit, Decode.dst,
      Decode.src, bind, Except.bind, zero8, Raw.modBits, src_of_reg])

theorem Encoding.compact (g : Guard) (d : Dst) (a b : Src) (c : Fin 8) : Encoding.Statement (.compact g d a b c) := by
  refine Encoding.of_parse rfl fun h => ?_
  simp only [WellFormed.wf, Bool.and_eq_true] at h
  simp_all [parse, Decode.group, plain, noMod, noLa, noFn, noFl, need, Decode.get, Decode.dst, Decode.src, Decode.idx,
    bind, Except.bind, Raw.modBits, idxOf_idx, src_of_either]

theorem Encoding.regrp (g : Guard) (d : Dst) (a b : Src) : Encoding.Statement (.regrp g d a b) := by
  refine Encoding.of_parse rfl fun h => ?_
  simp only [WellFormed.wf, Bool.and_eq_true] at h
  simp_all [parse, Decode.group, plain, noMod, noLa, noFn, noFl, noImm, need, Decode.get, Decode.dst, Decode.src, bind,
    Except.bind, zero8, Raw.modBits, Raw.immBits, src_of_uni]

theorem Encoding.fadd (g : Guard) (m : FMod) (d : Dst) (a b : Src) : Encoding.Statement (.fadd g m d a b) := by
  refine Encoding.of_parse rfl fun h => ?_
  simp only [WellFormed.wf, Bool.and_eq_true] at h
  simp_all [parse, Decode.single, noLa, noFn, noFl, need, Decode.dab, Decode.get, Decode.dst, Decode.src, Decode.fmod,
    bind, Except.bind, zero8, Raw.modBits, srcOf_src]

theorem Encoding.fmul (g : Guard) (m : FMod) (d : Dst) (a b : Src) : Encoding.Statement (.fmul g m d a b) := by
  refine Encoding.of_parse rfl fun h => ?_
  simp only [WellFormed.wf, Bool.and_eq_true] at h
  simp_all [parse, Decode.single, noLa, noFn, noFl, need, Decode.dab, Decode.get, Decode.dst, Decode.src, Decode.fmod,
    bind, Except.bind, zero8, Raw.modBits, srcOf_src]

theorem Encoding.ffma (g : Guard) (m : FMod) (d : Dst) (a b c : Src) : Encoding.Statement (.ffma g m d a b c) := by
  refine Encoding.of_parse rfl fun h => ?_
  simp only [WellFormed.wf, Bool.and_eq_true] at h
  simp_all [parse, Decode.single, noLa, noFn, noFl, need, Decode.dabc, Decode.get, Decode.dst, Decode.src, Decode.fmod,
    bind, Except.bind, Raw.modBits, srcOf_src]

theorem Encoding.fmin (g : Guard) (m : FMod) (d : Dst) (a b : Src) : Encoding.Statement (.fmin g m d a b) := by
  refine Encoding.of_parse rfl fun h => ?_
  simp only [WellFormed.wf, Bool.and_eq_true] at h
  simp_all [parse, Decode.single, noLa, noFn, noFl, need, Decode.dab, Decode.get, Decode.dst, Decode.src, Decode.fmod,
    bind, Except.bind, zero8, Raw.modBits, srcOf_src]

theorem Encoding.fmax (g : Guard) (m : FMod) (d : Dst) (a b : Src) : Encoding.Statement (.fmax g m d a b) := by
  refine Encoding.of_parse rfl fun h => ?_
  simp only [WellFormed.wf, Bool.and_eq_true] at h
  simp_all [parse, Decode.single, noLa, noFn, noFl, need, Decode.dab, Decode.get, Decode.dst, Decode.src, Decode.fmod,
    bind, Except.bind, zero8, Raw.modBits, srcOf_src]

theorem Encoding.fcmp (g : Guard) (rel : FRel) (m : FMod) (d : Fin 8) (a b : Src) : Encoding.Statement (.fcmp g rel m d
  a b) := by
  refine Encoding.of_parse rfl fun h => ?_
  simp only [WellFormed.wf, Bool.and_eq_true] at h
  simp_all [parse, Decode.single, noLa, noFl, need, Decode.pab, Decode.get, Decode.src, Decode.idx, Decode.fmod, bind,
    Except.bind, zero8, Raw.modBits, srcOf_src, idxOf_idx]

theorem Encoding.frnd (g : Guard) (m : FMod) (d : Dst) (a : Src) : Encoding.Statement (.frnd g m d a) := by
  refine Encoding.of_parse rfl fun h => ?_
  simp only [WellFormed.wf, Bool.and_eq_true] at h
  simp_all [parse, Decode.single, noLa, noFn, noFl, noImm, need, Decode.da, Decode.get, Decode.dst, Decode.src,
    Decode.fmod, bind, Except.bind, zero8, Raw.modBits, Raw.immBits, srcOf_src]

theorem Encoding.hadd2 (g : Guard) (bf : Bool) (m : FMod) (d : Dst) (a b : Src) : Encoding.Statement (.hadd2 g bf m d a
  b) := by
  refine Encoding.of_parse rfl fun h => ?_
  simp only [WellFormed.wf, Bool.and_eq_true] at h
  simp_all [parse, Decode.single, noLa, noFl, need, Decode.dab, Decode.get, Decode.fnBit, Decode.dst, Decode.src,
    Decode.fmod, bind, Except.bind, zero8, Raw.modBits, srcOf_src]

theorem Encoding.hmul2 (g : Guard) (bf : Bool) (m : FMod) (d : Dst) (a b : Src) : Encoding.Statement (.hmul2 g bf m d a
  b) := by
  refine Encoding.of_parse rfl fun h => ?_
  simp only [WellFormed.wf, Bool.and_eq_true] at h
  simp_all [parse, Decode.single, noLa, noFl, need, Decode.dab, Decode.get, Decode.fnBit, Decode.dst, Decode.src,
    Decode.fmod, bind, Except.bind, zero8, Raw.modBits, srcOf_src]

theorem Encoding.hfma2 (g : Guard) (bf : Bool) (m : FMod) (d : Dst) (a b c : Src) : Encoding.Statement (.hfma2 g bf m d
  a b c) := by
  refine Encoding.of_parse rfl fun h => ?_
  simp only [WellFormed.wf, Bool.and_eq_true] at h
  simp_all [parse, Decode.single, noLa, noFl, need, Decode.dabc, Decode.get, Decode.fnBit, Decode.dst, Decode.src,
    Decode.fmod, bind, Except.bind, Raw.modBits, srcOf_src]

theorem Encoding.dadd (g : Guard) (m : FMod) (d : Dst) (a b : Src) : Encoding.Statement (.dadd g m d a b) := by
  refine Encoding.of_parse rfl fun h => ?_
  simp only [WellFormed.wf, Bool.and_eq_true] at h
  simp_all [parse, Decode.double, noLa, noFn, noFl, need, Decode.dab, Decode.get, Decode.dst, Decode.src, Decode.fmod,
    bind, Except.bind, zero8, Raw.modBits]

theorem Encoding.dmul (g : Guard) (m : FMod) (d : Dst) (a b : Src) : Encoding.Statement (.dmul g m d a b) := by
  refine Encoding.of_parse rfl fun h => ?_
  simp only [WellFormed.wf, Bool.and_eq_true] at h
  simp_all [parse, Decode.double, noLa, noFn, noFl, need, Decode.dab, Decode.get, Decode.dst, Decode.src, Decode.fmod,
    bind, Except.bind, zero8, Raw.modBits]

theorem Encoding.dfma (g : Guard) (m : FMod) (d : Dst) (a b c : Src) : Encoding.Statement (.dfma g m d a b c) := by
  refine Encoding.of_parse rfl fun h => ?_
  simp only [WellFormed.wf, Bool.and_eq_true] at h
  simp_all [parse, Decode.double, noLa, noFn, noFl, need, Decode.dabc, Decode.get, Decode.dst, Decode.src, Decode.fmod,
    bind, Except.bind, Raw.modBits]

theorem Encoding.dmin (g : Guard) (m : FMod) (d : Dst) (a b : Src) : Encoding.Statement (.dmin g m d a b) := by
  refine Encoding.of_parse rfl fun h => ?_
  simp only [WellFormed.wf, Bool.and_eq_true] at h
  simp_all [parse, Decode.double, noLa, noFn, noFl, need, Decode.dab, Decode.get, Decode.dst, Decode.src, Decode.fmod,
    bind, Except.bind, zero8, Raw.modBits]

theorem Encoding.dmax (g : Guard) (m : FMod) (d : Dst) (a b : Src) : Encoding.Statement (.dmax g m d a b) := by
  refine Encoding.of_parse rfl fun h => ?_
  simp only [WellFormed.wf, Bool.and_eq_true] at h
  simp_all [parse, Decode.double, noLa, noFn, noFl, need, Decode.dab, Decode.get, Decode.dst, Decode.src, Decode.fmod,
    bind, Except.bind, zero8, Raw.modBits]

theorem Encoding.dcmp (g : Guard) (rel : FRel) (m : FMod) (d : Fin 8) (a b : Src) : Encoding.Statement (.dcmp g rel m d
  a b) := by
  refine Encoding.of_parse rfl fun h => ?_
  simp only [WellFormed.wf, Bool.and_eq_true] at h
  simp_all [parse, Decode.double, noLa, noFl, need, Decode.pab, Decode.get, Decode.src, Decode.idx, Decode.fmod, bind,
    Except.bind, zero8, Raw.modBits, idxOf_idx]

theorem Encoding.fcvt (g : Guard) (op : CvtOp) (m : FMod) (d : Dst) (a : Src) : Encoding.Statement (.fcvt g op m d a) :=
  by
  refine Encoding.of_parse rfl fun h => ?_
  simp only [WellFormed.wf, Bool.and_eq_true] at h
  have hs := cvtOps_src h.2
  clear h
  simp_all [parse, Decode.double, noFl, noLa, need, Decode.da, Decode.get, Decode.dst, Decode.src, Decode.fmod, noImm,
    zero8, Raw.modBits, Raw.immBits, bind, Except.bind]

theorem Encoding.rcp (g : Guard) (la : Fin 16) (neg abs : Bool) (d : Dst) (a : Src) : Encoding.Statement (.rcp g la neg
  abs d a) := by
  refine Encoding.of_parse rfl fun h => ?_
  simp only [WellFormed.wf, Bool.and_eq_true] at h
  simp_all [parse, Decode.special, noFn, noFl, noImm, need, Decode.da, Decode.get, Decode.dst, Decode.src, Decode.sfu,
    bind, Except.bind, zero8, Raw.immBits, srcOf_src, WellFormed.sfu]

theorem Encoding.rsq (g : Guard) (la : Fin 16) (neg abs : Bool) (d : Dst) (a : Src) : Encoding.Statement (.rsq g la neg
  abs d a) := by
  refine Encoding.of_parse rfl fun h => ?_
  simp only [WellFormed.wf, Bool.and_eq_true] at h
  simp_all [parse, Decode.special, noFn, noFl, noImm, need, Decode.da, Decode.get, Decode.dst, Decode.src, Decode.sfu,
    bind, Except.bind, zero8, Raw.immBits, srcOf_src, WellFormed.sfu]

theorem Encoding.sqrt (g : Guard) (la : Fin 16) (neg abs : Bool) (d : Dst) (a : Src) : Encoding.Statement (.sqrt g la
  neg abs d a) := by
  refine Encoding.of_parse rfl fun h => ?_
  simp only [WellFormed.wf, Bool.and_eq_true] at h
  simp_all [parse, Decode.special, noFn, noFl, noImm, need, Decode.da, Decode.get, Decode.dst, Decode.src, Decode.sfu,
    bind, Except.bind, zero8, Raw.immBits, srcOf_src, WellFormed.sfu]

theorem Encoding.ex2 (g : Guard) (la : Fin 16) (neg abs : Bool) (d : Dst) (a : Src) : Encoding.Statement (.ex2 g la neg
  abs d a) := by
  refine Encoding.of_parse rfl fun h => ?_
  simp only [WellFormed.wf, Bool.and_eq_true] at h
  simp_all [parse, Decode.special, noFn, noFl, noImm, need, Decode.da, Decode.get, Decode.dst, Decode.src, Decode.sfu,
    bind, Except.bind, zero8, Raw.immBits, srcOf_src, WellFormed.sfu]

theorem Encoding.lg2 (g : Guard) (la : Fin 16) (neg abs : Bool) (d : Dst) (a : Src) : Encoding.Statement (.lg2 g la neg
  abs d a) := by
  refine Encoding.of_parse rfl fun h => ?_
  simp only [WellFormed.wf, Bool.and_eq_true] at h
  simp_all [parse, Decode.special, noFn, noFl, noImm, need, Decode.da, Decode.get, Decode.dst, Decode.src, Decode.sfu,
    bind, Except.bind, zero8, Raw.immBits, srcOf_src, WellFormed.sfu]

theorem Encoding.sin (g : Guard) (la : Fin 16) (neg abs : Bool) (d : Dst) (a : Src) : Encoding.Statement (.sin g la neg
  abs d a) := by
  refine Encoding.of_parse rfl fun h => ?_
  simp only [WellFormed.wf, Bool.and_eq_true] at h
  simp_all [parse, Decode.special, noFn, noFl, noImm, need, Decode.da, Decode.get, Decode.dst, Decode.src, Decode.sfu,
    bind, Except.bind, zero8, Raw.immBits, srcOf_src, WellFormed.sfu]

theorem Encoding.cos (g : Guard) (la : Fin 16) (neg abs : Bool) (d : Dst) (a : Src) : Encoding.Statement (.cos g la neg
  abs d a) := by
  refine Encoding.of_parse rfl fun h => ?_
  simp only [WellFormed.wf, Bool.and_eq_true] at h
  simp_all [parse, Decode.special, noFn, noFl, noImm, need, Decode.da, Decode.get, Decode.dst, Decode.src, Decode.sfu,
    bind, Except.bind, zero8, Raw.immBits, srcOf_src, WellFormed.sfu]

theorem Encoding.tanh (g : Guard) (la : Fin 16) (neg abs : Bool) (d : Dst) (a : Src) : Encoding.Statement (.tanh g la
  neg abs d a) := by
  refine Encoding.of_parse rfl fun h => ?_
  simp only [WellFormed.wf, Bool.and_eq_true] at h
  simp_all [parse, Decode.special, noFn, noFl, noImm, need, Decode.da, Decode.get, Decode.dst, Decode.src, Decode.sfu,
    bind, Except.bind, zero8, Raw.immBits, srcOf_src, WellFormed.sfu]

theorem Encoding.tblev (g : Guard) (la : Fin 16) (d : Dst) (a b c : Src) : Encoding.Statement (.tblev g la d a b c) :=
  by
  refine Encoding.of_parse rfl fun h => ?_
  simp only [WellFormed.wf, Bool.and_eq_true] at h
  simp_all [parse, Decode.special, noMod, noFn, noFl, noImm, need, Decode.get, Decode.dst, Decode.src, bind,
    Except.bind, Raw.modBits, Raw.immBits, srcOf_src]

theorem Encoding.tblsw (g : Guard) : Encoding.Statement (.tblsw g) := by
  refine Encoding.of_parse rfl fun h => ?_
  simp only [WellFormed.wf, Bool.and_eq_true] at h
  simp_all [parse, Decode.special, Decode.bare, noLa, noFn, noFl, noW, need, bind, Except.bind, zero8]

theorem Encoding.drcp (g : Guard) (la : Fin 16) (neg abs : Bool) (d : Dst) (a : Src) : Encoding.Statement (.drcp g la
  neg abs d a) := by
  refine Encoding.of_parse rfl fun h => ?_
  simp only [WellFormed.wf, Bool.and_eq_true] at h
  simp_all [parse, Decode.special, noFn, noFl, noImm, need, Decode.da, Decode.get, Decode.dst, Decode.src, Decode.sfu,
    bind, Except.bind, zero8, Raw.immBits, WellFormed.sfu64]

theorem Encoding.dsqrt (g : Guard) (la : Fin 16) (neg abs : Bool) (d : Dst) (a : Src) : Encoding.Statement (.dsqrt g la
  neg abs d a) := by
  refine Encoding.of_parse rfl fun h => ?_
  simp only [WellFormed.wf, Bool.and_eq_true] at h
  simp_all [parse, Decode.special, noFn, noFl, noImm, need, Decode.da, Decode.get, Decode.dst, Decode.src, Decode.sfu,
    bind, Except.bind, zero8, Raw.immBits, WellFormed.sfu64]

theorem Encoding.qnt (g : Guard) (clamp : Bool) (rm : Rm) (d : Dst) (a b : Src) (tid : BitVec 12) : Encoding.Statement
  (.qnt g clamp rm d a b tid) := by
  refine Encoding.of_parse rfl fun h => ?_
  simp only [WellFormed.wf, Bool.and_eq_true] at h
  simp_all [parse, Decode.narrow, noLa, noFl, need, Decode.get, Decode.fnBit, Decode.dst, Decode.src, Decode.f4,
    Decode.rm4, bind, Except.bind, zero8, Raw.tid, Raw.tag, Raw.pathA, Raw.pathB, Raw.scope4, Raw.rm4, Raw.rest4,
    srcOf_src]

theorem Encoding.dqnt (g : Guard) (d : Dst) (a b : Src) (tid : BitVec 12) : Encoding.Statement (.dqnt g d a b tid) := by
  refine Encoding.of_parse rfl fun h => ?_
  simp only [WellFormed.wf, Bool.and_eq_true] at h
  simp_all [parse, Decode.narrow, noLa, noFn, noFl, need, Decode.get, Decode.dst, Decode.src, Decode.f4, bind,
    Except.bind, zero8, Raw.tid, Raw.tag, Raw.pathA, Raw.pathB, Raw.scope4, Raw.rm4, Raw.rest4, srcOf_src]

theorem Encoding.bscale (g : Guard) (d : Dst) (a b : Src) (tid : BitVec 12) : Encoding.Statement (.bscale g d a b tid)
  := by
  refine Encoding.of_parse rfl fun h => ?_
  simp only [WellFormed.wf, Bool.and_eq_true] at h
  simp_all [parse, Decode.narrow, noLa, noFn, noFl, need, Decode.get, Decode.dst, Decode.src, Decode.f4, bind,
    Except.bind, zero8, Raw.tid, Raw.tag, Raw.pathA, Raw.pathB, Raw.scope4, Raw.rm4, Raw.rest4, src_of_either]

theorem Encoding.cvtf (g : Guard) (src : Bool) (rm : Rm) (d : Dst) (a : Src) (tid : BitVec 12) : Encoding.Statement
  (.cvtf g src rm d a tid) := by
  refine Encoding.of_parse rfl fun h => ?_
  simp only [WellFormed.wf, Bool.and_eq_true] at h
  simp_all [parse, Decode.narrow, noLa, noFl, need, Decode.get, Decode.fnBit, Decode.dst, Decode.src, Decode.f4,
    Decode.rm4, bind, Except.bind, zero8, Raw.tid, Raw.tag, Raw.pathA, Raw.pathB, Raw.scope4, Raw.rm4, Raw.rest4,
    srcOf_src]

theorem Encoding.pack6 (g : Guard) (d : Dst) (a : Src) : Encoding.Statement (.pack6 g d a) := by
  refine Encoding.of_parse rfl fun h => ?_
  simp only [WellFormed.wf, Bool.and_eq_true] at h
  simp_all [parse, Decode.narrow, plain, noMod, noLa, noFn, noFl, noImm, need, Decode.da, Decode.get, Decode.dst,
    Decode.src, bind, Except.bind, zero8, Raw.modBits, Raw.immBits, src_of_reg]

theorem Encoding.unpk6 (g : Guard) (sgn : Bool) (d : Dst) (a : Src) : Encoding.Statement (.unpk6 g sgn d a) := by
  refine Encoding.of_parse rfl fun h => ?_
  simp only [WellFormed.wf, Bool.and_eq_true] at h
  simp_all [parse, Decode.narrow, plain, noMod, noLa, noFl, noImm, need, Decode.da, Decode.get, Decode.fnBit,
    Decode.dst, Decode.src, bind, Except.bind, zero8, Raw.modBits, Raw.immBits, src_of_reg]

theorem Encoding.pack4 (g : Guard) (d : Dst) (a : Src) : Encoding.Statement (.pack4 g d a) := by
  refine Encoding.of_parse rfl fun h => ?_
  simp only [WellFormed.wf, Bool.and_eq_true] at h
  simp_all [parse, Decode.narrow, plain, noMod, noLa, noFn, noFl, noImm, need, Decode.da, Decode.get, Decode.dst,
    Decode.src, bind, Except.bind, zero8, Raw.modBits, Raw.immBits, src_of_reg]

theorem Encoding.unpk4 (g : Guard) (sgn : Bool) (d : Dst) (a : Src) : Encoding.Statement (.unpk4 g sgn d a) := by
  refine Encoding.of_parse rfl fun h => ?_
  simp only [WellFormed.wf, Bool.and_eq_true] at h
  simp_all [parse, Decode.narrow, plain, noMod, noLa, noFl, noImm, need, Decode.da, Decode.get, Decode.fnBit,
    Decode.dst, Decode.src, bind, Except.bind, zero8, Raw.modBits, Raw.immBits, src_of_reg]

theorem Encoding.smooth (g : Guard) (d : Dst) (a b : Src) (tid : BitVec 12) : Encoding.Statement (.smooth g d a b tid)
  := by
  refine Encoding.of_parse rfl fun h => ?_
  simp only [WellFormed.wf, Bool.and_eq_true] at h
  simp_all [parse, Decode.narrow, noLa, noFn, noFl, need, Decode.get, Decode.dst, Decode.src, Decode.f4, bind,
    Except.bind, zero8, Raw.tid, Raw.tag, Raw.pathA, Raw.pathB, Raw.scope4, Raw.rm4, Raw.rest4, srcOf_src,
    src_of_either]

theorem Encoding.openLine (g : Guard) (mode : OpenMode) (u : Bool) (d : Fin 8) (l : LOp) (c : Src) : Encoding.Statement
  (.openLine g mode u d l c) := by
  cases mode <;> (
    refine Encoding.of_parse rfl fun h => ?_
    simp only [WellFormed.wf, Bool.and_eq_true] at h
    simp_all [parse, Decode.lineMem, noLa, need, Decode.get, Decode.flag, Decode.src, Decode.idx, Decode.line,
      Decode.lop, Decode.f3, Decode.opening, bind, Except.bind, Raw.off, Raw.scope3, Raw.sem3, Raw.rest3, srcOf_src,
      idxOf_idx, WellFormed.lop])

theorem Encoding.openReopen (g : Guard) (ln : Fin 16) : Encoding.Statement (.openReopen g ln) := by
  refine Encoding.of_parse rfl fun h => ?_
  simp only [WellFormed.wf, Bool.and_eq_true] at h
  simp_all [parse, Decode.lineMem, noLa, noFl, need, Decode.get, Decode.line, Decode.bareLine, Decode.f3,
    Decode.opening, bind, Except.bind, zero8, Raw.off, Raw.scope3, Raw.sem3, Raw.rest3]

theorem Encoding.opens (g : Guard) (u : Bool) (d : Fin 8) (l : LOp) : Encoding.Statement (.opens g u d l) := by
  refine Encoding.of_parse rfl fun h => ?_
  simp only [WellFormed.wf, Bool.and_eq_true] at h
  simp_all [parse, Decode.lineMem, noLa, noFn, need, Decode.get, Decode.flag, Decode.src, Decode.idx, Decode.line,
    Decode.lop, Decode.f3, bind, Except.bind, zero8, Raw.off, Raw.scope3, Raw.sem3, Raw.rest3, srcOf_src, idxOf_idx,
    WellFormed.lop]

theorem Encoding.close (g : Guard) (ln : Fin 16) : Encoding.Statement (.close g ln) := by
  refine Encoding.of_parse rfl fun h => ?_
  simp only [WellFormed.wf, Bool.and_eq_true] at h
  simp_all [parse, Decode.lineMem, noLa, noFn, noFl, need, Decode.get, Decode.line, Decode.bareLine, Decode.f3, bind,
    Except.bind, zero8, Raw.off, Raw.scope3, Raw.sem3, Raw.rest3]

theorem Encoding.flush (g : Guard) (ln : Fin 16) : Encoding.Statement (.flush g ln) := by
  refine Encoding.of_parse rfl fun h => ?_
  simp only [WellFormed.wf, Bool.and_eq_true] at h
  simp_all [parse, Decode.lineMem, noLa, noFn, noFl, need, Decode.get, Decode.line, Decode.bareLine, Decode.f3, bind,
    Except.bind, zero8, Raw.off, Raw.scope3, Raw.sem3, Raw.rest3]

theorem Encoding.ld (g : Guard) (la : Fin 16) (size : Size) (acq : Bool) (scope : Scope) (d : Dst) (l : LOp) :
  Encoding.Statement (.ld g la size acq scope d l) := by
  cases acq <;> (
    refine Encoding.of_parse rfl fun h => ?_
    simp only [WellFormed.wf, Bool.and_eq_true] at h
    simp_all [parse, Decode.lineMem, noFl, need, Decode.get, Decode.dst, Decode.src, Decode.line, Decode.lop, Decode.f3,
      Decode.scope3, Decode.semOr, bind, Except.bind, zero8, Raw.off, Raw.scope3, Raw.sem3, Raw.rest3, srcOf_src,
      WellFormed.lop, Encode.semIf])

theorem Encoding.st (g : Guard) (size : Size) (rel : Bool) (scope : Scope) (l : LOp) (c : Src) : Encoding.Statement (.st
  g size rel scope l c) := by
  cases rel <;> (
    refine Encoding.of_parse rfl fun h => ?_
    simp only [WellFormed.wf, Bool.and_eq_true] at h
    have hc := src_of_ssize h.1.2
    simp_all [parse, Decode.lineMem, noLa, noFl, need, Decode.get, Decode.src, Decode.line, Decode.lop, Decode.f3,
      Decode.scope3, Decode.semOr, bind, Except.bind, zero8, Raw.off, Raw.scope3, Raw.sem3, Raw.rest3, srcOf_src,
      WellFormed.lop, Encode.semIf])

theorem Encoding.linfo (g : Guard) (la : Fin 16) (d : Dst) (ln : Fin 16) : Encoding.Statement (.linfo g la d ln) := by
  refine Encoding.of_parse rfl fun h => ?_
  simp only [WellFormed.wf, Bool.and_eq_true] at h
  simp_all [parse, Decode.lineMem, noFn, noFl, need, Decode.get, Decode.dst, Decode.line, Decode.bareLine, Decode.f3,
    bind, Except.bind, zero8, Raw.off, Raw.scope3, Raw.sem3, Raw.rest3]

theorem Encoding.llk (g : Guard) (la : Fin 16) (wide : Bool) (d : Dst) (l : LOp) : Encoding.Statement (.llk g la wide d
  l) := by
  cases wide <;> (
    refine Encoding.of_parse rfl fun h => ?_
    simp only [WellFormed.wf, Bool.and_eq_true] at h
    simp_all [parse, Decode.lineMem, noFl, need, Decode.get, Decode.dst, Decode.src, Decode.line, Decode.lop, Decode.f3,
      Decode.wordOrDouble, bind, Except.bind, zero8, Raw.off, Raw.scope3, Raw.sem3, Raw.rest3, srcOf_src,
      WellFormed.lop])

theorem Encoding.sul (g : Guard) (wide : Bool) (l : LOp) (c : Src) : Encoding.Statement (.sul g wide l c) := by
  cases wide <;> (
    refine Encoding.of_parse rfl fun h => ?_
    simp only [WellFormed.wf, Bool.and_eq_true] at h
    simp_all [parse, Decode.lineMem, noLa, noFl, need, Decode.get, Decode.src, Decode.line, Decode.lop, Decode.f3,
      Decode.wordOrDouble, bind, Except.bind, zero8, Raw.off, Raw.scope3, Raw.sem3, Raw.rest3, srcOf_src,
      WellFormed.lop])

theorem Encoding.amo (g : Guard) (la : Fin 16) (op : FarOp) (sem : Sem) (scope : Scope) (d : Dst) (a : AOp) (c : Src) :
  Encoding.Statement (.amo g la op sem scope d a c) := by
  refine Encoding.of_parse rfl fun h => ?_
  simp only [WellFormed.wf, Bool.and_eq_true] at h
  have hc := src_of_farC h.2
  simp_all [parse, Decode.lineMem, noFl, need, Decode.get, Decode.dst, Decode.src, Decode.aop, Decode.f3, Decode.scope3,
    bind, Except.bind, Raw.off, Raw.scope3, Raw.sem3, Raw.rest3, srcOf_src, WellFormed.aop]

theorem Encoding.red (g : Guard) (op : FarOp) (rel : Bool) (scope : Scope) (a : AOp) (c : Src) : Encoding.Statement
  (.red g op rel scope a c) := by
  cases rel <;> (
    refine Encoding.of_parse rfl fun h => ?_
    simp only [WellFormed.wf, Bool.and_eq_true] at h
    have hc := src_of_farC h.2
    simp_all [parse, Decode.lineMem, noLa, noFl, need, Decode.get, Decode.src, Decode.aop, Decode.f3, Decode.scope3,
      Decode.semOr, bind, Except.bind, zero8, Raw.off, Raw.scope3, Raw.sem3, Raw.rest3, srcOf_src, WellFormed.aop,
      Encode.semIf])

theorem Encoding.scat (g : Guard) (op : FarOp) (rel : Bool) (scope : Scope) (a : AOp) (c : Src) : Encoding.Statement
  (.scat g op rel scope a c) := by
  cases rel <;> (
    refine Encoding.of_parse rfl fun h => ?_
    simp only [WellFormed.wf, Bool.and_eq_true] at h
    have hc := src_of_farC h.2
    simp_all [parse, Decode.lineMem, noLa, noFl, need, Decode.get, Decode.src, Decode.aop, Decode.f3, Decode.scope3,
      Decode.semOr, bind, Except.bind, zero8, Raw.off, Raw.scope3, Raw.sem3, Raw.rest3, srcOf_src, WellFormed.aop,
      Encode.semIf])

theorem Encoding.cmcast (g : Guard) (at_ : Option (Fin 32)) (l : LOp) (c : Src) : Encoding.Statement (.cmcast g at_ l c)
  := by
  cases at_ <;> (
    refine Encoding.of_parse rfl fun h => ?_
    simp only [WellFormed.wf, Bool.and_eq_true] at h
    simp_all [parse, Decode.lineMem, noLa, noFl, need, Decode.get, Decode.fnBit, Decode.src, Decode.line, Decode.lop,
      Decode.f3, bind, Except.bind, zero8, Raw.off, Raw.scope3, Raw.sem3, Raw.rest3, srcOf_src, WellFormed.lop])

theorem Encoding.mst (g : Guard) (size : Size) (rel : Bool) (scope : Scope) (l : LOp) (c : Src) : Encoding.Statement
  (.mst g size rel scope l c) := by
  cases rel <;> (
    refine Encoding.of_parse rfl fun h => ?_
    simp only [WellFormed.wf, Bool.and_eq_true] at h
    have hc := src_of_ssize h.1.2
    simp_all [parse, Decode.lineMem, noLa, noFl, need, Decode.get, Decode.src, Decode.line, Decode.lop, Decode.f3,
      Decode.scope3, Decode.semOr, bind, Except.bind, zero8, Raw.off, Raw.scope3, Raw.sem3, Raw.rest3, srcOf_src,
      WellFormed.lop, Encode.semIf])

theorem Encoding.fence (g : Guard) (sem : FenceSem) (path : Path) (scope : Scope) : Encoding.Statement (.fence g sem
  path scope) := by
  refine Encoding.of_parse rfl fun h => ?_
  simp only [WellFormed.wf, Bool.and_eq_true] at h
  simp_all [parse, Decode.ordering, noLa, noFl, need, Decode.get, Decode.f4, Decode.scope4, bind, Except.bind, zero8,
    Raw.tid, Raw.tag, Raw.pathA, Raw.pathB, Raw.scope4, Raw.rm4, Raw.rest4]

theorem Encoding.xfence (g : Guard) (pa pb : Path) (scope : Scope) : Encoding.Statement (.xfence g pa pb scope) := by
  refine Encoding.of_parse rfl fun h => ?_
  simp only [WellFormed.wf, Bool.and_eq_true] at h
  simp_all [parse, Decode.ordering, noLa, noFn, noFl, need, Decode.get, Decode.f4, Decode.scope4, bind, Except.bind,
    zero8, Raw.tid, Raw.tag, Raw.pathA, Raw.pathB, Raw.scope4, Raw.rm4, Raw.rest4]

theorem Encoding.afence (g : Guard) : Encoding.Statement (.afence g) := by
  refine Encoding.of_parse rfl fun h => ?_
  simp only [WellFormed.wf, Bool.and_eq_true] at h
  simp_all [parse, Decode.ordering, Decode.bare, noLa, noFn, noFl, noW, need, bind, Except.bind, zero8]

theorem Encoding.bar (g : Guard) (scope : Scope) : Encoding.Statement (.bar g scope) := by
  refine Encoding.of_parse rfl fun h => ?_
  simp only [WellFormed.wf, Bool.and_eq_true] at h
  simp_all [parse, Decode.ordering, noLa, noFn, noFl, need, Decode.get, Decode.f4, Decode.scope4, bind, Except.bind,
    zero8, Raw.tid, Raw.tag, Raw.pathA, Raw.pathB, Raw.scope4, Raw.rm4, Raw.rest4]

theorem Encoding.bara (g : Guard) (op : BarOp) (scope : Scope) (a : Src) : Encoding.Statement (.bara g op scope a) := by
  cases op <;> (
    refine Encoding.of_parse rfl fun h => ?_
    simp only [WellFormed.wf, Bool.and_eq_true] at h
    simp_all [parse, Decode.ordering, noLa, noFl, need, Decode.get, Decode.src, Decode.f4, Decode.scope4, bind,
      Except.bind, zero8, Raw.tid, Raw.tag, Raw.pathA, Raw.pathB, Raw.scope4, Raw.rm4, Raw.rest4, srcOf_src (Src.v 0)
      rfl])

theorem Encoding.barw (g : Guard) (scope : Scope) (d : Dst) : Encoding.Statement (.barw g scope d) := by
  refine Encoding.of_parse rfl fun h => ?_
  simp only [WellFormed.wf, Bool.and_eq_true] at h
  simp_all [parse, Decode.ordering, noLa, noFn, noFl, need, Decode.get, Decode.dst, Decode.f4, Decode.scope4, bind,
    Except.bind, zero8, Raw.tid, Raw.tag, Raw.pathA, Raw.pathB, Raw.scope4, Raw.rm4, Raw.rest4]

theorem Encoding.sbinit (g : Guard) (l : LOp) (c : Src) : Encoding.Statement (.sbinit g l c) := by
  refine Encoding.of_parse rfl fun h => ?_
  simp only [WellFormed.wf, Bool.and_eq_true] at h
  simp_all [parse, Decode.ordering, noLa, noFn, noFl, need, Decode.get, Decode.src, Decode.line, Decode.lop, Decode.f3,
    bind, Except.bind, zero8, Raw.off, Raw.scope3, Raw.sem3, Raw.rest3, srcOf_src, WellFormed.lop]

theorem Encoding.sbexp (g : Guard) (l : LOp) (c : Src) : Encoding.Statement (.sbexp g l c) := by
  refine Encoding.of_parse rfl fun h => ?_
  simp only [WellFormed.wf, Bool.and_eq_true] at h
  simp_all [parse, Decode.ordering, noLa, noFn, noFl, need, Decode.get, Decode.src, Decode.line, Decode.lop, Decode.f3,
    bind, Except.bind, zero8, Raw.off, Raw.scope3, Raw.sem3, Raw.rest3, srcOf_src, WellFormed.lop]

theorem Encoding.sbarv (g : Guard) (l : LOp) (c : Src) : Encoding.Statement (.sbarv g l c) := by
  refine Encoding.of_parse rfl fun h => ?_
  simp only [WellFormed.wf, Bool.and_eq_true] at h
  simp_all [parse, Decode.ordering, noLa, noFn, noFl, need, Decode.get, Decode.src, Decode.line, Decode.lop, Decode.f3,
    bind, Except.bind, zero8, Raw.off, Raw.scope3, Raw.sem3, Raw.rest3, srcOf_src, WellFormed.lop]

theorem Encoding.sbwait (g : Guard) (d : Dst) (l : LOp) (c : Src) : Encoding.Statement (.sbwait g d l c) := by
  refine Encoding.of_parse rfl fun h => ?_
  simp only [WellFormed.wf, Bool.and_eq_true] at h
  simp_all [parse, Decode.ordering, noLa, noFn, noFl, need, Decode.get, Decode.dst, Decode.src, Decode.line, Decode.lop,
    Decode.f3, bind, Except.bind, Raw.off, Raw.scope3, Raw.sem3, Raw.rest3, srcOf_src, WellFormed.lop]

theorem Encoding.cjoin (g : Guard) (d : Dst) (a b : Src) : Encoding.Statement (.cjoin g d a b) := by
  refine Encoding.of_parse rfl fun h => ?_
  simp only [WellFormed.wf, Bool.and_eq_true] at h
  simp_all [parse, Decode.ordering, noLa, noFn, noFl, noW, need, Decode.get, Decode.dst, Decode.src, bind, Except.bind,
    zero8, srcOf_src]

theorem Encoding.cleave (g : Guard) : Encoding.Statement (.cleave g) := by
  refine Encoding.of_parse rfl fun h => ?_
  simp only [WellFormed.wf, Bool.and_eq_true] at h
  simp_all [parse, Decode.ordering, Decode.bare, noLa, noFn, noFl, noW, need, bind, Except.bind, zero8]

theorem Encoding.cpy (g : Guard) (toGlobal : Bool) (tag : Fin 8) (a b c : Src) : Encoding.Statement (.cpy g toGlobal tag
  a b c) := by
  refine Encoding.of_parse rfl fun h => ?_
  simp only [WellFormed.wf, Bool.and_eq_true] at h
  simp_all [parse, Decode.engine, noLa, noFl, need, Decode.get, Decode.fnBit, Decode.src, Decode.f4, bind, Except.bind,
    zero8, Raw.tid, Raw.tag, Raw.pathA, Raw.pathB, Raw.scope4, Raw.rm4, Raw.rest4, srcOf_src]

theorem Encoding.cpwait (g : Guard) (tag : Fin 8) : Encoding.Statement (.cpwait g tag) := by
  refine Encoding.of_parse rfl fun h => ?_
  simp only [WellFormed.wf, Bool.and_eq_true] at h
  simp_all [parse, Decode.engine, noLa, noFn, noFl, need, Decode.f4, bind, Except.bind, zero8, Raw.tid, Raw.tag,
    Raw.pathA, Raw.pathB, Raw.scope4, Raw.rm4, Raw.rest4]

theorem Encoding.kick (g : Guard) (d : Dst) (a c : Src) : Encoding.Statement (.kick g d a c) := by
  refine Encoding.of_parse rfl fun h => ?_
  simp only [WellFormed.wf, Bool.and_eq_true] at h
  simp_all [parse, Decode.engine, noLa, noFn, noFl, need, Decode.get, Decode.dst, Decode.src, Decode.f4, bind,
    Except.bind, zero8, Raw.tid, Raw.tag, Raw.pathA, Raw.pathB, Raw.scope4, Raw.rm4, Raw.rest4, srcOf_src]

theorem Encoding.gthr (g : Guard) (d : Dst) (a b c : Src) (tid : BitVec 12) : Encoding.Statement (.gthr g d a b c tid)
  := by
  refine Encoding.of_parse rfl fun h => ?_
  simp only [WellFormed.wf, Bool.and_eq_true] at h
  simp_all [parse, Decode.engine, noLa, noFn, noFl, need, Decode.get, Decode.dst, Decode.src, Decode.f4, bind,
    Except.bind, Raw.tid, Raw.tag, Raw.pathA, Raw.pathB, Raw.scope4, Raw.rm4, Raw.rest4, srcOf_src]

theorem Encoding.emb (g : Guard) (d : Dst) (a : Src) (tid : BitVec 12) : Encoding.Statement (.emb g d a tid) := by
  refine Encoding.of_parse rfl fun h => ?_
  simp only [WellFormed.wf, Bool.and_eq_true] at h
  simp_all [parse, Decode.engine, noLa, noFn, noFl, need, Decode.get, Decode.dst, Decode.src, Decode.f4, bind,
    Except.bind, zero8, Raw.tid, Raw.tag, Raw.pathA, Raw.pathB, Raw.scope4, Raw.rm4, Raw.rest4, srcOf_src]

theorem Encoding.cpstBt (g : Guard) (la : Fin 16) (tag : Fin 8) (d : Dst) : Encoding.Statement (.cpstBt g la tag d) :=
  by
  refine Encoding.of_parse rfl fun h => ?_
  simp only [WellFormed.wf, Bool.and_eq_true] at h
  simp_all [parse, Decode.engine, noFl, need, Decode.get, Decode.dst, Decode.f4, bind, Except.bind, zero8, Raw.tid,
    Raw.tag, Raw.pathA, Raw.pathB, Raw.scope4, Raw.rm4, Raw.rest4]

theorem Encoding.cpstTkt (g : Guard) (la : Fin 16) (d : Dst) (a : Src) : Encoding.Statement (.cpstTkt g la d a) := by
  refine Encoding.of_parse rfl fun h => ?_
  simp only [WellFormed.wf, Bool.and_eq_true] at h
  simp_all [parse, Decode.engine, noFl, need, Decode.get, Decode.dst, Decode.src, Decode.f4, bind, Except.bind, zero8,
    Raw.tid, Raw.tag, Raw.pathA, Raw.pathB, Raw.scope4, Raw.rm4, Raw.rest4, srcOf_src]

theorem Encoding.mma (g : Guard) (la : Fin 16) (r : Bool) (cv : Fin 4) (d : Fin 8) (a : Fin 192) (b c : Fin 32) (tid :
  BitVec 12) : Encoding.Statement (.mma g la r cv d a b c tid) := by
  fin_cases cv <;> (
    refine Encoding.of_parse rfl fun h => ?_
    simp only [WellFormed.wf, Bool.and_eq_true] at h
    simp_all [parse, Decode.matrix, need, Decode.get, Decode.flag, Decode.idx, Decode.f4, bind, Except.bind, Raw.tid,
      Raw.tag, Raw.pathA, Raw.pathB, Raw.scope4, Raw.rm4, Raw.rest4, idxOf_idx] <;> rfl)

theorem Encoding.mmas (g : Guard) (la : Fin 16) (r : Bool) (cv : Fin 4) (n : Sparsity) (d : Fin 8) (a : Fin 192) (b c :
  Fin 32) (tid : BitVec 12) : Encoding.Statement (.mmas g la r cv n d a b c tid) := by
  cases n <;> fin_cases cv <;> (
    refine Encoding.of_parse rfl fun h => ?_
    simp only [WellFormed.wf, Bool.and_eq_true] at h
    simp_all [parse, Decode.matrix, need, Decode.get, Decode.flag, Decode.idx, Decode.f4, bind, Except.bind, Raw.tid,
      Raw.tag, Raw.pathA, Raw.pathB, Raw.scope4, Raw.rm4, Raw.rest4, idxOf_idx] <;> first | rfl | decide)

theorem Encoding.maccZero (g : Guard) (la : Fin 16) (d : Fin 8) : Encoding.Statement (.maccZero g la d) := by
  refine Encoding.of_parse rfl fun h => ?_
  simp only [WellFormed.wf, Bool.and_eq_true] at h
  simp_all [parse, Decode.matrix, noFl, need, Decode.get, Decode.idx, Decode.f4, Decode.macc, bind, Except.bind, zero8,
    Raw.tid, Raw.tag, Raw.pathA, Raw.pathB, Raw.scope4, Raw.rm4, Raw.rest4, idxOf_idx]

theorem Encoding.maccInit (g : Guard) (la : Fin 16) (d : Fin 8) : Encoding.Statement (.maccInit g la d) := by
  refine Encoding.of_parse rfl fun h => ?_
  simp only [WellFormed.wf, Bool.and_eq_true] at h
  simp_all [parse, Decode.matrix, noFl, need, Decode.get, Decode.idx, Decode.f4, Decode.macc, bind, Except.bind, zero8,
    Raw.tid, Raw.tag, Raw.pathA, Raw.pathB, Raw.scope4, Raw.rm4, Raw.rest4, idxOf_idx]

theorem Encoding.maccMov (g : Guard) (la : Fin 16) (d a : Fin 8) : Encoding.Statement (.maccMov g la d a) := by
  refine Encoding.of_parse rfl fun h => ?_
  simp only [WellFormed.wf, Bool.and_eq_true] at h
  simp_all [parse, Decode.matrix, noFl, need, Decode.get, Decode.idx, Decode.f4, Decode.macc, bind, Except.bind, zero8,
    Raw.tid, Raw.tag, Raw.pathA, Raw.pathB, Raw.scope4, Raw.rm4, Raw.rest4, idxOf_idx]

theorem Encoding.maccRd (g : Guard) (la : Fin 16) (d : Fin 192) (a : Fin 8) (b : Src) : Encoding.Statement (.maccRd g la
  d a b) := by
  refine Encoding.of_parse rfl fun h => ?_
  simp only [WellFormed.wf, Bool.and_eq_true] at h
  simp_all [parse, Decode.matrix, noFl, need, Decode.get, Decode.src, Decode.idx, Decode.f4, Decode.macc, bind,
    Except.bind, zero8, Raw.tid, Raw.tag, Raw.pathA, Raw.pathB, Raw.scope4, Raw.rm4, Raw.rest4, srcOf_src, idxOf_idx]

theorem Encoding.maccWr (g : Guard) (la : Fin 16) (d : Fin 8) (a : Fin 192) (b : Src) : Encoding.Statement (.maccWr g la
  d a b) := by
  refine Encoding.of_parse rfl fun h => ?_
  simp only [WellFormed.wf, Bool.and_eq_true] at h
  simp_all [parse, Decode.matrix, noFl, need, Decode.get, Decode.src, Decode.idx, Decode.f4, Decode.macc, bind,
    Except.bind, zero8, Raw.tid, Raw.tag, Raw.pathA, Raw.pathB, Raw.scope4, Raw.rm4, Raw.rest4, srcOf_src, idxOf_idx]

theorem Encoding.maccRdst (g : Guard) (la : Fin 16) (d : Fin 192) (a : Fin 8) : Encoding.Statement (.maccRdst g la d a)
  := by
  refine Encoding.of_parse rfl fun h => ?_
  simp only [WellFormed.wf, Bool.and_eq_true] at h
  simp_all [parse, Decode.matrix, noFl, need, Decode.get, Decode.idx, Decode.f4, Decode.macc, bind, Except.bind, zero8,
    Raw.tid, Raw.tag, Raw.pathA, Raw.pathB, Raw.scope4, Raw.rm4, Raw.rest4, idxOf_idx]

theorem Encoding.maccWrst (g : Guard) (la : Fin 16) (d : Fin 8) (a : Fin 192) : Encoding.Statement (.maccWrst g la d a)
  := by
  refine Encoding.of_parse rfl fun h => ?_
  simp only [WellFormed.wf, Bool.and_eq_true] at h
  simp_all [parse, Decode.matrix, noFl, need, Decode.get, Decode.idx, Decode.f4, Decode.macc, bind, Except.bind, zero8,
    Raw.tid, Raw.tag, Raw.pathA, Raw.pathB, Raw.scope4, Raw.rm4, Raw.rest4, idxOf_idx]

theorem Encoding.maccDecl (g : Guard) (la : Fin 16) (d : Fin 4) : Encoding.Statement (.maccDecl g la d) := by
  refine Encoding.of_parse rfl fun h => ?_
  simp only [WellFormed.wf, Bool.and_eq_true] at h
  simp_all [parse, Decode.matrix, noFl, need, Decode.get, Decode.idx, Decode.f4, Decode.macc, bind, Except.bind, zero8,
    Raw.tid, Raw.tag, Raw.pathA, Raw.pathB, Raw.scope4, Raw.rm4, Raw.rest4, idxOf_idx]

theorem Encoding.mrel (g : Guard) : Encoding.Statement (.mrel g) := by
  refine Encoding.of_parse rfl fun h => ?_
  simp only [WellFormed.wf, Bool.and_eq_true] at h
  simp_all [parse, Decode.matrix, Decode.bare, noLa, noFn, noFl, noW, need, bind, Except.bind, zero8]

theorem Encoding.smax (g : Guard) (la : Fin 16) (d a : Fin 8) : Encoding.Statement (.smax g la d a) := by
  refine Encoding.of_parse rfl fun h => ?_
  simp only [WellFormed.wf, Bool.and_eq_true] at h
  simp_all [parse, Decode.matrix, noFn, noFl, noW, need, Decode.get, Decode.idx, bind, Except.bind, zero8, idxOf_idx]

theorem Encoding.sexp (g : Guard) (la : Fin 16) (q : Option (BitVec 12)) (d a : Fin 8) : Encoding.Statement (.sexp g la
  q d a) := by
  cases q <;> (
    refine Encoding.of_parse rfl fun h => ?_
    simp only [WellFormed.wf, Bool.and_eq_true] at h
    simp_all [parse, Decode.matrix, noFl, need, Decode.get, Decode.fnBit, Decode.idx, Decode.f4, bind, Except.bind,
      zero8, Raw.tid, Raw.tag, Raw.pathA, Raw.pathB, Raw.scope4, Raw.rm4, Raw.rest4, idxOf_idx])

theorem Encoding.smerge (g : Guard) (la : Fin 16) (d a : Fin 8) : Encoding.Statement (.smerge g la d a) := by
  refine Encoding.of_parse rfl fun h => ?_
  simp only [WellFormed.wf, Bool.and_eq_true] at h
  simp_all [parse, Decode.matrix, noFn, noFl, noW, need, Decode.get, Decode.idx, bind, Except.bind, zero8, idxOf_idx]

theorem Encoding.cred (g : Guard) (la : Fin 16) (d : Fin 8) : Encoding.Statement (.cred g la d) := by
  refine Encoding.of_parse rfl fun h => ?_
  simp only [WellFormed.wf, Bool.and_eq_true] at h
  simp_all [parse, Decode.matrix, noFn, noFl, noW, need, Decode.get, Decode.idx, bind, Except.bind, zero8, idxOf_idx]

theorem Encoding.tdone (g : Guard) (a : Src) : Encoding.Statement (.tdone g a) := by
  refine Encoding.of_parse rfl fun h => ?_
  simp only [WellFormed.wf, Bool.and_eq_true] at h
  simp_all [parse, Decode.task, noLa, noFn, noFl, noW, need, Decode.get, Decode.src, bind, Except.bind, zero8,
    src_of_reg]

theorem Encoding.gcond (g : Guard) (op : CondOp) (num : BitVec 8) (a : Src) : Encoding.Statement (.gcond g op num a) :=
  by
  refine Encoding.of_parse rfl fun h => ?_
  simp only [WellFormed.wf, Bool.and_eq_true] at h
  simp_all [parse, Decode.task, noLa, noFl, need, Decode.get, Decode.src, Decode.f5, bind, Except.bind, zero8, Raw.num,
    Raw.sreg, Raw.region, Raw.priv, Raw.rest5, src_of_reg]

theorem Encoding.gsig (g : Guard) (num : BitVec 8) : Encoding.Statement (.gsig g num) := by
  refine Encoding.of_parse rfl fun h => ?_
  simp only [WellFormed.wf, Bool.and_eq_true] at h
  simp_all [parse, Decode.task, noLa, noFn, noFl, need, Decode.f5, bind, Except.bind, zero8, Raw.num, Raw.sreg,
    Raw.region, Raw.priv, Raw.rest5]

theorem Encoding.kvopen (g : Guard) (rw u : Bool) (d : Fin 8) (ln : Fin 16) (c : Src) : Encoding.Statement (.kvopen g rw
  u d ln c) := by
  refine Encoding.of_parse rfl fun h => ?_
  simp only [WellFormed.wf, Bool.and_eq_true] at h
  simp_all [parse, Decode.keyValue, noLa, need, Decode.get, Decode.fnBit, Decode.flag, Decode.src, Decode.idx,
    Decode.line, Decode.bareLine, Decode.f3, bind, Except.bind, Raw.off, Raw.scope3, Raw.sem3, Raw.rest3, idxOf_idx]

theorem Encoding.kvfill (g : Guard) (d : Dst) (a b c : Src) (tid : BitVec 12) : Encoding.Statement (.kvfill g d a b c
  tid) := by
  refine Encoding.of_parse rfl fun h => ?_
  simp only [WellFormed.wf, Bool.and_eq_true] at h
  simp_all [parse, Decode.keyValue, noLa, noFn, noFl, need, Decode.get, Decode.dst, Decode.src, Decode.f4, bind,
    Except.bind, Raw.tid, Raw.tag, Raw.pathA, Raw.pathB, Raw.scope4, Raw.rm4, Raw.rest4, srcOf_src]

theorem Encoding.kvmap (g : Guard) (la : Fin 16) (d : Fin 192) (a b : Src) : Encoding.Statement (.kvmap g la d a b) :=
  by
  refine Encoding.of_parse rfl fun h => ?_
  simp only [WellFormed.wf, Bool.and_eq_true] at h
  simp_all [parse, Decode.keyValue, noFn, noFl, need, Decode.get, Decode.src, Decode.idx, Decode.f5, bind, Except.bind,
    zero8, Raw.num, Raw.sreg, Raw.region, Raw.priv, Raw.rest5]

theorem Encoding.kvfork (g : Guard) (la : Fin 16) (d : Fin 192) (a b : Src) : Encoding.Statement (.kvfork g la d a b) :=
  by
  refine Encoding.of_parse rfl fun h => ?_
  simp only [WellFormed.wf, Bool.and_eq_true] at h
  simp_all [parse, Decode.keyValue, noFn, noFl, need, Decode.get, Decode.src, Decode.idx, Decode.f5, bind, Except.bind,
    zero8, Raw.num, Raw.sreg, Raw.region, Raw.priv, Raw.rest5]

theorem Encoding.kvdrop (g : Guard) (la : Fin 16) (d : Fin 192) (a : Src) : Encoding.Statement (.kvdrop g la d a) := by
  refine Encoding.of_parse rfl fun h => ?_
  simp only [WellFormed.wf, Bool.and_eq_true] at h
  simp_all [parse, Decode.keyValue, noFn, noFl, need, Decode.get, Decode.src, Decode.idx, Decode.f5, bind, Except.bind,
    zero8, Raw.num, Raw.sreg, Raw.region, Raw.priv, Raw.rest5]

theorem Encoding.gcall (g : Guard) (d : Dst) (num : BitVec 8) : Encoding.Statement (.gcall g d num) := by
  refine Encoding.of_parse rfl fun h => ?_
  simp only [WellFormed.wf, Bool.and_eq_true] at h
  simp_all [parse, Decode.system, noLa, noFn, noFl, need, Decode.get, Decode.dst, Decode.f5, bind, Except.bind, zero8,
    Raw.num, Raw.sreg, Raw.region, Raw.priv, Raw.rest5]

theorem Encoding.gret (g : Guard) (a : Src) : Encoding.Statement (.gret g a) := by
  refine Encoding.of_parse rfl fun h => ?_
  simp only [WellFormed.wf, Bool.and_eq_true] at h
  simp_all [parse, Decode.system, noLa, noFn, noFl, need, Decode.get, Decode.src, Decode.f5, bind, Except.bind, zero8,
    Raw.num, Raw.sreg, Raw.region, Raw.priv, Raw.rest5, src_of_reg]

theorem Encoding.trap (g : Guard) (num : BitVec 8) : Encoding.Statement (.trap g num) := by
  refine Encoding.of_parse rfl fun h => ?_
  simp only [WellFormed.wf, Bool.and_eq_true] at h
  simp_all [parse, Decode.system, noLa, noFn, noFl, need, Decode.f5, bind, Except.bind, zero8, Raw.num, Raw.sreg,
    Raw.region, Raw.priv, Raw.rest5]

theorem Encoding.eret (g : Guard) (r : Bool) : Encoding.Statement (.eret g r) := by
  refine Encoding.of_parse rfl fun h => ?_
  simp only [WellFormed.wf, Bool.and_eq_true] at h
  simp_all [parse, Decode.system, noLa, noFn, need, Decode.flag, Decode.f5, bind, Except.bind, zero8, Raw.num, Raw.sreg,
    Raw.region, Raw.priv, Raw.rest5]

theorem Encoding.setsr (g : Guard) (sreg : SReg) (a : Src) : Encoding.Statement (.setsr g sreg a) := by
  refine Encoding.of_parse rfl fun h => ?_
  simp only [WellFormed.wf, Bool.and_eq_true] at h
  have hs : srcOf (Encode.src a) = some a := by
    have h2 := h.2
    split at h2
    · exact src_of_pair h2
    · exact srcOf_src a h2
  have e (r : Raw) (h1 : r.op = 0xE4) : Decode.parse r = Decode.setsr r (guardOf r.pg) := by
    simp [parse, Decode.system, h1]
  rw [e _ rfl, guardOf_guard]
  refine (setsr_mk g sreg a hs).trans ?_
  have hr := h.1.2
  cases sreg <;> first
    | rfl
    | exact absurd hr Bool.false_ne_true

theorem Encoding.setsrAmask (g : Guard) (a : Src) : Encoding.Statement (.setsrAmask g a) := by
  refine Encoding.of_parse rfl fun h => ?_
  simp only [WellFormed.wf, Bool.and_eq_true] at h
  have e (r : Raw) (h1 : r.op = 0xE4) : Decode.parse r = Decode.setsr r (guardOf r.pg) := by
    simp [parse, Decode.system, h1]
  rw [e _ rfl, guardOf_guard]
  exact setsr_mk g .amask a (srcOf_src a h.2)

theorem Encoding.setsrLpc (g : Guard) (a : Src) : Encoding.Statement (.setsrLpc g a) := by
  refine Encoding.of_parse rfl fun h => ?_
  simp only [WellFormed.wf, Bool.and_eq_true] at h
  have e (r : Raw) (h1 : r.op = 0xE4) : Decode.parse r = Decode.setsr r (guardOf r.pg) := by
    simp [parse, Decode.system, h1]
  rw [e _ rfl, guardOf_guard]
  exact setsr_mk g .lpc a (src_of_pair h.2)

theorem Encoding.dmrbeg (g : Guard) (d : Dst) : Encoding.Statement (.dmrbeg g d) := by
  refine Encoding.of_parse rfl fun h => ?_
  simp only [WellFormed.wf, Bool.and_eq_true] at h
  simp_all [parse, Decode.system, noLa, noFn, noFl, need, Decode.get, Decode.dst, Decode.f5, bind, Except.bind, zero8,
    Raw.num, Raw.sreg, Raw.region, Raw.priv, Raw.rest5]

theorem Encoding.dmrend (g : Guard) : Encoding.Statement (.dmrend g) := by
  refine Encoding.of_parse rfl fun h => ?_
  simp only [WellFormed.wf, Bool.and_eq_true] at h
  simp_all [parse, Decode.system, Decode.bare, noLa, noFn, noFl, noW, need, bind, Except.bind, zero8]

theorem Encoding.rgn (g : Guard) (region : BitVec 16) : Encoding.Statement (.rgn g region) := by
  refine Encoding.of_parse rfl fun h => ?_
  simp only [WellFormed.wf, Bool.and_eq_true] at h
  simp_all [parse, Decode.system, noLa, noFn, noFl, need, Decode.f5, bind, Except.bind, zero8, Raw.num, Raw.sreg,
    Raw.region, Raw.priv, Raw.rest5]

theorem Encoding.halt (g : Guard) : Encoding.Statement (.halt g) := by
  refine Encoding.of_parse rfl fun h => ?_
  simp only [WellFormed.wf, Bool.and_eq_true] at h
  simp_all [parse, Decode.system, noLa, noFn, noFl, need, Decode.f5, bind, Except.bind, zero8, Raw.num, Raw.sreg,
    Raw.region, Raw.priv, Raw.rest5]

theorem Encoding.tlbinv (g : Guard) (form : TlbForm) : Encoding.Statement (.tlbinv g form) := by
  cases form <;> (
    refine Encoding.of_parse rfl fun h => ?_
    simp only [WellFormed.wf, Bool.and_eq_true] at h
    simp_all [parse, Decode.system, noLa, noFl, need, Decode.get, Decode.src, Decode.f5, bind, Except.bind, zero8,
      Raw.num, Raw.sreg, Raw.region, Raw.priv, Raw.rest5, srcOf_src])

theorem Encoding.recall (g : Guard) (form : RecallForm) : Encoding.Statement (.recall g form) := by
  cases form <;> (
    refine Encoding.of_parse rfl fun h => ?_
    simp only [WellFormed.wf, Bool.and_eq_true] at h
    simp_all [parse, Decode.system, noLa, noFl, need, Decode.get, Decode.src, Decode.f5, bind, Except.bind, zero8,
      Raw.num, Raw.sreg, Raw.region, Raw.priv, Raw.rest5, srcOf_src])

/-! ## Steps of the device -/

theorem Encoding.pollRetry (st : StreamId) : Encoding.Statement (.pollRetry st) := Encoding.of_none rfl
theorem Encoding.lwaitWake (st : StreamId) (cause : Nat) : Encoding.Statement (.lwaitWake st cause) := Encoding.of_none
  rfl
theorem Encoding.lineFetchLands (r : LineRef) : Encoding.Statement (.lineFetchLands r) := Encoding.of_none rfl
theorem Encoding.amoPerformed (st : StreamId) (id : Nat) : Encoding.Statement (.amoPerformed st id) := Encoding.of_none
  rfl
theorem Encoding.frUpdateMerge (c : CoreId) (id : Nat) : Encoding.Statement (.frUpdateMerge c id) := Encoding.of_none
  rfl
theorem Encoding.cmcastLanding (c : CoreId) (id : Nat) : Encoding.Statement (.cmcastLanding c id) := Encoding.of_none
  rfl
theorem Encoding.cmcastTimedPresence (c : CoreId) (id : Nat) : Encoding.Statement (.cmcastTimedPresence c id) :=
  Encoding.of_none rfl
theorem Encoding.barrierArrival (team grp : Nat) (scope : Scope) : Encoding.Statement (.barrierArrival team grp scope)
  := Encoding.of_none rfl
theorem Encoding.barrierRelease (team grp : Nat) (scope : Scope) (total : DWord) (bad : Bool) : Encoding.Statement
  (.barrierRelease team grp scope total bad) := Encoding.of_none rfl
theorem Encoding.embExchange (c : CoreId) (id : Nat) (rows : List RemoteRow) : Encoding.Statement (.embExchange c id
  rows) := Encoding.of_none rfl
theorem Encoding.commandServiceStart (c : CoreId) (id : Nat) : Encoding.Statement (.commandServiceStart c id) :=
  Encoding.of_none rfl
theorem Encoding.engineUnitLands (c : CoreId) (id lane unit : Nat) : Encoding.Statement (.engineUnitLands c id lane
  unit) := Encoding.of_none rfl
theorem Encoding.credContribution (team grp : Nat) : Encoding.Statement (.credContribution team grp) := Encoding.of_none
  rfl
theorem Encoding.gateAbort (team grp : Nat) (code : Nat) : Encoding.Statement (.gateAbort team grp code) :=
  Encoding.of_none rfl
theorem Encoding.compareRecord (bench pair : Nat) : Encoding.Statement (.compareRecord bench pair) := Encoding.of_none
  rfl
theorem Encoding.fetchLine (st : StreamId) (flips : FetchLine) : Encoding.Statement (.fetchLine st flips) :=
  Encoding.of_none rfl
theorem Encoding.issueGrant (c : CoreId) (part : Nat) : Encoding.Statement (.issueGrant c part) := Encoding.of_none rfl
theorem Encoding.longLatencyWriteback (st : StreamId) (id : Nat) : Encoding.Statement (.longLatencyWriteback st id) :=
  Encoding.of_none rfl
theorem Encoding.trapEntry (st : StreamId) : Encoding.Statement (.trapEntry st) := Encoding.of_none rfl
theorem Encoding.pageWalk (c : CoreId) (id : Nat) : Encoding.Statement (.pageWalk c id) := Encoding.of_none rfl
theorem Encoding.kvWalk (c : CoreId) (id : Nat) : Encoding.Statement (.kvWalk c id) := Encoding.of_none rfl
theorem Encoding.faultRecord (home : Nat) (c : CoreId) (id : Nat) (rec : FaultRec) : Encoding.Statement (.faultRecord
  home c id rec) := Encoding.of_none rfl
theorem Encoding.faultResponse (c : CoreId) (reply : WalkAnswer) :
    Encoding.Statement (.faultResponse c reply) := Encoding.of_none rfl
theorem Encoding.checkpointTaken (team : Nat) : Encoding.Statement (.checkpointTaken team) := Encoding.of_none rfl
theorem Encoding.checkpointSafe (team date : Nat) : Encoding.Statement (.checkpointSafe team date) := Encoding.of_none
  rfl
theorem Encoding.lehrAgeTimeout (team entered : Nat) : Encoding.Statement (.lehrAgeTimeout team entered) :=
  Encoding.of_none rfl
theorem Encoding.strikeReport (c : CoreId) : Encoding.Statement (.strikeReport c) := Encoding.of_none rfl
theorem Encoding.rollback (team : Nat) : Encoding.Statement (.rollback team) := Encoding.of_none rfl
theorem Encoding.memoryUncorrectable (site : ErrSite) (again : Bool) :
    Encoding.Statement (.memoryUncorrectable site again) := Encoding.of_none rfl
theorem Encoding.flitCrcError (plane : Nat) (fails : Nat) : Encoding.Statement (.flitCrcError plane fails) :=
  Encoding.of_none rfl
theorem Encoding.planeFailure (plane : Nat) : Encoding.Statement (.planeFailure plane) := Encoding.of_none rfl
theorem Encoding.launchSubmit (launch : Nat) : Encoding.Statement (.launchSubmit launch) := Encoding.of_none rfl
theorem Encoding.teamAdmission (die : Nat) (weak : Bool) : Encoding.Statement (.teamAdmission die weak) :=
  Encoding.of_none rfl
theorem Encoding.timedLaunchStart (launch : Nat) : Encoding.Statement (.timedLaunchStart launch) := Encoding.of_none rfl
theorem Encoding.teamEnd (team : Nat) : Encoding.Statement (.teamEnd team) := Encoding.of_none rfl
theorem Encoding.taskDeal (graph node : Nat) : Encoding.Statement (.taskDeal graph node) := Encoding.of_none rfl
theorem Encoding.waveFormation (c : CoreId) : Encoding.Statement (.waveFormation c) := Encoding.of_none rfl
theorem Encoding.stealRequest (thief victim : CoreId) : Encoding.Statement (.stealRequest thief victim) :=
  Encoding.of_none rfl
theorem Encoding.stealRetry (c : CoreId) : Encoding.Statement (.stealRetry c) := Encoding.of_none rfl
theorem Encoding.graphSubmit (graph : Nat) : Encoding.Statement (.graphSubmit graph) := Encoding.of_none rfl
theorem Encoding.nodeCompletion (graph node : Nat) : Encoding.Statement (.nodeCompletion graph node) := Encoding.of_none
  rfl
theorem Encoding.gcondUpdate (upd : CondUpdate) (op : CondOp) (num : BitVec 8) (x : Word) :
    Encoding.Statement (.gcondUpdate upd op num x) := Encoding.of_none rfl
theorem Encoding.gsigArrival (graph node : Nat) : Encoding.Statement (.gsigArrival graph node) := Encoding.of_none rfl
theorem Encoding.queueDoorbell (fn q : Nat) (tail : Word) : Encoding.Statement (.queueDoorbell fn q tail) :=
  Encoding.of_none rfl
theorem Encoding.queueEntry (fn q : Nat) : Encoding.Statement (.queueEntry fn q) := Encoding.of_none rfl
theorem Encoding.hostBar2Access (fn q : Nat) (va : DWord) (n : Nat) (acc : HostAccess) :
    Encoding.Statement (.hostBar2Access fn q va n acc) := Encoding.of_none rfl
theorem Encoding.configWrite (reg : ConfigReg) (value : Nat) : Encoding.Statement (.configWrite reg value) :=
  Encoding.of_none rfl
theorem Encoding.collectiveSubmit (fn q coll : Nat) :
    Encoding.Statement (.collectiveSubmit fn q coll) := Encoding.of_none rfl
theorem Encoding.collectiveChunk (id chunk : Nat) (parts : List Contribution) (lost : Bool) : Encoding.Statement
  (.collectiveChunk id chunk parts lost) := Encoding.of_none rfl
theorem Encoding.egressFlit (lane dst : Nat) (isGroup : Bool) : Encoding.Statement (.egressFlit lane dst isGroup) :=
  Encoding.of_none rfl
theorem Encoding.packageReset (sigOk : Bool) (egress : EgressConfig) (sources : List Image) : Encoding.Statement
  (.packageReset sigOk egress sources) := Encoding.of_none rfl
theorem Encoding.attestationRequest (nonce : Nat) : Encoding.Statement (.attestationRequest nonce) := Encoding.of_none
  rfl
theorem Encoding.keyLoad (id : Nat) : Encoding.Statement (.keyLoad id) := Encoding.of_none rfl
theorem Encoding.powerClamp (draw : Nat) : Encoding.Statement (.powerClamp draw) := Encoding.of_none rfl
theorem Encoding.thermalLimit (die temp : Nat) : Encoding.Statement (.thermalLimit die temp) := Encoding.of_none rfl
theorem Encoding.managementAccess (pa : DWord) (n : Nat) (wr : Option (List Byte)) : Encoding.Statement
  (.managementAccess pa n wr) := Encoding.of_none rfl
theorem Encoding.debugResume (team grp : Nat) (act : DebugAction) : Encoding.Statement (.debugResume team grp act) :=
  Encoding.of_none rfl
theorem Encoding.preemptRequest (team : Nat) (by_ : Preemptor) : Encoding.Statement (.preemptRequest team by_) :=
  Encoding.of_none rfl
theorem Encoding.drainTimeout (team : Nat) : Encoding.Statement (.drainTimeout team) := Encoding.of_none rfl
theorem Encoding.saveRequest (team : Nat) : Encoding.Statement (.saveRequest team) := Encoding.of_none rfl
theorem Encoding.saveSpill (team : Nat) : Encoding.Statement (.saveSpill team) := Encoding.of_none rfl
theorem Encoding.restoreRequest (asid : BitVec 16) (area : DWord) : Encoding.Statement (.restoreRequest asid area) :=
  Encoding.of_none rfl
theorem Encoding.restoreLoad (team : Nat) : Encoding.Statement (.restoreLoad team) := Encoding.of_none rfl
theorem Encoding.hostLinkTraining (width rate : Nat) : Encoding.Statement (.hostLinkTraining width rate) :=
  Encoding.of_none rfl

end

end Sys2Proof.Laws
end

