-- ==== Sys2Proof/Safety.lean ====
section
/-!
DEFINITION. What counts as a safe run, and the terms in which claims speak of an instruction: when it is admitted at the
cursor, the state in which it reads its operands, the state after its lanes have passed on, and what it leaves as it was.
-/

namespace Sys2Proof

/-- Memory and host memory are in their canonical form (log 1). -/
def memoryForm (s : Machine.State) : Prop :=
  Machine.Memory.wf s.mem = true ∧ Machine.Memory.wf s.hostMem = true

/-- A step that goes on. -/
def goesOn (s : Machine.State) : Prop := ∃ t, Machine.step s = .next t

/-- A run of n steps that goes on. -/
def safeRun : Nat → Machine.State → Prop
  | 0, _ => True
  | n + 1, s => ∃ t, Machine.step s = .next t ∧ safeRun n t

namespace Machine

/-! ## When an instruction issues -/

/-- The issue at the cursor of an instruction with a guard: its lanes, and those that execute (R41, R48). -/
def State.ctx (s : State) (g : Guard) : Ctx := ⟨s.cur.id, s.cur.pc, s.cur.lanes, s.here.guarded g s.cur.lanes⟩

/-- Nothing keeps an instruction from issuing at the cursor: a stream runs there, the checks of R67 and R397 pass, no
redundant pair holds it, no pending result covers a register it names (R49), its path is open (R240), its queues can take
part (R19), and no program-counter comparator matches (R356). -/
def Info.admits (i : Info) (s : State) : Bool :=
  s.here.live && s.cur.lanes != 0 && (s.checkDecode i).isNone && (s.checkContext i).isNone && !s.pairHolds &&
  !s.here.interlocked s.cur.lanes (predKey i.g.p.val :: usesKeys s.here i.uses) &&
  !(match i.path with | some p => s.here.fences.any fun f => f.closes == p && !s.fenceDone s.cur.id f | none => false) &&
  s.myGroup.queuesReady i.uses && (s.pcMatch (s.ctx i.g)).isNone

/-- It issues, and its guard selects a lane. -/
def Info.executes (i : Info) (s : State) : Bool := i.admits s && (s.ctx i.g).ex != 0

/-- The state in which an admitted instruction reads its operands: its issue is counted and its queues are popped. -/
def State.begun (s : State) (us : List Use) : State := (s.countIssue s.cur.lanes).popQueues us

/-- The state after an instruction's own effect: an armed injection record strikes, and the issuing lanes that are still
active pass to the next slot (R41, R381). -/
def State.passed (t : State) (us : List Use) (c : Ctx) : State :=
  (t.inject us c.ex).advance c.id (c.iss &&& (t.stream c.id).amask)

/-- An instruction completes with an effect of its own: exec answers the state after that effect, its lanes passed on. -/
def Completes (i : Instr) (u : Info) (s : State) (effect : Ctx → State → State) : Prop :=
  exec i s = .next ((effect (s.ctx u.g) (s.begun u.uses)).passed u.uses (s.ctx u.g))

/-- An instruction completes with an effect that has moved its lanes itself. -/
def CompletesAt (i : Instr) (u : Info) (s : State) (effect : Ctx → State → State) : Prop :=
  exec i s = .next ((effect (s.ctx u.g) (s.begun u.uses)).inject u.uses (s.ctx u.g).ex)

/-! ## What an instruction writes and what it leaves -/

/-- Neither a redundant pair nor an armed injection record has a part in the issue. -/
def State.plain (s : State) : Bool := s.myGroup.dmr == .alone && !s.injectHere

/-- A lane of a vector register that writes to destinations change. -/
def touches (ws : List (Dst × (Nat → Word))) (ex : Mask) (r i : Nat) : Prop :=
  ∃ w ∈ ws, ∃ n : Fin 192, w.1 = .v n ∧ n.val = r ∧ ex.getLsbD i = true

/-- The value that a destination holds after a write of an issue's executing lanes: each lane of a vector register, the
lowest lane's value in a uniform register, nothing for z, the youngest entry of a queue whose popping stream runs. -/
def holds (t : State) (ex : Mask) (d : Dst) (f : Nat → Word) : Prop :=
  match d with
  | .v n => ∀ i < 32, ex.getLsbD i = true → t.here.vec n.val i = f i
  | .s n => t.here.uni n.val = f (low ex)
  | .z => True
  | .q n => (t.myGroup.stream (popSide n.val)).live = true →
      ∃ e, (t.myGroup.queue n.val).getLast? = some e ∧ e.ready = true ∧
        ∀ i < 32, SMap.get 0 e.lanes i = if ex.getLsbD i = true then f i else 0

/-- The registers of the stream that no arithmetic instruction writes. -/
def Stream.system (st : Stream) :=
  (st.live, st.amask, st.partw, st.rgncnt, st.rgnEntry, st.entry, st.tcause, st.tadr, st.tlane, st.gen, st.mode, st.kept,
    st.traps, st.sq, st.fences, st.hold, st.poll, st.watch)

/-- The state of a group beside its streams and queues. -/
def GCtx.shared (c : GCtx) :=
  (c.vbud, c.va, c.lbud, c.abud, c.lines, c.accs, c.accM, c.accHi, c.accLo, c.cvDecl, c.cvSigned, c.mma, c.rjEnr, c.rjArr,
    c.latch, c.tags, c.asid, c.kvroot, c.level, c.ttbase)

/-- What an issue may change beside its destinations is little: everything else of its stream, its group, the other streams,
memory, the cores, the dies and the package stays. -/
structure Leaves (s t : State) : Prop where
  /-- The registers of traps, modes, masks and outstanding work. -/
  system : t.here.system = s.here.system
  /-- Line registers, accumulators, convergence and rejoin registers, tags and the group's special registers. -/
  shared : t.myGroup.c.shared = s.myGroup.c.shared
  /-- The other streams of the package. -/
  others : ∀ id, id ≠ s.cur.id → t.stream id = s.stream id
  /-- Every byte of memory, under every key, and of host memory; poison. -/
  memory : ∀ key a, t.readPa key a = s.readPa key a
  hostMemory : ∀ a, t.readHost a = s.readHost a
  poison : ∀ a, t.poisoned a = s.poisoned a
  /-- Line stores, lehrs, engines and translations of every core; the dies; the package. -/
  cores : t.cores = s.cores
  dies : t.dies = s.dies
  pkg : t.pkg = s.pkg
  /-- The team's locks, activation table and rings. -/
  locks : t.myTeam.st.locks = s.myTeam.st.locks
  bank0 : t.myTeam.st.bank0 = s.myTeam.st.bank0
  bank1 : t.myTeam.st.bank1 = s.myTeam.st.bank1

/-- The whole of what an instruction on registers does: destinations, predicates and flags written, lanes passed on (R41),
everything else left. -/
structure Result (s t : State) (c : Ctx) (ws : List (Dst × (Nat → Word))) (ps : List (Fin 8 × (Nat → Bool)))
    (fl : Flags) : Prop extends Leaves s t where
  value : ∀ w ∈ ws, holds t c.ex w.1 w.2
  vec : ∀ r i, i < 32 → ¬ touches ws c.ex r i → t.here.vec r i = s.here.vec r i
  uni : ∀ r, (∀ w ∈ ws, ∀ n : Fin 32, w.1 = .s n → n.val ≠ r) → t.here.uni r = s.here.uni r
  predValue : ∀ p ∈ ps, p.1.val ≠ 0 → ∀ i < 32, c.ex.getLsbD i = true → (t.here.pred p.1).getLsbD i = p.2 i
  pred : ∀ (q : Fin 8) i, i < 32 → (∀ p ∈ ps, p.1 = q → p.1.val = 0 ∨ c.ex.getLsbD i = false) →
    (t.here.pred q).getLsbD i = (s.here.pred q).getLsbD i
  fstat : t.here.fstat = s.here.fstat ||| fl.setWidth 32
  pc : ∀ i, t.here.pc i =
    if i < 32 ∧ c.iss.getLsbD i = true ∧ s.here.amask.getLsbD i = true then nextPc (s.here.pc i) else s.here.pc i

/-- An instruction on registers completes, and this is the whole of what it does. -/
def Computes (i : Instr) (u : Info) (s : State) (ws : List (Dst × (Nat → Word))) (ps : List (Fin 8 × (Nat → Bool)))
    (fl : Flags) : Prop :=
  ∃ t, exec i s = .next t ∧ Result s t (s.ctx u.g) ws ps fl

/-- A 32-bit destination's write, a pair's. -/
def one (d : Dst) (f : Nat → Word) : List (Dst × (Nat → Word)) := [(d, f)]
def two (d : Dst) (f : Nat → DWord) : List (Dst × (Nat → Word)) :=
  [(d, fun i => (f i).setWidth 32), (dstShift d 1, fun i => (f i).extractLsb' 32 32)]

/-- An instruction of 32-bit operands that computes, in every lane that executes, a value from its operands' values. -/
def Computes1 (i : Instr) (u : Info) (d : Dst) (a : Src) (f : Word → Word) : Prop :=
  ∀ s : State, u.executes s = true → s.plain = true →
    Computes i u s (one d fun l => f ((s.begun u.uses).src a l)) [] 0
def Computes2 (i : Instr) (u : Info) (d : Dst) (a b : Src) (f : Word → Word → Word) : Prop :=
  ∀ s : State, u.executes s = true → s.plain = true →
    Computes i u s (one d fun l => f ((s.begun u.uses).src a l) ((s.begun u.uses).src b l)) [] 0
def Computes3 (i : Instr) (u : Info) (d : Dst) (a b c : Src) (f : Word → Word → Word → Word) : Prop :=
  ∀ s : State, u.executes s = true → s.plain = true →
    Computes i u s (one d fun l => f ((s.begun u.uses).src a l) ((s.begun u.uses).src b l) ((s.begun u.uses).src c l)) [] 0

end Machine

end Sys2Proof
end

