-- ==== Sys2Proof/Certificates/Slice0/Obligations.lean ====
section
/-!
DEFINITION. The statements about the machine. Where a statement speaks of an instruction that executes, the hypotheses are on
the state and the operands alone: nothing keeps it from issuing at the cursor and its guard selects a lane (`Info.executes`),
and, where the statement also says what is left, the group is not one of a redundant pair and no injection record is armed
for it (`State.plain`). The conclusion is that `exec` answers a next state, and which.
-/

open Sys2Proof Sys2Proof.Machine

/-! ## Integers, bits and predicates (05 R110-R117) -/

/-- The information of an instruction of one, two or three 32-bit sources. -/
def Claims.info1 (g : Guard) (d : Dst) (a : Src) : Info := { g := g, uses := [d1 d, u1 a] }
def Claims.info2 (g : Guard) (d : Dst) (a b : Src) : Info := { g := g, uses := [d1 d, u1 a, u1 b] }
def Claims.info3 (g : Guard) (d : Dst) (a b c : Src) : Info := { g := g, uses := [d1 d, u1 a, u1 b, u1 c] }

/-- R110 without `.sat`: sums, differences and products modulo 2^32, bits 63:32 of the exact product, the smaller and the
larger operand, the absolute value; every register, flag, byte of memory and lane beside is left. -/
def Obligations.IntegerWraps : Prop :=
  ∀ (g : Guard) (uns : Bool) (d : Dst) (a b c : Src),
    Computes2 (.iadd g uns false d a b) (Claims.info2 g d a b) d a b (fun x y => x + y) ∧
    Computes2 (.isub g uns false d a b) (Claims.info2 g d a b) d a b (fun x y => x - y) ∧
    Computes2 (.imul g uns false d a b) (Claims.info2 g d a b) d a b (fun x y => x * y) ∧
    Computes3 (.imad g uns false d a b c) (Claims.info3 g d a b c) d a b c (fun x y z => x * y + z) ∧
    Computes2 (.imulh g true d a b) (Claims.info2 g d a b) d a b
      (fun x y => (x.setWidth 64 * y.setWidth 64).extractLsb' 32 32) ∧
    Computes2 (.imulh g false d a b) (Claims.info2 g d a b) d a b
      (fun x y => (x.signExtend 64 * y.signExtend 64).extractLsb' 32 32) ∧
    Computes2 (.imin g true d a b) (Claims.info2 g d a b) d a b (fun x y => if x.toNat ≤ y.toNat then x else y) ∧
    Computes2 (.imin g false d a b) (Claims.info2 g d a b) d a b (fun x y => if x.toInt ≤ y.toInt then x else y) ∧
    Computes2 (.imax g true d a b) (Claims.info2 g d a b) d a b (fun x y => if x.toNat ≤ y.toNat then y else x) ∧
    Computes2 (.imax g false d a b) (Claims.info2 g d a b) d a b (fun x y => if x.toInt ≤ y.toInt then y else x) ∧
    Computes1 (.iabs g false d a) (Claims.info1 g d a) d a (fun x => if x.toInt < 0 then -x else x)

/-- The value of a 32-bit integer range nearest to an exact result (R110). -/
def Claims.clamp32 (uns : Bool) (x : Int) : Word :=
  if uns then BitVec.ofInt 32 (if x < 0 then 0 else if 4294967295 < x then 4294967295 else x)
  else BitVec.ofInt 32 (if x < -2147483648 then -2147483648 else if 2147483647 < x then 2147483647 else x)

/-- R110 with `.sat`: the exact result is brought to the nearest end of the range that FN names. -/
def Obligations.IntegerSaturates : Prop :=
  ∀ (g : Guard) (uns : Bool) (d : Dst) (a b c : Src),
    let r : Word → Int := fun x => if uns then (x.toNat : Int) else x.toInt
    Computes2 (.iadd g uns true d a b) (Claims.info2 g d a b) d a b (fun x y => Claims.clamp32 uns (r x + r y)) ∧
    Computes2 (.isub g uns true d a b) (Claims.info2 g d a b) d a b (fun x y => Claims.clamp32 uns (r x - r y)) ∧
    Computes2 (.imul g uns true d a b) (Claims.info2 g d a b) d a b (fun x y => Claims.clamp32 uns (r x * r y)) ∧
    Computes3 (.imad g uns true d a b c) (Claims.info3 g d a b c) d a b c
      (fun x y z => Claims.clamp32 uns (r x * r y + r z)) ∧
    Computes1 (.iabs g true d a) (Claims.info1 g d a) d a
      (fun x => if x = 0x80000000 then 0x7FFFFFFF else if x.toInt < 0 then -x else x)

/-- R110 on pairs, without `.sat`: IADD64, IMAD64 and LEA modulo 2^64, and MOV.d of R115. -/
def Claims.PairArithmetic : Prop :=
  ∀ (g : Guard) (uns zext : Bool) (sh : Fin 8) (d : Dst) (a b c : Src) (s : State), s.plain = true →
    (let u : Info := { g := g, uses := [d2 d, u2 a, u2 b] }
     let r := s.begun u.uses
     u.executes s = true →
      Computes (.iadd64 g uns false d a b) u s (two d fun i => r.srcPair a i + r.srcPair b i) [] 0) ∧
    (let u : Info := { g := g, uses := [d2 d, u1 a, u1 b, u2 c] }
     let r := s.begun u.uses
     u.executes s = true →
      Computes (.imad64 g uns false d a b c) u s (two d fun i =>
        (if uns then (r.src a i).setWidth 64 * (r.src b i).setWidth 64
         else (r.src a i).signExtend 64 * (r.src b i).signExtend 64) + r.srcPair c i) [] 0) ∧
    (let u : Info := { g := g, uses := [d2 d, u2 a, u1 b] }
     let r := s.begun u.uses
     u.executes s = true →
      Computes (.lea g zext sh d a b) u s (two d fun i =>
        r.srcPair a i + ((if zext then (r.src b i).setWidth 64 else (r.src b i).signExtend 64) <<< sh.val)) [] 0) ∧
    (let u : Info := { g := g, uses := [d2 d, u2 a] }
     let r := s.begun u.uses
     u.executes s = true → Computes (.mov g true d a) u s (two d fun i => r.srcPair a i) [] 0)

/-- R113, R114: the bit instructions. A shift by 32 or more gives zeros, or copies of bit 31 for SAR. -/
def Claims.BitInstructions : Prop :=
  ∀ (g : Guard) (d : Dst) (a b : Src),
    Computes2 (.and g d a b) (Claims.info2 g d a b) d a b (fun x y => x &&& y) ∧
    Computes2 (.or g d a b) (Claims.info2 g d a b) d a b (fun x y => x ||| y) ∧
    Computes2 (.xor g d a b) (Claims.info2 g d a b) d a b (fun x y => x ^^^ y) ∧
    Computes2 (.shl g d a b) (Claims.info2 g d a b) d a b (fun x n => x <<< n.toNat) ∧
    Computes2 (.shr g d a b) (Claims.info2 g d a b) d a b (fun x n => x >>> n.toNat) ∧
    Computes2 (.sar g d a b) (Claims.info2 g d a b) d a b (fun x n => x.sshiftRight n.toNat) ∧
    Computes2 (.rot g false d a b) (Claims.info2 g d a b) d a b (fun x n => x.rotateLeft (n.toNat % 32)) ∧
    Computes2 (.rot g true d a b) (Claims.info2 g d a b) d a b (fun x n => x.rotateRight (n.toNat % 32)) ∧
    Computes1 (.popc g d a) (Claims.info1 g d a) d a
      (fun x => BitVec.ofNat 32 ((List.range 32).countP fun k => x.getLsbD k)) ∧
    Computes1 (.clz g d a) (Claims.info1 g d a) d a
      (fun x => BitVec.ofNat 32 (if x = 0 then 32 else 31 - Nat.log2 x.toNat)) ∧
    Computes1 (.brev g d a) (Claims.info1 g d a) d a (fun x => x.reverse) ∧
    Computes1 (.mov g false d a) (Claims.info1 g d a) d a (fun x => x)

/-- The position and effective length of R114. -/
def Claims.pos (b : Word) : Nat := b.toNat % 256
def Claims.len (b : Word) : Nat :=
  if b.toNat % 256 < 32 then min (b.toNat / 256 % 256) (32 - b.toNat % 256) else 0

/-- R114: BFE brings a field of A to bit 0 and extends it; BFI puts the low bits of A into C at a field; SEL of R110 chooses by
its predicate. -/
def Claims.FieldInstructions : Prop :=
  ∀ (g : Guard) (d : Dst) (a b c : Src) (p : Fin 8),
    Computes2 (.bfe g true d a b) (Claims.info2 g d a b) d a b
      (fun x y => BitVec.ofNat 32 (x.toNat / 2 ^ Claims.pos y % 2 ^ Claims.len y)) ∧
    Computes2 (.bfe g false d a b) (Claims.info2 g d a b) d a b
      (fun x y => (x.extractLsb' (Claims.pos y) (Claims.len y)).signExtend 32) ∧
    (∀ s : State, s.plain = true → (Claims.info3 g d a b c).executes s = true →
      let r := s.begun (Claims.info3 g d a b c).uses
      ∃ f : Nat → Word, Computes (.bfi g d a b c) (Claims.info3 g d a b c) s (one d f) [] 0 ∧
        ∀ i k, k < 32 → (f i).getLsbD k =
          if Claims.pos (r.src b i) ≤ k ∧ k < Claims.pos (r.src b i) + Claims.len (r.src b i)
          then (r.src a i).getLsbD (k - Claims.pos (r.src b i)) else (r.src c i).getLsbD k) ∧
    (let u : Info := { g := g, uses := [d1 d, u1 a, u1 b, .pin p] }
     ∀ s : State, s.plain = true → u.executes s = true →
      Computes (.sel g d a b p) u s (one d fun i =>
        if (s.here.pred p).getLsbD i then (s.begun u.uses).src a i else (s.begun u.uses).src b i) [] 0)

/-- R112, R116: ICMP's ten relations, PLOP's logic, PMOV's three forms; a predicate is written in the executing lanes. -/
def Obligations.PredicateInstructions : Prop :=
  ∀ (g : Guard) (d x y : Fin 8) (q : Dst) (a b : Src) (s : State), s.plain = true →
    (let u : Info := { g := g, uses := [.pout d, u1 a, u1 b] }
     let va := fun i => (s.begun u.uses).src a i
     let vb := fun i => (s.begun u.uses).src b i
     u.executes s = true →
      Computes (.icmp g .eq d a b) u s [] [(d, fun i => va i == vb i)] 0 ∧
      Computes (.icmp g .ne d a b) u s [] [(d, fun i => va i != vb i)] 0 ∧
      Computes (.icmp g .lt d a b) u s [] [(d, fun i => (va i).slt (vb i))] 0 ∧
      Computes (.icmp g .le d a b) u s [] [(d, fun i => (va i).sle (vb i))] 0 ∧
      Computes (.icmp g .gt d a b) u s [] [(d, fun i => (vb i).slt (va i))] 0 ∧
      Computes (.icmp g .ge d a b) u s [] [(d, fun i => (vb i).sle (va i))] 0 ∧
      Computes (.icmp g .ult d a b) u s [] [(d, fun i => (va i).ult (vb i))] 0 ∧
      Computes (.icmp g .ule d a b) u s [] [(d, fun i => (va i).ule (vb i))] 0 ∧
      Computes (.icmp g .ugt d a b) u s [] [(d, fun i => (vb i).ult (va i))] 0 ∧
      Computes (.icmp g .uge d a b) u s [] [(d, fun i => (vb i).ule (va i))] 0) ∧
    (let u : Info := { g := g, uses := [.pout d, .pin x, .pin y] }
     let px := fun i => (s.here.pred x).getLsbD i
     let py := fun i => (s.here.pred y).getLsbD i
     u.executes s = true →
      Computes (.plop g .and d x y) u s [] [(d, fun i => px i && py i)] 0 ∧
      Computes (.plop g .or d x y) u s [] [(d, fun i => px i || py i)] 0 ∧
      Computes (.plop g .xor d x y) u s [] [(d, fun i => xor (px i) (py i))] 0 ∧
      Computes (.plop g .andn d x y) u s [] [(d, fun i => px i && !py i)] 0 ∧
      Computes (.plop g .orn d x y) u s [] [(d, fun i => px i || !py i)] 0 ∧
      Computes (.plop g .not d x y) u s [] [(d, fun i => !px i)] 0) ∧
    (let u : Info := { g := g, uses := [d1 q, .pin x] }
     u.executes s = true → Computes (.pmov g (.mask q x)) u s (one q fun _ => s.here.pred x) [] 0) ∧
    (let u : Info := { g := g, uses := [.pout d, u1 a] }
     u.executes s = true →
      Computes (.pmov g (.set d a)) u s [] [(d, fun i => ((s.begun u.uses).src a i).getLsbD i)] 0 ∧
      Computes (.pmov g (.nz d a)) u s [] [(d, fun i => (s.begun u.uses).src a i != 0)] 0)

/-- The values of R111. -/
def Claims.quotient (uns sat : Bool) (x y : Word) : Word :=
  if y = 0 then 0xFFFFFFFF
  else if uns then x / y
  else if x = 0x80000000 ∧ y = 0xFFFFFFFF then (if sat then 0x7FFFFFFF else 0x80000000)
  else x.sdiv y
def Claims.remainder (uns : Bool) (x y : Word) : Word :=
  if y = 0 then x else if uns then x % y else x.srem y

/-- R111: IDIV and IREM issue as long-latency results (R49) of D with the values of R111, and raise no flag. -/
def Claims.Division : Prop :=
  ∀ (g : Guard) (la : Fin 16) (uns sat : Bool) (d : Dst) (a b : Src) (s : State),
    let u : Info := { g := g, uses := [d1 d, u1 a, u1 b], la := some la }
    let r := s.begun u.uses
    u.executes s = true →
      Completes (.idiv g la uns sat d a b) u s (fun c t =>
        t.longLat c la d 1 (fun _ i => Claims.quotient uns sat (r.src a i) (r.src b i)) 0) ∧
      Completes (.irem g la uns d a b) u s (fun c t =>
        t.longLat c la d 1 (fun _ i => Claims.remainder uns (r.src a i) (r.src b i)) 0)

/-- R36, R117: MOVSR writes a special register, a 64-bit one as a pair, from a group that executes alone. -/
def Obligations.ReadSpecialRegister : Prop :=
  ∀ (g : Guard) (d : Dst) (r : SReg) (s : State), s.plain = true →
    let u : Info := { g := g, uses := [if sregWide r then d2 d else d1 d] }
    u.executes s = true → (r = .fstat → s.here.flagsPending = false) →
      Computes (.movsr g d r) u s
        (if sregWide r then two d fun i => (s.begun u.uses).sreg r i
         else one d fun i => ((s.begun u.uses).sreg r i).setWidth 32) [] 0

/-! ## Floating point (04, 05 R118-R125) -/

/-- The operand that MOD leaves of a value (R52): the absolute value first, then the negation. -/
def Claims.operand (f : Fmt) (abs neg : Bool) (x : Nat) : Nat := f.modSrc abs neg x

/-- R118, R119 in binary32: each lane's result is the exact sum or product rounded once, flags are the OR over the executing
lanes (R103), and nothing else changes. -/
def Claims.SinglePrecision : Prop :=
  ∀ (g : Guard) (m : FMod) (d : Dst) (a b c : Src) (s : State), s.plain = true →
    let x := fun (r : State) i => Claims.operand f32 m.abs m.nega (r.src a i).toNat
    let y := fun (r : State) i => Claims.operand f32 m.abs m.negb (r.src b i).toNat
    let z := fun (r : State) i => Claims.operand f32 m.abs m.negc (r.src c i).toNat
    let gives := fun (i : Instr) (u : Info) (v : Nat → Nat × Flags) =>
      Computes i u s (one d fun l => BitVec.ofNat 32 (v l).1) [] (orFlags (s.ctx g).ex fun l => (v l).2)
    (let u : Info := { g := g, cls := .x, uses := [d1 d, u1 a, u1 b] }
     let r := s.begun u.uses
     u.executes s = true →
      gives (.fadd g m d a b) u (fun i => fpAdd f32 m.rm m.sat (x r i) (y r i)) ∧
      gives (.fmul g m d a b) u (fun i => fpMul f32 m.rm m.sat (x r i) (y r i)) ∧
      gives (.fmin g m d a b) u (fun i => fpMinMax f32 false (x r i) (y r i)) ∧
      gives (.fmax g m d a b) u (fun i => fpMinMax f32 true (x r i) (y r i))) ∧
    (let u : Info := { g := g, cls := .x, uses := [d1 d, u1 a, u1 b, u1 c] }
     let r := s.begun u.uses
     u.executes s = true → gives (.ffma g m d a b c) u (fun i => fpFma f32 m.rm m.sat (x r i) (y r i) (z r i))) ∧
    (let u : Info := { g := g, cls := .x, uses := [d1 d, u1 a] }
     let r := s.begun u.uses
     u.executes s = true → gives (.frnd g m d a) u (fun i => fpRound f32 m.rm (x r i)))

/-- The two halves of a paired instruction (R118): the low and the high element are treated alike and apart. -/
def Claims.paired (f : Nat → Nat × Flags) : Nat × Flags :=
  ((f 0).1 + 65536 * (f 16).1, (f 0).2 ||| (f 16).2)

/-- R118 on pairs of 16-bit elements. -/
def Claims.PairedHalves : Prop :=
  ∀ (g : Guard) (bf : Bool) (m : FMod) (d : Dst) (a b c : Src) (s : State), s.plain = true →
    let f : Fmt := if bf then bf16 else f16
    let e := fun (w : Word) k => w.toNat / 2 ^ k % 65536
    let x := fun (r : State) i k => Claims.operand f m.abs m.nega (e (r.src a i) k)
    let y := fun (r : State) i k => Claims.operand f m.abs m.negb (e (r.src b i) k)
    let z := fun (r : State) i k => Claims.operand f m.abs m.negc (e (r.src c i) k)
    let gives := fun (i : Instr) (u : Info) (v : Nat → Nat × Flags) =>
      Computes i u s (one d fun l => BitVec.ofNat 32 (v l).1) [] (orFlags (s.ctx g).ex fun l => (v l).2)
    (let u : Info := { g := g, cls := .x, uses := [d1 d, u1 a, u1 b] }
     let r := s.begun u.uses
     u.executes s = true →
      gives (.hadd2 g bf m d a b) u (fun i => Claims.paired fun k => fpAdd f m.rm m.sat (x r i k) (y r i k)) ∧
      gives (.hmul2 g bf m d a b) u (fun i => Claims.paired fun k => fpMul f m.rm m.sat (x r i k) (y r i k))) ∧
    (let u : Info := { g := g, cls := .x, uses := [d1 d, u1 a, u1 b, u1 c] }
     let r := s.begun u.uses
     u.executes s = true →
      gives (.hfma2 g bf m d a b c) u (fun i => Claims.paired fun k => fpFma f m.rm m.sat (x r i k) (y r i k) (z r i k)))

/-- R118, R119 in binary64, on pairs of registers. -/
def Claims.DoublePrecision : Prop :=
  ∀ (g : Guard) (m : FMod) (d : Dst) (a b c : Src) (s : State), s.plain = true →
    let x := fun (r : State) i => Claims.operand f64 m.abs m.nega (r.srcDbl a i)
    let y := fun (r : State) i => Claims.operand f64 m.abs m.negb (r.srcDbl b i)
    let z := fun (r : State) i => Claims.operand f64 m.abs m.negc (r.srcDbl c i)
    let gives := fun (i : Instr) (u : Info) (v : Nat → Nat × Flags) =>
      Computes i u s (two d fun l => BitVec.ofNat 64 (v l).1) [] (orFlags (s.ctx g).ex fun l => (v l).2)
    (let u : Info := { g := g, cls := .x, uses := [d2 d, u2 a, u2 b] }
     let r := s.begun u.uses
     u.executes s = true →
      gives (.dadd g m d a b) u (fun i => fpAdd f64 m.rm m.sat (x r i) (y r i)) ∧
      gives (.dmul g m d a b) u (fun i => fpMul f64 m.rm m.sat (x r i) (y r i)) ∧
      gives (.dmin g m d a b) u (fun i => fpMinMax f64 false (x r i) (y r i)) ∧
      gives (.dmax g m d a b) u (fun i => fpMinMax f64 true (x r i) (y r i))) ∧
    (let u : Info := { g := g, cls := .x, uses := [d2 d, u2 a, u2 b, u2 c] }
     let r := s.begun u.uses
     u.executes s = true → gives (.dfma g m d a b c) u (fun i => fpFma f64 m.rm m.sat (x r i) (y r i) (z r i)))

/-- The relation of R120 between two values: with a NaN, only `.ne` and `.nan` hold. -/
def Claims.related (rel : FRel) (x y : FVal) : Bool :=
  if x.isNan || y.isNan then rel == .ne || rel == .nan
  else match rel with
    | .eq => x.cmp y == 0
    | .ne => x.cmp y != 0
    | .lt => decide (x.cmp y < 0)
    | .le => decide (x.cmp y ≤ 0)
    | .gt => decide (0 < x.cmp y)
    | .ge => decide (0 ≤ x.cmp y)
    | .num => true
    | .nan => false

/-- NV of R120: a signalling NaN raises it in every relation, a quiet one in the four orderings. -/
def Claims.relationFlags (rel : FRel) (x y : FVal) : Flags :=
  if x.isSig || y.isSig || ((x.isNan || y.isNan) && (rel == .lt || rel == .le || rel == .gt || rel == .ge)) then Flags.nv
  else 0

/-- R120: FCMP and DCMP write a predicate in the executing lanes and raise NV only. -/
def Obligations.FloatCompare : Prop :=
  ∀ (g : Guard) (rel : FRel) (m : FMod) (d : Fin 8) (a b : Src) (s : State), s.plain = true →
    (let u : Info := { g := g, cls := .x, uses := [.pout d, u1 a, u1 b] }
     let r := s.begun u.uses
     let x := fun i => f32.value (Claims.operand f32 m.abs m.nega (r.src a i).toNat)
     let y := fun i => f32.value (Claims.operand f32 m.abs m.negb (r.src b i).toNat)
     u.executes s = true →
      Computes (.fcmp g rel m d a b) u s [] [(d, fun i => Claims.related rel (x i) (y i))]
        (orFlags (s.ctx g).ex fun i => Claims.relationFlags rel (x i) (y i))) ∧
    (let u : Info := { g := g, cls := .x, uses := [.pout d, u2 a, u2 b] }
     let r := s.begun u.uses
     let x := fun i => f64.value (Claims.operand f64 m.abs m.nega (r.srcDbl a i))
     let y := fun i => f64.value (Claims.operand f64 m.abs m.negb (r.srcDbl b i))
     u.executes s = true →
      Computes (.dcmp g rel m d a b) u s [] [(d, fun i => Claims.related rel (x i) (y i))]
        (orFlags (s.ctx g).ex fun i => Claims.relationFlags rel (x i) (y i)))

/-- R121: FCVT completes with the conversion of each lane's value; a 64-bit side is a pair. -/
def Obligations.Conversions : Prop :=
  ∀ (g : Guard) (op : CvtOp) (m : FMod) (d : Dst) (a : Src) (s : State), s.plain = true →
    let wideS := (cvtFrom op).width == 64
    let wideD := (cvtTo op).width == 64
    let u : Info := { g := g, cls := .x, uses := [if wideD then d2 d else d1 d, if wideS then u2 a else u1 a] }
    let r := s.begun u.uses
    let v := fun i => cvt op m (if wideS then (r.srcPair a i).toNat else (r.src a i).toNat)
    u.executes s = true →
      Computes (.fcvt g op m d a) u s
        (if wideD then two d fun i => BitVec.ofNat 64 (v i).1 else one d fun i => BitVec.ofNat 32 (v i).1) []
        (orFlags (s.ctx g).ex fun i => (v i).2)

/-- R122: the special functions issue as long-latency results with the function's value, rounded once. -/
def Claims.SpecialFunctions : Prop :=
  ∀ (g : Guard) (la : Fin 16) (neg abs : Bool) (d : Dst) (a : Src) (s : State),
    (let u : Info := { g := g, cls := .x, uses := [d1 d, u1 a], la := some la }
     let v := fun i => f32.value (Claims.operand f32 abs neg ((s.begun u.uses).src a i).toNat)
     let gives := fun (i : Instr) (f : FVal → Nat × Flags) =>
      Completes i u s fun c t => t.longLat c la d 1 (fun _ l => BitVec.ofNat 32 (f (v l)).1)
        (orFlags c.ex fun l => (f (v l)).2)
     u.executes s = true →
      gives (.rcp g la neg abs d a) (fpRcp f32) ∧ gives (.rsq g la neg abs d a) fpRsq ∧
      gives (.sqrt g la neg abs d a) (fpSqrt f32) ∧ gives (.ex2 g la neg abs d a) ex2CR ∧
      gives (.lg2 g la neg abs d a) fpLg2 ∧ gives (.sin g la neg abs d a) fpSin ∧
      gives (.cos g la neg abs d a) fpCos ∧ gives (.tanh g la neg abs d a) fpTanh) ∧
    (let u : Info := { g := g, cls := .x, uses := [d2 d, u2 a], la := some la }
     let v := fun i => f64.value (Claims.operand f64 abs neg ((s.begun u.uses).srcPair a i).toNat)
     let gives := fun (i : Instr) (f : FVal → Nat × Flags) =>
      Completes i u s fun c t => t.longLat c la d 2 (fun k l => (BitVec.ofNat 64 (f (v l)).1).extractLsb' (32 * k) 32)
        (orFlags c.ex fun l => (f (v l)).2)
     u.executes s = true →
      gives (.drcp g la neg abs d a) (fpRcp f64) ∧ gives (.dsqrt g la neg abs d a) (fpSqrt f64))

/-- A check of an instruction passes: it goes on to what follows. -/
def Claims.passes (f : Act → Act) : Prop := ∀ go, f go = go

/-- R124, R125: TBLEV reads the bank that is current at its issue; TBLSW makes the other one current. -/
def Claims.ActivationTable : Prop :=
  ∀ (g : Guard) (la : Fin 16) (d : Dst) (a b c : Src) (s : State),
    (let u : Info := { g := g, cls := .x, uses := [d1 d, u1 a, u1 b, u1 c], la := some la, noCalleeSp := true, path := some .mx }
     let r := s.begun u.uses
     let v := fun i => tblLane r.myTeam (r.src a i).toNat (r.src b i).toNat (r.src c i).toNat
     u.executes s = true →
      Claims.passes (tblPoison (s.ctx g) r fun i =>
        (tblIndex (r.src a i).toNat (r.src b i).toNat (r.src c i).toNat).1) →
      Completes (.tblev g la d a b c) u s fun x t =>
        t.longLat x la d 1 (fun _ i => BitVec.ofNat 32 (v i).1) (orFlags x.ex fun i => (v i).2)) ∧
    (let u : Info := { g := g, noCalleeSp := true }
     u.executes s = true → Completes (.tblsw g) u s fun _ t =>
      t.modMyTeam fun x => { x with st := { x.st with bankCur := !x.st.bankCur } })

/-! ## Group operations (05 R126-R131, 12 R270, R271) -/

/-- R126, R128: VOTE over the executing lanes of each tile. -/
def Claims.Vote : Prop :=
  ∀ (g : Guard) (p a : Fin 8) (d : Dst) (s : State), s.plain = true →
    let w := s.here.partw.toNat
    let tile := fun i => (List.range 32).filter fun j => (s.ctx g).ex.getLsbD j && j / w == i / w
    let yes := fun i => (tile i).filter fun j => (s.here.pred a).getLsbD j
    (let u : Info := { g := g, uses := [.pout p, .pin a] }
     u.executes s = true →
      Computes (.vote g (.every p) a) u s [] [(p, fun i => (tile i).all fun j => (s.here.pred a).getLsbD j)] 0 ∧
      Computes (.vote g (.some p) a) u s [] [(p, fun i => (tile i).any fun j => (s.here.pred a).getLsbD j)] 0 ∧
      Computes (.vote g (.same p) a) u s []
        [(p, fun i => ((tile i).all fun j => (s.here.pred a).getLsbD j) || (yes i).isEmpty)] 0) ∧
    (let u : Info := { g := g, uses := [d1 d, .pin a] }
     u.executes s = true →
      Computes (.vote g (.lanes d) a) u s (one d fun i => maskOf fun j => (yes i).contains j) [] 0 ∧
      Computes (.vote g (.count d) a) u s (one d fun i => BitVec.ofNat 32 (yes i).length) [] 0 ∧
      Computes (.vote g (.first d) a) u s
        (one d fun i => BitVec.ofNat 32 (match yes i with | [] => w | j :: _ => j % w)) [] 0)

/-- The lane that SHFL reads (R129), W the tile width. -/
def Claims.sourceLane (m : ShflMode) (w i n : Nat) : Nat :=
  let pos := i % w
  match m with
  | .pick => i - pos + n % w
  | .lo => if n ≤ pos then i - n else i
  | .hi => if pos + n < w then i + n else i
  | .swz => i - pos + (pos ^^^ (n % w))
  | .rol => i - pos + (pos + n) % w
  | .ror => i - pos + (pos + (w - n % w)) % w

/-- R129, R270, R271: SHFL, MATCH and COMPACT. -/
def Claims.LaneMoves : Prop :=
  ∀ (g : Guard) (mode : ShflMode) (d : Dst) (a b : Src) (p : Fin 8) (s : State), s.plain = true →
    let w := s.here.partw.toNat
    let tile := fun i => (List.range 32).filter fun j => (s.ctx g).ex.getLsbD j && j / w == i / w
    (let u : Info := { g := g, uses := [d1 d, u1 a, u1 b] }
     let r := s.begun u.uses
     u.executes s = true →
      Computes (.shfl g mode d a b) u s
        (one d fun i => r.src a (Claims.sourceLane mode w i (r.src b i).toNat)) [] 0 ∧
      Computes (.matchLanes g false d a b) u s (one d fun i => maskOf fun j =>
        (tile i).contains j && (r.src a j &&& r.src b j) == (r.src a i &&& r.src b i)) [] 0) ∧
    (let u : Info := { g := g, uses := [d1 d, u2 a, u1 b] }
     let r := s.begun u.uses
     let key := fun j => (r.srcPair a j).setWidth 32 ++ ((r.srcPair a j).extractLsb' 32 32 &&& r.src b j)
     u.executes s = true →
      Computes (.matchLanes g true d a b) u s (one d fun i => maskOf fun j => (tile i).contains j && key j == key i) [] 0) ∧
    (let u : Info := { g := g, uses := [d1 d, u1 a, u1 b, .pin p] }
     let r := s.begun u.uses
     u.executes s = true →
      Computes (.compact g d a b p) u s (one d fun i =>
        match ((tile i).filter fun j => (s.here.pred p).getLsbD j)[(tile i).idxOf i]? with
        | some j => r.src a j
        | none => r.src b i) [] 0)

/-- R130, R131: REDG's tree and SCAN's chain over each tile, with the OR of their flags. -/
def Claims.Reductions : Prop :=
  ∀ (g : Guard) (op : RedgOp) (sc : ScanOp) (seg : Option (Fin 8)) (rm : Rm) (d : Dst) (a : Src) (s : State),
    s.plain = true →
    (let u : Info := { g := g, uses := [d1 d, u1 a] }
     let r := s.begun u.uses
     let ex := (s.ctx g).ex
     let v := fun i => redgTree op rm ((List.range r.tileW).map fun k =>
      if ex.getLsbD (tileBase r.tileW i + k) then some (r.src a (tileBase r.tileW i + k), 0) else none)
     u.executes s = true →
      Computes (.redg g op rm d a) u s (one d fun i => (v i).1) [] (orFlags ex fun i => (v i).2)) ∧
    (let u : Info := { g := g, uses := [d1 d, u1 a] ++ (match seg with | some p => [Use.pin p] | none => []) }
     let r := s.begun u.uses
     let starts := fun i => match seg with | some p => (s.here.pred p).getLsbD i | none => false
     let v := scanAll r sc rm starts a (s.ctx g).ex
     u.executes s = true →
      Computes (.scan g sc seg rm d a) u s
        (one d fun i => ((v.1.find? fun x => x.1 == i).map (·.2)).getD 0) [] v.2)

/-- R127: PART sets the tile width of its stream, and only a width of the five. -/
def Claims.TileWidth : Prop :=
  ∀ (g : Guard) (b : Src) (s : State),
    let u : Info := { g := g, uses := [u1 b], lanes := false }
    let w := (s.begun u.uses).src b (low s.cur.lanes)
    u.executes s = true →
      ((w = 2 ∨ w = 4 ∨ w = 8 ∨ w = 16 ∨ w = 32) →
        Completes (.part g b) u s fun _ t => t.modHere fun st => { st with partw := w }) ∧
      (¬ (w = 2 ∨ w = 4 ∨ w = 8 ∨ w = 16 ∨ w = 32) →
        exec (.part g b) s = .next (s.trapHere ⟨1, 0, s.cur.pc, s.cur.lanes⟩))

/-! ## Narrow data (06 R133-R139) -/

/-- R139: packing and unpacking of six- and four-bit codes over all 32 lanes. -/
def Obligations.Packing : Prop :=
  ∀ (g : Guard) (sgn : Bool) (d : Dst) (a : Src) (s : State), s.plain = true →
    let u : Info := { g := g, cls := .x, uses := [d1 d, u1 a] }
    let r := s.begun u.uses
    let codes := fun w => (List.range 32).foldl (fun x j => x + (r.src a j).toNat % 2 ^ w * 2 ^ (w * j)) 0
    let words := fun w => (List.range w).foldl (fun x k => x + (r.src a k).toNat * 2 ^ (32 * k)) 0
    let code := fun w i => (BitVec.ofNat w (words w / 2 ^ (w * i)))
    u.executes s = true →
      Computes (.pack6 g d a) u s (one d fun i => BitVec.ofNat 32 (codes 6 / 2 ^ (32 * i))) [] 0 ∧
      Computes (.pack4 g d a) u s (one d fun i => BitVec.ofNat 32 (codes 4 / 2 ^ (32 * i))) [] 0 ∧
      Computes (.unpk6 g sgn d a) u s
        (one d fun i => if sgn then (code 6 i).signExtend 32 else (code 6 i).setWidth 32) [] 0 ∧
      Computes (.unpk4 g sgn d a) u s
        (one d fun i => if sgn then (code 4 i).signExtend 32 else (code 4 i).setWidth 32) [] 0

/-- A tensor entry is read, checked and given to what follows, in a state that the reading may have changed (R100). -/
def Claims.entry (c : Ctx) (tid : Nat) (s : State) (e : Tensor) (t : State) : Prop := ∀ go, tensorAt c tid s go = go e t

/-- R133-R138: the conversions through a tensor entry, once the entry is read and of the kind that the instruction takes. -/
def Obligations.NarrowConversions : Prop :=
  ∀ (g : Guard) (clamp src : Bool) (rm : Rm) (d : Dst) (a b : Src) (tid : BitVec 12) (s r : State) (e : Tensor),
    (let u : Info := { g := g, cls := .x, uses := [d1 d, u1 a, u1 b] }
     u.executes s = true → Claims.entry (s.ctx g) tid.toNat (s.begun u.uses) e r →
      (quantEntry e b = true →
        Completes (.qnt g clamp rm d a b tid) u s (fun c _ =>
          (if rm = .sr then r.stepGens c.ex else r).setRes d c.ex fun i =>
            (NFmt.of e.nfd).round rm (r.draw i) (clamp || e.blk != 0)
              (if e.blk = 0 then f32.value (r.src a i).toNat
               else if (r.src b i).toNat % 256 = 255 then .nan false
               else (f32.value (r.src a i).toNat).scaled (127 - ((r.src b i).toNat % 256 : Nat))) false) ∧
        Completes (.dqnt g d a b tid) u s (fun c _ => r.setRes d c.ex fun i =>
          roundTo f32 .rn false (if e.blk = 0 then (NFmt.of e.nfd).value (r.src a i).toNat
            else ((NFmt.of e.nfd).value (r.src a i).toNat).timesScale (r.src b i).toNat))) ∧
      (e.etype = 0 → e.blk ≠ 0 →
        Completes (.bscale g d a b tid) u s (fun c _ => r.setDst d c.ex fun i =>
          BitVec.ofNat 32 (ue8Choose
            (((maskLanes c.ex).filter fun j => 2 * j / blockLen e.blk == 2 * i / blockLen e.blk).flatMap fun j =>
              [f32.value (r.src a j).toNat, f32.value (r.src b j).toNat]) (NFmt.of e.nfd))))) ∧
    (let u : Info := { g := g, cls := .x, uses := [d1 d, u1 a] }
     u.executes s = true → Claims.entry (s.ctx g) tid.toNat (s.begun u.uses) e r → cvtfMode e src rm = true →
      Completes (.cvtf g src rm d a tid) u s fun c _ =>
        (if rm = .sr then r.stepGens c.ex else r).setRes d c.ex fun i =>
          if src then cvtfFrom e (r.src a i).toNat else cvtfTo e rm (r.draw i) (f32.value (r.src a i).toNat)) ∧
    (∀ (v : Tensor) (r' : State),
      let u : Info := { g := g, cls := .x, uses := [d1 d, u1 a, u1 b], path := some .mx }
      let j := fun i => (r'.src b i).toNat
      u.executes s = true → Claims.entry (s.ctx g) tid.toNat (s.begun u.uses) e r → e.smode = 1 →
      Claims.entry (s.ctx g) e.smid r v r' → v.smooths e.cols = true → v.space = 1 →
      Claims.passes (readPad (s.ctx g) r' (v.spans
        (((maskLanes (s.ctx g).ex).filter fun i => decide (j i < e.cols)).map fun i => (0, j i)))) →
      Completes (.smooth g d a b tid) u s fun c _ => r'.setRes d c.ex fun i =>
        if e.cols ≤ j i then (f32.qnan, Flags.nv)
        else fpDiv f32 .rn (f32.value (r'.src a i).toNat) (r'.padValue s.cur.team v 0 (j i)))

/-! ## Control flow, traps and special registers (07, 17, 18) -/

/-- A check of an instruction passes and gives x to what follows. -/
def Claims.gives {α : Type} (f : (α → Act) → Act) (x : α) : Prop := ∀ go, f go = go x

/-- R41, R164, R165: a branch moves its executing lanes to their targets and the other issuing lanes to the next slot, once
every target is in the LPC layout and its TGT bit has been found set; CALL first writes the next slot into its pair. With
`.u` all issuing lanes execute and have one target. -/
def Obligations.Branches : Prop :=
  ∀ (g : Guard) (u : Bool) (slot : Fin 5) (toff : BitVec 37) (d : Dst) (a : Src) (s r : State),
    let c := s.ctx g
    let uniform := fun (f : Nat → DWord) => u = true → c.ex = c.iss ∧ ∀ i ∈ maskLanes c.ex, f i = f (low c.ex)
    let checked := fun (us : List Use) (f : Nat → DWord) =>
      (∀ i ∈ maskLanes c.ex, pcValid (f i) = true) ∧
      Claims.gives (fun go => (s.begun us).checkTargets c c.ex f go (maskLanes c.ex)) r
    let moves := fun (t : State) (f : Nat → DWord) =>
      (t.advance c.id (c.iss &&& ~~~c.ex)).modStream c.id fun st => st.setPcs c.ex f
    (let i : Info := { g := g, lanes := false }
     let f := fun _ : Nat => branchPc c.pc slot toff
     i.executes s = true → uniform f → checked i.uses f →
      CompletesAt (.bra g u slot toff) i s fun _ _ => moves r f) ∧
    (let i : Info := { g := g, uses := [d2 d], lanes := false }
     let f := fun _ : Nat => branchPc c.pc slot toff
     i.executes s = true → uniform f → checked i.uses f →
      CompletesAt (.call g u d slot toff) i s fun _ _ => moves (r.setPair d c.ex fun _ => nextPc c.pc) f) ∧
    (let i : Info := { g := g, uses := [u2 a], lanes := false }
     let f := fun k => (s.begun i.uses).srcPair a k
     i.executes s = true → uniform f → checked i.uses f →
      CompletesAt (.brx g u a) i s (fun _ _ => moves r f) ∧ CompletesAt (.ret g u a) i s (fun _ _ => moves r f))

/-- R42, R164, R165: a `.u` branch whose lanes differ traps with code 4; a register target outside the LPC layout with code 2, at the
lowest such lane's target; a target whose line has been fetched and whose TGT bit is clear with code 2; and in all of them the lanes
stay. That the target whose last lane is the lowest is checked first, and that TLANE then names every executing lane, are
the model's choices (log 48). -/
def Obligations.BranchTraps : Prop :=
  ∀ (g : Guard) (u : Bool) (slot : Fin 5) (toff : BitVec 37) (d : Dst) (a : Src) (s : State),
    let c := s.ctx g
    let ls := maskLanes c.ex
    let traps := fun (i : Instr) (us : List Use) (f : Nat → DWord) =>
      let found := fun (k : Nat) => (s.begun us).fetchedLine c.id (pcLine (f k))
      ({ g := g, uses := us, lanes := false } : Info).executes s = true →
      (u = true → (c.ex ≠ c.iss ∨ ∃ k ∈ ls, f k ≠ f (low c.ex)) → exec i s = .next (s.trapHere ⟨4, 0, c.pc, c.iss⟩)) ∧
      ((u = true → c.ex = c.iss ∧ ∀ k ∈ ls, f k = f (low c.ex)) →
        (∀ k ∈ ls, pcValid (f k) = false → (∀ j ∈ ls, j < k → pcValid (f j) = true) →
          exec i s = .next (s.trapHere ⟨2, 0, f k, maskOf fun j => c.ex.getLsbD j && !pcValid (f j)⟩)) ∧
        ((∀ k ∈ ls, pcValid (f k) = true) → ∀ k ∈ ls, ∀ l : FetchLine,
          (∀ j ∈ ls, k < j → f j ≠ f k) →
          (∀ j ∈ ls, j < k → f j = f k ∨ ∃ l, found j = some l ∧ l.tgt (pcSlot (f j)) = true) →
          found k = some l → l.tgt (pcSlot (f k)) = false → exec i s = .next (s.trapHere ⟨2, 0, f k, c.ex⟩)))
    traps (.bra g u slot toff) [] (fun _ => branchPc c.pc slot toff) ∧
    traps (.call g u d slot toff) [d2 d] (fun _ => branchPc c.pc slot toff) ∧
    traps (.brx g u a) [u2 a] (fun k => (s.begun [u2 a]).srcPair a k) ∧
    traps (.ret g u a) [u2 a] (fun k => (s.begun [u2 a]).srcPair a k)

/-- An instruction whose guard selects no lane issues: it pushes an entry of zeros to each queue that it names as a destination, its
lanes pass on, and where it names no queue nothing else changes. -/
def Claims.noLane (i : Instr) (u : Info) (s : State) : Prop :=
  u.admits s = true → (s.ctx u.g).ex = 0 →
    exec i s = .next (((s.begun u.uses).pushZeros u.uses).passed u.uses (s.ctx u.g)) ∧
    (popsOf u.uses = [] → pushesOf u.uses = [] → Computes i u s [] [] 0)

/-- R18, R48: an issue that no lane executes has no effect but its queue pushes and pops; said of an instruction of each shape. -/
def Claims.NoLaneExecutes : Prop :=
  ∀ (g : Guard) (uns sat : Bool) (m : FMod) (rel : FRel) (mode : ShflMode) (la : Fin 16) (size : Size) (f : Bool) (sc : Scope)
    (op : FarOp) (sem : Sem) (p q : Fin 8) (d : Dst) (a b e : Src) (l : LOp) (adr : AOp) (tag : Fin 8) (s : State), s.plain = true →
    Claims.noLane (.iadd g uns sat d a b) (Claims.info2 g d a b) s ∧
    Claims.noLane (.fadd g m d a b) { g := g, cls := .x, uses := [d1 d, u1 a, u1 b] } s ∧
    Claims.noLane (.fcmp g rel m p a b) { g := g, cls := .x, uses := [.pout p, u1 a, u1 b] } s ∧
    Claims.noLane (.plop g .and p q q) { g := g, uses := [.pout p, .pin q, .pin q] } s ∧
    Claims.noLane (.shfl g mode d a b) { g := g, uses := [d1 d, u1 a, u1 b] } s ∧
    Claims.noLane (.idiv g la uns sat d a b) { g := g, uses := [d1 d, u1 a, u1 b], la := some la } s ∧
    Claims.noLane (.ld g la size f sc d l)
      { g := g, uses := [.dst d size.regs, u1 l.b, .line l.ln], la := some la, path := some .ls } s ∧
    Claims.noLane (.st g size f sc l b) { g := g, uses := [u1 l.b, .src b size.regs, .line l.ln], path := some .ls } s ∧
    Claims.noLane (.amo g la op sem sc d adr b)
      { g := g, uses := [.dst d (farDst op), u2 adr.a, u1 adr.b, .src b (farSrc op)], la := some la, cls := .a, path := some .fr } s ∧
    Claims.noLane (.red g op f sc adr b)
      { g := g, uses := [u2 adr.a, u1 adr.b, .src b (farSrc op)], cls := .a, path := some .fr } s ∧
    Claims.noLane (.bar g sc) (barInfo g sc []) s ∧
    Claims.noLane (.cpy g f tag a b e) (engInfo g [u2 a, u1 b, u1 e]) s ∧
    Claims.noLane (.trap g 0) { g := g } s ∧
    Claims.noLane (.exit g) { g := g, noHandler := true, noCallee := true } s

/-- R64, R18, R48: NOP takes an issue slot, and nothing but its lanes' program counters changes; so does an instruction that no lane
executes, beside its queues. -/
def Obligations.NopChangesNothing : Prop :=
  (∀ s : State, let u : Info := { g := ⟨false, 0⟩ }
    u.executes s = true → s.plain = true → Computes .nop u s [] [] 0) ∧ Claims.NoLaneExecutes

/-- R197, R166, R185: YIELD ends its stream's turn; EXIT and TDONE take the executing lanes away and end a stream without
lanes, once no checkpoint of the team is pending where they end a group (R366); TDONE first records a task's status where the lane
has recorded none. That lanes of the A stream of a split group leave DECL alone is the model's choice (log 15). -/
def Claims.YieldAndLeave : Prop :=
  ∀ (g : Guard) (a : Src) (s : State),
    (let u : Info := { g := g }
     u.executes s = true → Completes (.yield g) u s fun _ t => t.endTurn) ∧
    (let u : Info := { g := g, noHandler := true, noCallee := true }
     let r := s.begun u.uses
     u.executes s = true → r.endHolds s.cur.id (r.here.amask &&& ~~~(s.ctx g).ex) = false →
      Completes (.exit g) u s fun c t => (t.dropLanes c.id c.ex).endStream c.id) ∧
    (let u : Info := { g := g, uses := [u1 a], noHandler := true, noCallee := true, wave := true }
     let r := s.begun u.uses
     u.executes s = true → r.endHolds s.cur.id (r.here.amask &&& ~~~(s.ctx g).ex) = false → ∃ m : SMap Word,
      Completes (.tdone g a) u s (fun c t =>
        ((t.modMyTeam fun x => { x with taskStatus := m }).dropLanes c.id c.ex).endStream c.id) ∧
      ∀ i < 32, SMap.get 0 m i =
        if (s.ctx g).ex.getLsbD i ∧ SMap.get 0 r.myTeam.taskStatus i = 0 then r.src a i
        else SMap.get 0 r.myTeam.taskStatus i)

/-- R169: ENROL puts its lanes into the enrolled set, PARK holds the enrolled ones among its lanes as arrived and lets the
others pass, STRIKE takes its lanes from both sets; each then looks whether every enrolled lane has arrived. -/
def Claims.Rejoin : Prop :=
  ∀ (g : Guard) (n : Fin 4) (s : State),
    let u : Info := { g := g, uses := [.rejoin n], level := 1, noHandler := true }
    u.executes s = true →
      Completes (.enrol g n) u s (fun c t => t.modMyGroup fun x =>
        Group.checkRejoin { x with c.rjEnr := SMap.set 0 x.c.rjEnr n.val (x.enrolled n.val ||| c.ex) } n.val) ∧
      CompletesAt (.park g n) u s (fun c t =>
        let held := c.ex &&& t.myGroup.enrolled n.val
        ((t.advance c.id (c.iss &&& ~~~held)).modHere fun st => st.setHolds held (some (.park n.val))).modMyGroup fun x =>
          Group.checkRejoin { x with c.rjArr := SMap.set 0 x.c.rjArr n.val (x.arrived n.val ||| held) } n.val) ∧
      Completes (.strike g n) u s (fun c t => t.modMyGroup fun x =>
        Group.checkRejoin { x with c.rjEnr := SMap.set 0 x.c.rjEnr n.val (x.enrolled n.val &&& ~~~c.ex),
                                   c.rjArr := SMap.set 0 x.c.rjArr n.val (x.arrived n.val &&& ~~~c.ex) } n.val)

/-- R168, R350, R352: BRK raises code 12 with information 255 and its number in TADR bits 63:56 above the program counter,
TRAP raises code 15 with its number, after the lanes have passed on; RGN counts the region. -/
def Claims.SoftwareTraps : Prop :=
  ∀ (g : Guard) (num : BitVec 8) (region : BitVec 16) (s : State),
    (let u : Info := { g := g }
     let c := s.ctx g
     let r := (s.begun u.uses).advance c.id c.ex
     u.executes s = true →
      exec (.brk g num) s =
        .next (r.trapHere ⟨12, 255, num.setWidth 64 <<< 56 ||| (c.pc &&& 0x00FFFFFFFFFFFFFF), c.ex⟩) ∧
      exec (.trap g num) s = .next (r.trapHere ⟨15, num.toNat, c.pc, c.ex⟩)) ∧
    (let u : Info := { g := g, noHandler := true, lanes := false }
     u.executes s = true →
      (s.cur.lanes = s.here.amask →
        Completes (.rgn g region) u s fun c t =>
          t.modHere fun st => { st with rgncnt := st.rgncnt + 1, rgnEntry := nextPc c.pc }) ∧
      (s.cur.lanes ≠ s.here.amask → exec (.rgn g region) s = .next (s.trapHere ⟨4, 0, s.cur.pc, s.cur.lanes⟩)))

/-- R354: ERET returns its stream from the handler, as `returnFrom` says; outside a handler it is an illegal instruction
(R397). -/
def Claims.TrapReturn : Prop :=
  ∀ (g : Guard) (re : Bool) (s : State),
    let u : Info := { g := g, level := 1, handlerOnly := true, lanes := false, illegal := s.here.mode == .save }
    (u.executes s = true → s.cur.lanes = s.here.amask → s.here.mode = .handler →
      (s.begun u.uses).endHolds s.cur.id (s.here.kept.m0 &&& s.here.kept.amask) = false →
      CompletesAt (.eret g re) u s fun c t => t.returnFrom c.id re) ∧
    (s.here.live = true → s.cur.lanes ≠ 0 → s.here.mode = .normal → s.checkDecode u = none →
      exec (.eret g re) s = .next (s.trapHere ⟨1, 0, s.cur.pc, s.cur.lanes⟩))

/-- The information of SETSR. -/
def Claims.setsr (g : Guard) (r : SReg) (a : Src) : Info :=
  { g := g, uses := [if sregWide r then u2 a else u1 a],
    level := match r with | .fstat => 0 | .asid => 2 | .kvroot => 2 | _ => 1, noCallee := r == .asid || r == .kvroot }

/-- R324, R343: SETSR writes its register with the lowest executing lane's value; in handler mode the trap registers take
theirs at ERET. -/
def Claims.WriteSpecialRegister : Prop :=
  ∀ (g : Guard) (a : Src) (s : State),
    let i := low (s.ctx g).ex
    let w := fun (r : SReg) => (s.begun (Claims.setsr g r a).uses).src a i
    let x := fun (r : SReg) => (s.begun (Claims.setsr g r a).uses).srcPair a i
    let sets := fun (r : SReg) (f : State → State) =>
      (Claims.setsr g r a).executes s = true → Completes (.setsr g r a) (Claims.setsr g r a) s fun _ t => f t
    let later := fun (k : Nat) (v : DWord) (t : State) => t.modHere fun st =>
      { st with kept := { st.kept with later := SMap.set none st.kept.later k (some v) } }
    (s.here.flagsPending = false → (w .fstat).toNat < 32 →
      sets .fstat fun t => t.modHere fun st => { st with fstat := w .fstat }) ∧
    (s.here.mode = .normal →
      ((w .tcause).toNat < 131072 → sets .tcause fun t => t.modHere fun st => { st with tcause := w .tcause }) ∧
      (sets .tadr fun t => t.modHere fun st => { st with tadr := x .tadr }) ∧
      (sets .tlane fun t => t.modHere fun st => { st with tlane := w .tlane })) ∧
    (s.here.mode ≠ .normal →
      ((w .tcause).toNat < 131072 → sets .tcause (later 0x15 ((w .tcause).setWidth 64))) ∧
      sets .tadr (later 0x16 (x .tadr)) ∧ sets .tlane (later 0x17 ((w .tlane).setWidth 64))) ∧
    (sets .rgncnt fun t => t.modHere fun st => { st with rgncnt := w .rgncnt }) ∧
    ((x .kvroot).toNat % 64 = 0 → (x .kvroot).toNat < 2 ^ 52 →
      sets .kvroot fun t => t.modMyGroup fun y => { y with c.kvroot := x .kvroot }) ∧
    ((w .asid).toNat < 65536 → (∀ p ∈ (s.begun (Claims.setsr g .asid a).uses).myGroup.c.lines, p.2.st = .empty) →
      sets .asid fun t => t.modMyGroup fun y => { y with c.asid := (w .asid).setWidth 16 })

/-- R324, R354: SETSR to AMASK and LPC. In a handler they set what ERET restores; outside one AMASK takes the lanes it leaves
out as EXIT does, and LPC moves each executing lane after the checks of a branch, a lane that leaves its place struck from the
rejoin registers. -/
def Claims.WriteMasksAndCounters : Prop :=
  ∀ (g : Guard) (a : Src) (s r : State),
    (let u : Info := { g := g, uses := [u1 a], level := 1 }
     let x := (s.begun u.uses).src a (low (s.ctx g).ex)
     u.executes s = true → (s.here.mode = .normal → (s.begun u.uses).endHolds s.cur.id (s.here.amask &&& x) = false) →
      Completes (.setsrAmask g a) u s fun c t =>
        if s.here.mode ≠ .normal then
          t.modHere fun st => { st with kept := { st.kept with amask := x &&& st.kept.m0 } }
        else (t.dropLanes c.id (s.here.amask &&& ~~~x)).endStream c.id) ∧
    (let u : Info := { g := g, uses := [u2 a], level := 1 }
     let c := s.ctx g
     let f := fun i => (s.begun u.uses).srcPair a i
     u.executes s = true → (∀ i ∈ maskLanes c.ex, pcValid (f i) = true) →
      (s.here.mode ≠ .normal → ∃ m : SMap DWord,
        Completes (.setsrLpc g a) u s (fun _ t => t.modHere fun st => { st with kept := { st.kept with lpc := m } }) ∧
        ∀ i < 32, SMap.get 0 m i = if c.ex.getLsbD i then f i else SMap.get 0 s.here.kept.lpc i) ∧
      (s.here.mode = .normal →
        let mv := maskOf fun i => c.ex.getLsbD i && f i != nextPc c.pc
        Claims.gives (fun go => (s.begun u.uses).checkTargets c mv f go (maskLanes mv)) r →
        CompletesAt (.setsrLpc g a) u s fun _ _ =>
          ((r.advance c.id (c.iss &&& ~~~mv)).modStream c.id fun st => st.setPcs mv f).modGroup c.id.team c.id.grp
            fun y => (y.strikeAll c.id.x mv).unsign c.id.x mv))

/-! ## Line registers, scratchpad, locks and staging objects (08-11) -/

/-- R225, R226, R31, R304: an open binds its register to the lowest executing lane's line, as OPENING, once the register's
former line can leave; the predicate of every executing lane says whether it names that line. With `.u` all must. -/
def Obligations.OpenLines : Prop :=
  ∀ (g : Guard) (u rw : Bool) (mode : OpenMode) (d : Fin 8) (l : LOp) (ln : Fin 16) (b : Src) (s : State),
    let c := s.ctx g
    let i := low c.ex
    (let o : Info := { g := g, uses := [.pout d, u1 l.b, u2 b, .line l.ln], cls := s.openClass, path := some .ls }
     let r := s.begun o.uses
     let a := fun k => (r.srcPair b k + BitVec.ofNat 64 (r.lineOff l k)).toNat
     let same := maskOf fun k => c.ex.getLsbD k && a k / 128 == a i / 128
     let ref := r.lineRef c.id l.ln
     o.executes s = true → (u = true → same = c.ex) → a i < 2 ^ 56 →
     (inWindow (a i) = true → r.windowTarget c.id.team (a i / 128 * 128) ≠ none) → r.leaveRoom ref = true →
      Completes (.openLine g mode u d l b) o s fun c t =>
        let q := t.setPred d c.ex fun k => same.getLsbD k
        q.bindLine ref c.id.x (openMode mode) (a i / 128) (a i % 128) (q.lineKey c.id.team q.myAsid (a i / 128)) false
          (maskOf fun k => c.ex.getLsbD k && r.samePage r.myAsid (a i) (a k))) ∧
    (let o : Info := { g := g, uses := [.pout d, u1 l.b, .line l.ln], cls := .a, noCalleeSp := true, path := some .ls }
     let r := s.begun o.uses
     let a := fun k => r.lineOff l k
     let same := maskOf fun k => c.ex.getLsbD k && a k / 128 == a i / 128
     let ref := r.lineRef c.id l.ln
     o.executes s = true → (u = true → same = c.ex) → a i / 128 * 128 < r.myTeam.spadSize → r.leaveRoom ref = true →
      Completes (.opens g u d l) o s fun c t =>
        (t.setPred d c.ex fun k => same.getLsbD k).bindLine ref c.id.x 3 (a i / 128) (a i % 128)
          (scratchKey c.id.team (a i / 128)) false c.ex) ∧
    (let o : Info := { g := g, uses := [.pout d, u2 b, .line ln], cls := .a, path := some .ls }
     let r := s.begun o.uses
     let a := fun k => (r.srcPair b k).toNat
     let same := maskOf fun k => c.ex.getLsbD k && a k == a i
     let ref := r.lineRef c.id ln
     o.executes s = true → (u = true → same = c.ex) → r.myGroup.c.kvroot ≠ 0 → a i < 2 ^ 63 →
     (∀ k, r.kvDesc r.myGroup.c.kvroot = some k → k.inRange (a i) = true) → r.leaveRoom ref = true →
      Completes (.kvopen g rw u d ln b) o s fun c t =>
        (t.setPred d c.ex fun k => same.getLsbD k).bindLine ref c.id.x 4 (a i) 0 (kvKey r.myAsid (a i)) rw
          (maskOf fun k => c.ex.getLsbD k && kvPage (a k) == kvPage (a i)))

/-- R222, R225, R304: the traps of an open: code 4 where `.u` lanes differ, code 8 at the first byte outside the address space,
code 7 outside the scratchpad, code 9 without a KV root. -/
def Claims.OpenTraps : Prop :=
  ∀ (g : Guard) (u rw : Bool) (mode : OpenMode) (d : Fin 8) (l : LOp) (ln : Fin 16) (b : Src) (s : State),
    let c := s.ctx g
    let i := low c.ex
    (let o : Info := { g := g, uses := [.pout d, u1 l.b, u2 b, .line l.ln], cls := s.openClass, path := some .ls }
     let r := s.begun o.uses
     let a := fun k => (r.srcPair b k + BitVec.ofNat 64 (r.lineOff l k)).toNat
     o.executes s = true →
      ((∃ k ∈ maskLanes c.ex, a k / 128 ≠ a i / 128) → u = true →
        exec (.openLine g mode u d l b) s = .next (s.trapHere ⟨4, 0, c.pc, c.iss⟩)) ∧
      (u = false → 2 ^ 56 ≤ a i →
        exec (.openLine g mode u d l b) s =
          .next (s.trapHere ⟨8, l.ln.val, BitVec.ofNat 64 (a i), BitVec.twoPow 32 i⟩))) ∧
    (let o : Info := { g := g, uses := [.pout d, u1 l.b, .line l.ln], cls := .a, noCalleeSp := true, path := some .ls }
     let r := s.begun o.uses
     let a := fun k => r.lineOff l k
     o.executes s = true → u = false → r.myTeam.spadSize ≤ a i / 128 * 128 →
      exec (.opens g u d l) s = .next (s.trapHere ⟨7, l.ln.val, BitVec.ofNat 64 (a i),
        maskOf fun k => c.ex.getLsbD k && decide (r.myTeam.spadSize ≤ a k / 128 * 128)⟩)) ∧
    (let o : Info := { g := g, uses := [.pout d, u2 b, .line ln], cls := .a, path := some .ls }
     let r := s.begun o.uses
     o.executes s = true → u = false → r.myGroup.c.kvroot = 0 →
      exec (.kvopen g rw u d ln b) s = .next (s.trapHere ⟨9, ln.val, r.srcPair b i, c.ex⟩))

/-- R227, R229, R230: REOPEN sends a RECALLED register's fetch again, under the key that its line now has, and leaves an open or opening one; CLOSE and FLUSH make
the dirty bytes leave, CLOSE emptying the register; LINFO's long-latency result is the register's descriptor. -/
def Obligations.LineUpkeep : Prop :=
  ∀ (g : Guard) (la : Fin 16) (d : Dst) (ln : Fin 16) (s : State),
    (let o : Info := { g := g, uses := [.line ln], cls := if s.here.mode = .normal then .a else .both, path := some .ls }
     let r := s.begun o.uses
     let ref := r.lineRef s.cur.id ln
     o.executes s = true →
      ((r.lineAt ref).st = .recalled → Completes (.openReopen g ln) o s fun c t =>
        let l := r.lineAt ref
        let key := r.ownKey ref l.mode (if l.mode = 3 then scratchKey c.id.team l.line else if l.mode = 4 then kvKey r.myAsid l.line
          else r.lineKey c.id.team r.myAsid l.line)
        ((t.modEntry r.myCore key fun e => { e with held := true }).setLineAt ref
          { l with st := .opening, key := key, fetched := 0, fault := none, lanes := c.ex, byte := 0, bound := r.time }).later 1
            (.lineFetchLands ref)) ∧
      ((r.lineAt ref).st = .opening ∨ (r.lineAt ref).st = .opened →
        Completes (.openReopen g ln) o s fun _ t => t) ∧
      ((r.lineAt ref).st = .empty →
        exec (.openReopen g ln) s = .next (s.trapHere ⟨5, ln.val, 0, (s.ctx g).ex⟩))) ∧
    (let o : Info := { g := g, uses := [.line ln], cls := s.openClass, path := some .ls }
     let r := s.begun o.uses
     let ref := r.lineRef s.cur.id ln
     o.executes s = true → r.leaveRoom ref = true →
      Completes (.close g ln) o s fun _ t => (t.leaveLine ref).setLineAt ref .empty) ∧
    (let o : Info := { g := g, uses := [.line ln], path := some .ls }
     let r := s.begun o.uses
     let ref := r.lineRef s.cur.id ln
     o.executes s = true → r.leaveRoom ref = true → Completes (.flush g ln) o s fun _ t => t.leaveLine ref) ∧
    (let o : Info := { g := g, uses := [.dst d 4, .line ln], la := some la }
     o.executes s = true → Completes (.linfo g la d ln) o s fun c t =>
      let t' := t.drainGroup c.id.team c.id.grp
      t'.longLat c la d 4 (fun k _ => (t'.descriptor (t'.lineRef c.id ln)).extractLsb' (32 * k) 32) 0)

/-- An access through a line register passes its checks of R223 in the state r: the register, its line. -/
def Claims.line (c : Ctx) (r : State) (ln : Fin 16) (n : Nat) (o : Nat → Nat) (modes : LineReg → Bool) (park : Bool)
    (ref : LineRef) (lr : LineReg) : Prop := r.checkLine c ln n o modes park = .ok ref lr

/-- Every lane of an issue has a release behind it that is complete (R210). -/
def Claims.released (c : Ctx) (r : State) (done : Nat → State → Bool) : Prop :=
  ∀ i ∈ maskLanes c.ex, ∃ d, SMap.get none r.here.relWait i = some d ∧ done d r = true

/-- R223, R231, R211: a load issues a long-latency result of the line's bytes at each lane's offset, bytes above a narrow size zero;
an acquire of a scope that crosses cores first refreshes a line of shared memory, and starts an epoch. A trailing group has
the line that its leader read (R377). -/
def Claims.LoadThroughLine : Prop :=
  ∀ (g : Guard) (la : Fin 16) (size : Size) (acq : Bool) (sc : Scope) (d : Dst) (l : LOp) (s : State) (ref : LineRef)
    (lr : LineReg),
    let u : Info := { g := g, uses := [.dst d size.regs, u1 l.b, .line l.ln], la := some la, path := some .ls }
    let r := s.begun u.uses
    let c := s.ctx g
    let o := r.lineOff l
    let fresh := acq && crosses (r.scopeOf c.id.team sc) && lr.mode != 3
    let t := if fresh then (r.refreshLine c.id.team c.id.grp lr).getD r else r
    u.executes s = true →
    Claims.line c r l.ln size.bytes o (fun x => x.mode != 1) true ref lr →
    Claims.passes (r.lineMatch c lr size.bytes o true false) →
    (fresh = true → r.myGroup.dmr = .alone ∨ (r.refreshLine c.id.team c.id.grp lr).isSome = true) →
    Claims.passes (t.linePoison c lr o) →
      Completes (.ld g la size acq sc d l) u s fun _ _ =>
        let t' := t.longLat c la d size.regs (fun k i => BitVec.ofNat 32 (t.lineNat c.id lr (o i + 4 * k) (min 4 size.bytes))) 0
        if acq then t'.acquire c.id sc else t'

/-- R223, R231, R232: a store puts its lanes' bytes, in ascending order of lane, into its stream's store queue; a release
of CORE scope or wider has first completed for each of its lanes (R210); a releasing store is performed at once, and where its scope
crosses cores its line is sent away.
MST belongs to stream A (R63). -/
def Claims.StoreThroughLine : Prop :=
  ∀ (g : Guard) (size : Size) (rel : Bool) (sc : Scope) (l : LOp) (b : Src) (s : State) (ref : LineRef) (lr : LineReg),
    let us := [u1 l.b, .src b size.regs, .line l.ln]
    let r := s.begun us
    let c := s.ctx g
    let o := r.lineOff l
    let wide := rel && coreOrWider (r.scopeOf c.id.team sc)
    let t := if wide then r.clearRel c.id c.ex else r
    let stores := fun (code : Nat) (multi : Bool) =>
      let bs := t.storeBytes c size o b
      let q := (t.record (code + 256 * size.bytes) c.ex (lineRecord lr bs)).modHere fun st =>
        { st with sq := st.sq ++ [⟨lr.key, bs, multi⟩] }
      let q := q.journalCheck q.myCore
      let p := q.drainQueue c.id
      if !rel then q else if crosses (p.scopeOf c.id.team sc) then p.depart p.myCore c.id.team c.id.grp lr.key else p
    let free := r.journalRoom r.myCore c.id.team lr.key = true ∧ (rel = true → r.lehrTakes r.myCore c.id.team 4 = true) ∧
      (wide = true → Claims.released c r fun d x => x.releaseDone c.id sc d)
    Claims.passes (r.lineMatch c lr size.bytes o false true) → free →
      ((let u : Info := { g := g, uses := us, path := some .ls }
        u.executes s = true →
        Claims.line c r l.ln size.bytes o (fun x => x.mode != 0 && (x.mode != 4 || x.w || x.st == .opening)) true ref lr →
        Completes (.st g size rel sc l b) u s fun _ _ => stores 0x84 false) ∧
       (let u : Info := { g := g, uses := us, cls := .a, path := some .ls }
        u.executes s = true → Claims.line c r l.ln size.bytes o (fun x => x.mode == 1 || x.mode == 2) true ref lr →
        Completes (.mst g size rel sc l b) u s fun _ _ => stores 0x8D true))

/-- R210, R231: the first attempt of a releasing store begins its release, and its lanes stay. -/
def Claims.StoreBeginsRelease : Prop :=
  ∀ (g : Guard) (size : Size) (sc : Scope) (l : LOp) (b : Src) (s : State) (ref : LineRef) (lr : LineReg),
    let u : Info := { g := g, uses := [u1 l.b, .src b size.regs, .line l.ln], path := some .ls }
    let r := s.begun u.uses
    let c := s.ctx g
    let o := r.lineOff l
    u.executes s = true → coreOrWider (r.scopeOf c.id.team sc) = true →
    Claims.line c r l.ln size.bytes o (fun x => x.mode != 0 && (x.mode != 4 || x.w || x.st == .opening)) true ref lr →
    Claims.passes (r.lineMatch c lr size.bytes o false true) →
    r.journalRoom r.myCore c.id.team lr.key = true → r.lehrTakes r.myCore c.id.team 4 = true →
    (∀ i ∈ maskLanes c.ex, SMap.get none r.here.relWait i = none) →
      let q := s.beginRelease c.id sc
      exec (.st g size true sc l b) s = .next (State.hold
        (if crosses (q.scopeOf c.id.team sc) && !q.allOut (q.teamCore c.id.team) then q
         else q.modStream c.id fun st => { st with relWait := (maskLanes c.ex).foldl (fun m i =>
           if (SMap.get none m i).isNone then SMap.set none m i (some q.time) else m) st.relWait }))

/-- R223: the traps of an access through a line register, and their order: an empty register (code 5), a mode that does not
take the access (code 6), an address that is not aligned (code 10), bytes past the end of the line (code 7). -/
def Claims.LineAccessTraps : Prop :=
  ∀ (c : Ctx) (s : State) (ln : Fin 16) (n : Nat) (o : Nat → Nat) (modes : LineReg → Bool) (park : Bool),
    let ref := s.lineRef c.id ln
    let lr := s.lineAt ref
    let traps := fun (code : Nat) (m : Mask) =>
      s.checkLine c ln n o modes park = .stop (.trap ⟨code, ln.val, lr.addr (o (low m)), m⟩)
    let odd := maskOf fun i => c.ex.getLsbD i && o i % n != 0
    let far := maskOf fun i => c.ex.getLsbD i && decide (128 < o i + n)
    (lr.st = .empty → c.id.x = false → traps 5 c.ex) ∧
    (lr.st = .recalled → traps 5 c.ex) ∧
    (lr.st = .opened ∨ lr.st = .opening →
      (modes lr = false → traps 6 c.ex) ∧
      (modes lr = true → odd ≠ 0 → traps 10 odd) ∧
      (modes lr = true → odd = 0 → far ≠ 0 → traps 7 far) ∧
      (modes lr = true → odd = 0 → far = 0 → lr.st = .opened → lr.mode ≠ 3 →
        s.checkLine c ln n o modes park = .ok ref lr))

/-- R223: the traps of LineAccessTraps as LD and ST take them, whatever their operands, and an X stream that waits for its register to be
bound. -/
def Claims.LineInstructionTraps : Prop :=
  ∀ (g : Guard) (la : Fin 16) (size : Size) (f : Bool) (sc : Scope) (d : Dst) (l : LOp) (b : Src) (s : State),
    let c := s.ctx g
    let n := size.bytes
    let traps := fun (i : Instr) (u : Info) (modes : LineReg → Bool) =>
      let r := s.begun u.uses
      let o := r.lineOff l
      let ref := r.lineRef c.id l.ln
      let lr := r.lineAt ref
      let raises := fun (code : Nat) (m : Mask) => exec i s = .next (s.trapHere ⟨code, l.ln.val, lr.addr (o (low m)), m⟩)
      let odd := maskOf fun i => c.ex.getLsbD i && o i % n != 0
      let far := maskOf fun i => c.ex.getLsbD i && decide (128 < o i + n)
      u.executes s = true →
      (lr.st = .empty → c.id.x = false → raises 5 c.ex) ∧
      (lr.st = .empty → c.id.x = true → ref.routine = false → exec i s = .next s.park) ∧
      (lr.st = .recalled → raises 5 c.ex) ∧
      (lr.st = .opened ∨ lr.st = .opening →
        (modes lr = false → raises 6 c.ex) ∧
        (modes lr = true → odd ≠ 0 → raises 10 odd) ∧
        (modes lr = true → odd = 0 → far ≠ 0 → raises 7 far))
    traps (.ld g la size f sc d l) { g := g, uses := [.dst d size.regs, u1 l.b, .line l.ln], la := some la, path := some .ls }
      (fun x => x.mode != 1) ∧
    traps (.st g size f sc l b) { g := g, uses := [u1 l.b, .src b size.regs, .line l.ln], path := some .ls }
      (fun x => x.mode != 0 && (x.mode != 4 || x.w || x.st == .opening))

/-- R233, R234: LLK takes the free locks of its lanes in ascending order; the lanes that have got theirs read the words and
pass on, the others wait where they are; SUL stores in ascending order and frees the locks that its lanes hold. That an A lane and an
X lane of one number are two holders is the model's choice (log 16). -/
def Claims.Locks : Prop :=
  ∀ (g : Guard) (la : Fin 16) (wide : Bool) (d : Dst) (l : LOp) (b : Src) (s : State) (ref : LineRef) (lr : LineReg),
    let c := s.ctx g
    let n := if wide then 8 else 4
    (let u : Info := { g := g, uses := [if wide then d2 d else d1 d, u1 l.b, .line l.ln], la := some la, noCalleeSp := true,
                       path := some .ls }
     let r := s.begun u.uses
     let o := r.lineOff l
     let bit := bitOf lr o
     let q := r.takeLocks c.id bit (maskLanes c.ex)
     let got := maskOf fun i => q.1.contains i
     let stay := c.ex &&& ~~~got
     let c' : Ctx := { c with iss := c.iss &&& ~~~stay, ex := got }
     u.executes s = true → Claims.line c r l.ln n o (fun x => x.mode == 3) false ref lr →
     (∀ i ∈ maskLanes c.ex, r.holdsOther c.id (bit i) i = false) → got ≠ 0 →
     Claims.passes (q.2.linePoison c' lr o) →
      CompletesAt (.llk g la wide d l) u s fun _ _ =>
        ((q.2.modStream c.id fun st => (st.setHolds got none).waitLocks stay bit r.time).longLat c' la d (n / 4)
          (fun k i => BitVec.ofNat 32 (r.lineNat c.id lr (o i + 4 * k) 4)) 0).advance c.id c'.iss) ∧
    (let u : Info := { g := g, uses := [u1 l.b, if wide then u2 b else u1 b, .line l.ln], noCalleeSp := true,
                       path := some .ls }
     let r := s.begun u.uses
     let o := r.lineOff l
     u.executes s = true → Claims.line c r l.ln n o (fun x => x.mode == 3) false ref lr →
     r.journalRoom r.myCore c.id.team lr.key = true →
      Completes (.sul g wide l b) u s fun _ t =>
        ((maskLanes c.ex).foldl (fun t i => t.unlockLane c lr n o b i)
          (t.record (0x88 + 256 * n) c.ex (lineRecord lr (r.storeBytes c (if wide then .d else .w) o b)))).journalCheck r.myCore)

/-- R244, R245: SBINIT makes a staging object of at most 32 arrivals, SBEXP and SBARV add to its expectation, SBARV arriving
too, on an initialised object; SBWAIT answers bits 127:96 once the phase has changed; on any other object the three trap. A write waits for
room in the journal (R366). -/
def Claims.StagingObjects : Prop :=
  ∀ (g : Guard) (d : Dst) (l : LOp) (b : Src) (s : State) (ref : LineRef) (lr : LineReg),
    let c := s.ctx g
    let one : Ctx := { c with ex := BitVec.twoPow 32 (low c.ex) }
    (let u : Info := { g := g, uses := [u1 l.b, u1 b, .line l.ln], noCalleeSp := true, path := some .ls }
     let r := s.begun u.uses
     let off := 128 * lr.line + r.lineOff l (low c.ex)
     let o := r.stage c.id.team off
     let n := (r.src b (low c.ex)).toNat
     u.executes s = true → Claims.line one r l.ln 16 (r.lineOff l) (fun x => x.mode == 3) false ref lr →
     let free := r.journalRoom r.myCore c.id.team (scratchKey c.id.team (off / 128)) = true
     let puts := fun (i : Instr) (x : StageObj × Bool) =>
      Completes i u s (fun c t => (t.putStage c.id.team c.id.grp r.time off x).journalCheck r.myCore)
     (n ≤ 32 → free → Completes (.sbinit g l b) u s fun c t =>
       (t.spadWrite c.id.team c.id.team c.id.grp r.time off
         (leBytes 16 { StageObj.ofNat 0 with narr := n, init := true }.toNat) []).journalCheck r.myCore) ∧
     (32 < n → exec (.sbinit g l b) s = .next (s.trapHere ⟨1, 0, c.pc, c.iss⟩)) ∧
     (o.init = true → o.rsvd = 0 → free → puts (.sbexp g l b) (o.expect n false) ∧ puts (.sbarv g l b) (o.expect n true)) ∧
     (o.init = false ∨ o.rsvd ≠ 0 →
       exec (.sbexp g l b) s = .next (s.trapHere ⟨13, 0, c.pc, c.ex⟩) ∧
       exec (.sbarv g l b) s = .next (s.trapHere ⟨13, 0, c.pc, c.ex⟩))) ∧
    (let u : Info := { g := g, uses := [d1 d, u1 l.b, u1 b, .line l.ln], noCalleeSp := true, path := some .ls }
     let r := s.begun u.uses
     let off := 128 * lr.line + r.lineOff l (low c.ex)
     let o := r.stage c.id.team off
     u.executes s = true → Claims.line one r l.ln 16 (r.lineOff l) (fun x => x.mode == 3) false ref lr →
      (o.init = false ∨ o.rsvd ≠ 0 → exec (.sbwait g d l b) s = .next (s.trapHere ⟨13, 0, c.pc, c.ex⟩)) ∧
      (o.init = true → o.rsvd = 0 → o.err = false → o.phase = (r.src b (low c.ex)).toNat % 65536 →
        exec (.sbwait g d l b) s = .next s.hold) ∧
      (o.init = true → o.rsvd = 0 →
      (o.err = false → o.phase ≠ (r.src b (low c.ex)).toNat % 65536 →
        Completes (.sbwait g d l b) u s fun c t => t.setDst d c.ex fun _ => BitVec.ofNat 32 (o.toNat / 2 ^ 96)) ∧
      (o.err = true → exec (.sbwait g d l b) s = .next (s.trapHere ⟨13, 0, c.pc, c.ex⟩))))

/-! ## Waiting, far memory operations, ordering, barriers (08, 09, 10) -/

/-- R195, R196: POLL writes the words of its lanes once every lane's comparison holds, LWAIT answers cause 4 at once where the
line has been written since it was fetched, else it parks its stream on a watch of the line. -/
def Obligations.PollAndWatch : Prop :=
  ∀ (g : Guard) (cmp : PollCmp) (acq : Bool) (sc : Scope) (d : Dst) (l : LOp) (ln : Fin 16) (b : Src) (s : State)
    (ref : LineRef) (lr : LineReg),
    let c := s.ctx g
    (let u : Info := { g := g, uses := [d1 d, u1 l.b, u1 b, .line l.ln], noDmr := true, path := some .ls }
     let r := s.begun u.uses
     let o := r.lineOff l
     let t := if lr.mode = 3 then r else (r.refreshLine c.id.team c.id.grp lr).getD r
     let w := fun i => BitVec.ofNat 32 (t.lineNat c.id lr (o i) 4)
     let test := fun (x y : Word) => match cmp with
       | .eq => x = y | .ne => x ≠ y | .uge => y.toNat ≤ x.toNat | .ult => x.toNat < y.toNat
     u.executes s = true → Claims.line c r l.ln 4 o (fun x => x.mode != 1) false ref lr →
     Claims.passes (r.lineMatch c lr 4 o true false) → Claims.passes (t.linePoison c lr o) →
     (∀ i ∈ maskLanes c.ex, test (w i) (t.src b i)) →
      Completes (.poll g cmp acq sc d l b) u s fun _ _ =>
        let q := (t.setDst d c.ex w).modHere fun st => { st with back := 0, poll := st.poll.filter fun p => p.pc != c.pc }
        if acq then q.acquire c.id sc else q) ∧
    (let u : Info := { g := g, uses := [d1 d, u1 b, .line ln], noDmr := true, path := some .ls }
     let r := s.begun u.uses
     let k := r.watchKey r.myAsid r.myCore.die lr
     let n := (r.src b (low c.ex)).toNat
     u.executes s = true → Claims.line c r ln 1 (fun _ => 0) (fun _ => true) false ref lr →
      (r.contentsDate c.id.team lr < SMap.get 0 r.wrote k →
        Completes (.lwait g d ln b) u s fun c t => t.setDst d c.ex fun _ => 4) ∧
      (SMap.get 0 r.wrote k ≤ r.contentsDate c.id.team lr → r.watchesFull k = false →
        CompletesAt (.lwait g d ln b) u s fun c t =>
          let q := t.modHere fun st =>
            { st with watch := some ⟨k, ref.ln, d, c.ex, c.pc, r.time, if n = 0 then none else some (r.time + n), none⟩ }
          if n = 0 then q else q.later n (.lwaitWake c.id 3)))

/-- R235, R236, R277, R278: AMO issues a long-latency operation per lane on its address, performed in its own time; RED enters an update
per lane, SCAT one per distinct address, of stream A (R63); with a release each waits first until what is ordered before it is
complete for each of its lanes. An update waits for an acquiring AMO before it (R236). -/
def Obligations.FarOperations : Prop :=
  ∀ (g : Guard) (la : Fin 16) (op : FarOp) (sem : Sem) (rel : Bool) (sc : Scope) (d : Dst) (a : AOp) (b : Src)
    (s : State), s.plain = true →
    let c := s.ctx g
    let done := fun d (x : State) => x.pathDone c.id .fr sc d [] &&
      (!coreOrWider (x.scopeOf c.id.team sc) || x.safeSince c.id.team d)
    (let u : Info := { g := g, uses := [.dst d (farDst op), u2 a.a, u1 a.b, .src b (farSrc op)], la := some la, cls := .a,
                       path := some .fr }
     let r := s.begun u.uses
     let adr := r.farAddr a
     let x := r.farOperand op b
     let ls := (maskLanes c.ex).map fun i => (i, adr i, x i)
     let rel' := sem == .rel || sem == .acqrel
     let t := if rel' then r.clearRel c.id c.ex else r
     u.executes s = true → Claims.passes (farCheck c (farBytes op) adr) → Claims.passes (r.farMatch c (farBytes op) adr) →
     r.wordWaits c.id (farBytes op) (ls.map fun l => l.2.1) = false → (rel' = true → Claims.released c r done) →
     (∀ j ∈ (s.team c.id.team).replay, j.grp ≠ c.id.grp ∨ j.x ≠ c.id.x) →
      Completes (.amo g la op sem sc d a b) u s fun _ _ =>
        (t.modMyTeam fun y => { y with journal := y.journal ++
          [⟨t.nextId, c.id.grp, c.id.x, t.time, 0x89 + 256 * farCode op, ls.map fun l => (l.1, l.2.1, l.2.2, []), []⟩] }).startAmo
          c la op (sem == .acq || sem == .acqrel) sc d adr x [] [] 0) ∧
    (let u : Info := { g := g, uses := [u2 a.a, u1 a.b, .src b (farSrc op)], cls := .a, path := some .fr }
     let r := s.begun u.uses
     let adr := r.farAddr a
     let x := r.farOperand op b
     let all := (maskLanes c.ex).map fun i => (adr i, x i)
     let t := if rel then r.clearRel c.id c.ex else r
     let enters := fun (i : Instr) (code : Nat) (us : List (DWord × DWord)) =>
      r.lehrTakes r.myCore c.id.team us.length = true →
        Completes i u s fun _ _ => (t.record (code + 256 * farCode op) c.ex (farRecord c adr x)).enterUpdates c op adr us
     u.executes s = true → Claims.passes (farCheck c (farBytes op) adr) → Claims.passes (r.farMatch c (farBytes op) adr) →
     (∀ m ∈ r.here.amos, m.acq = true → m.over = true) → (rel = true → Claims.released c r done) →
      enters (.red g op rel sc a b) 0x8A all ∧ enters (.scat g op rel sc a b) 0x8B (combine op all))

/-- R235: a far operation traps with code 10 for an address that is not a multiple of its size, and with code 8 for one
outside the address space, naming the lanes and the lowest one's address; that alignment comes first is the model's choice (log 18). -/
def Claims.FarTraps : Prop :=
  ∀ (c : Ctx) (n : Nat) (a : Nat → DWord) (go : Act),
    let odd := maskOf fun i => c.ex.getLsbD i && (a i).toNat % n != 0
    let out := maskOf fun i => c.ex.getLsbD i && (decide (2 ^ 56 ≤ (a i).toNat) || inWindow (a i).toNat)
    (odd ≠ 0 → farCheck c n a go = .trap ⟨10, 0, a (low odd), odd⟩) ∧
    (odd = 0 → out ≠ 0 → farCheck c n a go = .trap ⟨8, 0, a (low out), out⟩) ∧
    (odd = 0 → out = 0 → farCheck c n a go = go)

/-- R235, R236: the traps of FarTraps as AMO, RED and SCAT take them. -/
def Claims.FarInstructionTraps : Prop :=
  ∀ (g : Guard) (la : Fin 16) (op : FarOp) (sem : Sem) (rel : Bool) (sc : Scope) (d : Dst) (a : AOp) (b : Src) (s : State),
    let c := s.ctx g
    let n := farBytes op
    let traps := fun (i : Instr) (u : Info) =>
      let adr := (s.begun u.uses).farAddr a
      let odd := maskOf fun i => c.ex.getLsbD i && (adr i).toNat % n != 0
      let out := maskOf fun i => c.ex.getLsbD i && (decide (2 ^ 56 ≤ (adr i).toNat) || inWindow (adr i).toNat)
      u.executes s = true →
      (odd ≠ 0 → exec i s = .next (s.trapHere ⟨10, 0, adr (low odd), odd⟩)) ∧
      (odd = 0 → out ≠ 0 → exec i s = .next (s.trapHere ⟨8, 0, adr (low out), out⟩))
    let u : Info := { g := g, uses := [u2 a.a, u1 a.b, .src b (farSrc op)], cls := .a, path := some .fr }
    traps (.amo g la op sem sc d a b)
      { g := g, uses := [.dst d (farDst op), u2 a.a, u1 a.b, .src b (farSrc op)], la := some la, cls := .a, path := some .fr } ∧
    traps (.red g op rel sc a b) u ∧ traps (.scat g op rel sc a b) u

/-- What a release of a path begins with need not wait: no checkpoint of the team is pending where the scope takes one (R366),
and the lehr takes every departure that it causes (R205). -/
def Claims.departs (c : Ctx) (s : State) (p : Path) (sc : Scope) : Prop :=
  let sc := s.scopeOf c.id.team sc
  let k := s.teamCore c.id.team
  (coreOrWider sc = true → (s.team c.id.team).pending = none) ∧
  (p = .ls → crosses sc = true → ((s.drainQueue c.id).departAll k c.id.team c.id.grp).allOut k = true)

/-- R239, R240: the fences put the stream's stores into its line store; a release of a path closes it, and XFENCE its second
path, until what came before on the first is complete; an acquire of path LS that crosses cores starts an epoch. That an acquire of
another path starts none is the model's choice (log 19). -/
def Obligations.Fences : Prop :=
  ∀ (g : Guard) (path pb : Path) (sc : Scope) (s : State),
    let c := s.ctx g
    (let u : Info := { g := g, path := some path }
     let r := (s.begun u.uses).drainQueue c.id
     u.executes s = true →
      Completes (.fence g .acq path sc) u s (fun c t => (t.drainQueue c.id).acquireOn c.id path sc) ∧
      (Claims.departs c r path sc →
        Completes (.fence g .rel path sc) u s (fun c t =>
          let q := (t.drainQueue c.id).beginPath c.id path sc true
          q.addFence c.id ⟨path, path, sc, q.time, q.openCmds c.id, true, false, false, none⟩) ∧
        Completes (.fence g .acqrel path sc) u s (fun c t =>
          let q := (t.drainQueue c.id).beginPath c.id path sc true
          q.addFence c.id ⟨path, path, sc, q.time, q.openCmds c.id, true, true, false, none⟩))) ∧
    (let u : Info := { g := g, path := some pb }
     u.executes s = true → Claims.departs c (s.begun u.uses) path sc → Completes (.xfence g path pb sc) u s fun c t =>
      let q := (t.drainQueue c.id).beginPath c.id path sc false
      q.addFence c.id ⟨path, pb, sc, q.time, q.openCmds c.id, false, decide (pb = .ls), false, none⟩) ∧
    (let u : Info := { g := g, path := some .ls }
     u.executes s = true → Claims.departs c (s.begun u.uses) .ls .system → Completes (.afence g) u s fun c t =>
      let q := (t.drainQueue c.id).beginPath c.id .ls .system true
      q.addFence c.id ⟨.ls, .ls, .system, q.time, [], true, true, true, none⟩)

/-- R241-R243: an arrival fills its slot's record, when no checkpoint is pending (R366) and its departures find room; BAR then
holds its lanes until the phase releases, and passes them, clearing the slot and acquiring; BARW answers the total of the
arrivals. An arrival on a slot that is not clear, a BAR of other lanes than those that arrived, and a BARW on a clear slot raise code 13
with the scope in TADR. A phase with two operations ends in code 13 at the slot's instruction, D unchanged; that the slot is then clear is
the model's choice (log 17). -/
def Obligations.Barriers : Prop :=
  ∀ (g : Guard) (op : BarOp) (sc : Scope) (a : Src) (d : Dst) (s : State) (total : DWord),
    let c := s.ctx g
    let info := fun (us : List Use) => barInfo g sc us
    let takes := fun (t : State) => (t.modMyGroup fun y => y.setSlot sc .clear).acquire c.id sc
    let arrives := fun (r : State) => (r.team c.id.team).pending = none ∧ Claims.departs c r .ls sc
    let waits := fun (r : State) => ∃ o v has_ there date, r.myGroup.slot sc = .pending o v has_ there date
    let wrong := fun (i : Instr) => exec i s = .next (s.trapHere ⟨13, 0, BitVec.ofNat 64 (scopeCode sc), c.ex⟩)
    (let u := info []
     let r := s.begun u.uses
     let mine := c.ex &&& r.here.heldFor (.barrier sc)
     u.executes s = true →
      (r.myGroup.slot sc = .clear → arrives r → CompletesAt (.bar g sc) u s fun c t =>
        ((t.arrive c sc .none 0).modHere fun st => st.setHolds c.ex (some (.barrier sc))).advance c.id (c.iss &&& ~~~c.ex)) ∧
      (waits r → (mine = c.ex → exec (.bar g sc) s = .next s.hold) ∧ (mine ≠ c.ex → wrong (.bar g sc))) ∧
      (r.myGroup.slot sc = .released total false → mine = c.ex →
        Completes (.bar g sc) u s fun c t => (takes t).modHere fun st => st.setHolds c.ex none) ∧
      (r.myGroup.slot sc = .released total true → mine = c.ex → exec (.bar g sc) s =
        .next (((takes r).modHere fun st => st.setHolds c.ex none).trapHere ⟨13, 0, c.pc, c.ex⟩)) ∧
      (∀ bad, r.myGroup.slot sc = .released total bad → mine ≠ c.ex → wrong (.bar g sc))) ∧
    (let u := info (if op = .none then [] else [u2 a])
     let r := s.begun u.uses
     u.executes s = true →
      (r.myGroup.slot sc = .clear → arrives r → Completes (.bara g op sc a) u s fun c t =>
        t.arrive c sc op (if op = .none then 0 else r.payload c.ex op a)) ∧
      (waits r ∨ (∃ bad, r.myGroup.slot sc = .released total bad) → wrong (.bara g op sc a))) ∧
    (let u : Info := { barInfo g sc [d2 d] with path := none }
     let r := s.begun u.uses
     u.executes s = true →
      (r.myGroup.slot sc = .released total false →
        Completes (.barw g sc d) u s fun c t => (takes t).setPair d c.ex fun _ => total) ∧
      (r.myGroup.slot sc = .released total true →
        exec (.barw g sc d) s = .next ((takes r).trapHere ⟨13, 0, c.pc, c.ex⟩)) ∧
      (waits r → exec (.barw g sc d) s = .next s.hold) ∧
      (r.myGroup.slot sc = .clear → wrong (.barw g sc d))) ∧
    (∀ (p : Phase) (who : Nat) (v : DWord), p.has = true → p.op ≠ op → (p.add who op v true false).mixed = true)

/-- R237, R238: CMCAST sends the line's 128 bytes to the scratchpads of the cluster's members in its mask, at an aligned
offset below every target's size; a mask without members sends nothing. -/
def Obligations.Multicast : Prop :=
  ∀ (g : Guard) (at_ : Option (Fin 32)) (l : LOp) (b : Src) (s : State) (ref : LineRef) (lr : LineReg) (ts : List Nat),
    let u : Info := { g := g, uses := [u1 l.b, u1 b, .line l.ln] ++ (match at_ with | some r => [u2 (.s r)] | none => []),
                      cls := .a, noCalleeSp := true, noDmr := true, path := some .cl }
    let r := s.begun u.uses
    let c := s.ctx g
    let one : Ctx := { c with ex := BitVec.twoPow 32 (low c.ex) }
    let off := r.lineOff l (low c.ex)
    u.executes s = true → Claims.line one r l.ln 128 (fun _ => 0) (fun x => x.mode == 3) false ref lr →
    off % 128 = 0 → (r.src b (low c.ex)).toNat < 65536 →
    castMembers (r.clusterOf c.id.team) (r.src b (low c.ex)).toNat = .inr ts →
    (∀ t ∈ ts, off < (r.team t).spadSize) → r.lehrTakes r.myCore c.id.team ts.length = true →
      Completes (.cmcast g at_ l b) u s fun c t =>
        if ts = [] then t
        else t.startCast c lr.line off ts (at_.map fun x => pairOf (r.here.uni x.val) (r.here.uni (x.val + 1)))

/-! ## Clusters, graphs, regrouping (08, 10, 12) -/

/-- R246, R247: CJOIN completes in the member that completes its cluster, once its release is complete, and in each member once
the cluster is complete, with its number; a size outside 2 to 16 is wrong. CLEAVE does nothing outside a cluster, and else
leaves it once its release is complete, no write to its scratchpad is on its way and no register is bound to a line of its window; one
that has been bound meanwhile is recalled too, by a new release. -/
def Claims.Clusters : Prop :=
  ∀ (g : Guard) (d : Dst) (a b : Src) (s : State) (cl : Cluster) (m : Nat),
    let c := s.ctx g
    (let u : Info := { g := g, uses := [d1 d, u1 a, u1 b], cls := .a, noHandler := true, noCallee := true, noDmr := true,
                       path := some .cl }
     let r := s.begun u.uses
     let key := r.src a (low c.ex)
     let n := (r.src b (low c.ex)).toNat
     u.executes s = true →
      (2 ≤ n → n ≤ 16 → r.enteredCluster c.id.team = some (cl, m) → cl.key = key → cl.n = n → cl.complete = true →
        Completes (.cjoin g d a b) u s fun c q => (q.setDst d c.ex fun _ => BitVec.ofNat 32 m).acquire c.id .cluster) ∧
      (2 ≤ n → n ≤ 16 → r.enteredCluster c.id.team = none → (r.bench (benchKey r.myCore)).forming r.myAsid key = some cl →
        cl.n = n → cl.joined + 1 = n → Claims.released c r (fun d x => x.releaseDone c.id .bench d) →
        Completes (.cjoin g d a b) u s fun c q =>
          let q := q.clearRel c.id c.ex
          ((q.joinCluster c.id.team q.myAsid key n).setDst d c.ex fun _ => BitVec.ofNat 32 cl.joined).acquire c.id .cluster) ∧
      (n < 2 ∨ 16 < n → exec (.cjoin g d a b) s = .next (s.trapHere ⟨13, 0, c.pc, c.ex⟩))) ∧
    (let u : Info := { g := g, cls := .a, noHandler := true, noCallee := true, noDmr := true, path := some .cl }
     let r := s.begun u.uses
     u.executes s = true →
      (r.clusterOf c.id.team = none → Completes (.cleave g) u s fun _ q => q) ∧
      (r.clusterOf c.id.team ≠ none →
        (∀ q ∈ (r.team c.id.team).st.groups, SMap.get .clear q.2.barriers (scopeCode .cluster) = .clear) →
        r.recallTakes c.id.team (r.windowRegs c.id.team) = true →
        Claims.released c r (fun d x => x.releaseDone c.id .cluster d && !x.writesTo c.id.team d) →
        let free := (r.clearRel c.id c.ex).windowRegs c.id.team
        (free = [] → Completes (.cleave g) u s fun c q => (q.clearRel c.id c.ex).leaveCluster c.id.team) ∧
        (free ≠ [] → exec (.cleave g) s = .next (s.clearRel c.id c.ex).hold)))

/-- R193, R194: GCOND and GSIG of a graph's launch each put one entry into the lehr, GSIG after a release of PACKAGE scope; that this
covers every path is the model's choice (log 23). -/
def Claims.GraphSignals : Prop :=
  ∀ (g : Guard) (op : CondOp) (num : BitVec 8) (a : Src) (s : State) (n : Nat),
    let c := s.ctx g
    (let u : Info := { g := g, uses := [u1 a], noCallee := true, noDmr := true, graph := true, path := some .cl }
     let r := s.begun u.uses
     u.executes s = true → r.graphOf c.id.team = some n → r.lehrTakes r.myCore c.id.team 1 = true →
      Completes (.gcond g op num a) u s fun c q =>
        q.enterLehr r.myCore c.id.team c.id.grp c.id.x r.time (.cond n op num (r.src a (low c.ex)))) ∧
    (let u : Info := { g := g, noCallee := true, noDmr := true, graph := true, path := some .cl }
     let r := s.begun u.uses
     u.executes s = true → r.graphOf c.id.team = some n → r.lehrTakes r.myCore c.id.team 1 = true →
     Claims.released c r (fun d x => x.allReleased c.id d) →
      Completes (.gsig g num) u s fun c q =>
        let t := q.clearRel c.id c.ex
        t.enterLehr t.myCore c.id.team c.id.grp c.id.x t.time (.sig n num.toNat))

/-- R272-R274: REGRP of a set of one group re-forms it at once, and the group that completes a set re-forms all of it. -/
def Claims.Regrouping : Prop :=
  ∀ (g : Guard) (d : Fin 192) (a b : Fin 32) (s : State),
    let u : Info := { g := g, uses := [d1 (.v d), u1 (.s a), u1 (.s b)], noHandler := true, noCallee := true, noDmr := true,
                      illegal := s.myGroup.split, lanes := false }
    let r := s.begun u.uses
    let c := s.ctx g
    let n := (r.here.uni a.val).toNat
    let k := (r.here.uni b.val).toNat
    let me := (c.id.team, c.id.grp, c.ex)
    u.executes s = true → 1 ≤ n → n ≤ 8 → k ≤ 64 → k ≤ r.myGroup.window false → c.iss = r.here.amask → r.inSet = false →
    (∀ cv ∈ [0, 1, 2, 3], r.myGroup.signed cv = 0) → (∀ j ∈ [0, 1, 2, 3], r.myGroup.enrolled j = 0) →
    r.holdsLock c.ex = false → r.here.movePending k = false →
      (r.formingSet = none → (r.core r.myCore).sets.length < 4 → n = 1 →
        CompletesAt (.regrp g (.v d) (.s a) (.s b)) u s fun _ q =>
          q.reform r.myCore ⟨r.myTeam.launch, r.myGroup.role, c.pc, r.myAsid, n, k, d.val, [me]⟩) ∧
      (∀ set, r.formingSet = some set → set.g = n → set.k = k → set.joined.length + 1 = n →
        CompletesAt (.regrp g (.v d) (.s a) (.s b)) u s fun _ q =>
          (q.modCore r.myCore fun x => { x with sets := x.sets.filter fun y => !(y.launch == r.myTeam.launch &&
            y.role == r.myGroup.role && y.lpc == c.pc && y.asid == r.myAsid) }).reform r.myCore
            { set with joined := set.joined ++ [me] })

/-! ## Matrix and the cluster reduction (06) -/

/-- R140, R144, R147: MMA and MMAS sign their lanes into the convergence register, whose declared lanes alone may execute
them and under one instruction, and hold those lanes there until the set is complete. -/
def Claims.MatrixMultiply : Prop :=
  ∀ (g : Guard) (la : Fin 16) (re : Bool) (cv : Fin 4) (n : Sparsity) (d : Fin 8) (a : Fin 192) (b k : Fin 32)
    (tid : BitVec 12) (s : State),
    let u := mmaInfo g la d a b k
    let r := s.begun u.uses
    let c := s.ctx g
    let signs := fun (i : Instr) (q : State) =>
      let set : MmaSet := ⟨cv.val, i, r.here.uni b.val, r.here.uni k.val, c.pc⟩
      (((q.modMyGroup fun y => { y.setSigned cv.val (y.signed cv.val ||| c.ex) with
        c.mma := (y.c.mma.filter fun z => z.cv != cv.val) ++ [set] }).modHere fun st =>
          st.setHolds c.ex (some (.mma cv.val))).advance c.id (c.iss &&& ~~~c.ex)).settleSet c.id set
    let alone := fun (i : Instr) => ∀ z ∈ r.myGroup.c.mma, z.cv = cv.val → z.i = i
    let may := fun (i : Instr) => alone i ∧ r.accHeld c.id (r.mmaAccs c.id i) (some cv.val) = false
    u.executes s = true → c.ex &&& ~~~r.myGroup.decl cv.val = 0 →
      (may (.mma g la re cv d a b k tid) →
        CompletesAt (.mma g la re cv d a b k tid) u s fun _ q => signs (.mma g la re cv d a b k tid) q) ∧
      (may (.mmas g la re cv n d a b k tid) →
        CompletesAt (.mmas g la re cv n d a b k tid) u s fun _ q => signs (.mmas g la re cv n d a b k tid) q)

/-- R144, R147: an executing lane that is not declared in the convergence register raises the uniformity trap, at its slot, for MMA as
for MMAS; lanes that are declared there sign no second instruction while another waits in the register. -/
def Claims.MatrixUndeclared : Prop :=
  ∀ (g : Guard) (la : Fin 16) (re : Bool) (cv : Fin 4) (n : Sparsity) (d : Fin 8) (a : Fin 192) (b k : Fin 32) (tid : BitVec 12)
    (s : State),
    let u := mmaInfo g la d a b k
    let c := s.ctx g
    let r := s.begun u.uses
    let out := c.ex &&& ~~~r.myGroup.decl cv.val
    let traps := fun (i : Instr) =>
      u.executes s = true →
      (out ≠ 0 → exec i s = .next (s.trapHere ⟨4, 0, c.pc, out⟩)) ∧
      (out = 0 → (∃ z ∈ r.myGroup.c.mma, z.cv = cv.val ∧ z.i ≠ i) → exec i s = .next (s.trapHere ⟨4, 0, c.pc, c.ex⟩))
    traps (.mma g la re cv d a b k tid) ∧ traps (.mmas g la re cv n d a b k tid)

/-- R146, R149: MREL empties the reuse latch; MACC's forms write a zeroed tile that keeps its row states, a wholly zeroed one,
a copy, a tile's elements or row states as a long-latency result, and elements or row states from vector registers; its
declaration sets a convergence register that no lane has signed. Operands are read at the issue. -/
def Obligations.AccumulatorMoves : Prop :=
  ∀ (g : Guard) (la : Fin 16) (d a : Fin 8) (v : Fin 192) (b : Src) (n : Fin 4) (s : State),
    let c := s.ctx g
    let free := fun (us : List Use) (l : List Nat) => (s.begun us).accHeld c.id l none = false
    (let u : Info := { g := g, cls := .x, noHandler := true, path := some .mx }
     u.executes s = true → Completes (.mrel g) u s fun _ q => q.modMyGroup fun y => { y with c.latch := none }) ∧
    (let u := accInfo g la [.acc d]
     let r := s.begun u.uses
     u.executes s = true → free u.uses [d.val] →
      Completes (.maccZero g la d) u s (fun c q => q.accLater c la [(d.val, { r.myGroup.image d.val with e := [] })] 0) ∧
      Completes (.maccInit g la d) u s (fun c q => q.accLater c la [(d.val, ⟨[], [], [], []⟩)] 0)) ∧
    (let u := accInfo g la [.acc d, .acc a]
     let r := s.begun u.uses
     u.executes s = true → free u.uses [d.val, a.val] →
      Completes (.maccMov g la d a) u s fun c q => q.accLater c la [(d.val, r.myGroup.image a.val)] 0) ∧
    (let u := accInfo g la [.dst (.v v) 8, .acc a, u1 b]
     let r := s.begun u.uses
     u.executes s = true → free u.uses [a.val] →
      Completes (.maccRd g la v a b) u s fun c q =>
        q.longLat c la (.v v) 8 (fun k i => r.myGroup.acc a.val (2 * i + k / 4) (r.maccCol b i + k % 4)) 0) ∧
    (let u := accInfo g la [.dst (.v v) 6, .acc a]
     let r := s.begun u.uses
     u.executes s = true → free u.uses [a.val] →
      Completes (.maccRdst g la v a) u s fun c q =>
        q.longLat c la (.v v) 6 (fun k i => r.myGroup.rowWord a.val (2 * i + k / 3) (k % 3)) 0) ∧
    (let u := accInfo g la [.acc d, .src (.v v) 8, u1 b]
     let r := s.begun u.uses
     u.executes s = true → free u.uses [d.val] →
      Completes (.maccWr g la d v b) u s fun c q => q.accLater c la [(d.val,
        (maskLanes c.ex).foldl (fun x i => (List.range 8).foldl (fun (x : AccImage) k =>
          x.setE (2 * i + k / 4) (r.maccCol b i + k % 4) (s.here.vec (v.val + k) i)) x) (r.myGroup.image d.val))] 0) ∧
    (let u := accInfo g la [.acc d, .src (.v v) 6]
     let r := s.begun u.uses
     let w := fun i k => s.here.vec (v.val + k) i
     u.executes s = true → free u.uses [d.val] →
      Completes (.maccWrst g la d v) u s fun c q => q.accLater c la [(d.val,
        (maskLanes c.ex).foldl (fun (x : AccImage) i =>
          (x.setRow (2 * i) (w i 0) (w i 1) (w i 2)).setRow (2 * i + 1) (w i 3) (w i 4) (w i 5)) (r.myGroup.image d.val))] 0) ∧
    (let u := accInfo g la []
     let r := s.begun u.uses
     u.executes s = true →
      (r.myGroup.signed n.val = 0 → Completes (.maccDecl g la n) u s fun c q =>
        q.modMyGroup fun y => (y.setDecl n.val c.ex).setSigned n.val 0) ∧
      (r.myGroup.signed n.val ≠ 0 → exec (.maccDecl g la n) s = .next (s.trapHere ⟨4, 0, c.pc, c.ex⟩)))

/-- R152-R155: SMAX, SEXP and SMERGE map the rows of two whole tiles, with the OR of their flags; CRED sends a tile of a
cluster member to the reduction unit through the lehr and counts the group's reduction. That the count begins at the team's joining of
its cluster is the model's choice (log 48). -/
def Obligations.RowTriples : Prop :=
  ∀ (g : Guard) (la : Fin 16) (d a : Fin 8) (s : State),
    let c := s.ctx g
    (let u := accInfo g la [.acc d, .acc a]
     let r := s.begun u.uses
     let rows := fun (f : TRow → TRow → TRow × Flags) =>
      ((r.myGroup.tile d.val).zip (r.myGroup.tile a.val)).map fun p => f p.1 p.2
     let folds := fun (f : TRow → TRow → TRow × Flags) (q : State) =>
      q.accLater c la [(d.val, Tile.image ((rows f).map (·.1)))] ((rows f).foldl (fun fl p => fl ||| p.2) 0)
     u.executes s = true → r.accHeld c.id [d.val, a.val] none = false →
      Completes (.smax g la d a) u s (fun _ q => folds smaxRow q) ∧
      Completes (.smerge g la d a) u s (fun _ q => folds smergeRow q) ∧
      Completes (.sexp g la none d a) u s (fun c q =>
        let x := ((r.myGroup.tile d.val).zip (r.myGroup.tile a.val)).map fun p => sexpRow none p.1 p.2
        q.accLater c la [(d.val, Tile.image (x.map (·.1))), (a.val, Tile.image (x.map (·.2.1)))]
          (x.foldl (fun fl p => fl ||| p.2.2) 0)) ∧
      ∀ (tid : BitVec 12) (e : Tensor) (t : State), Claims.entry c tid.toNat r e t → e.etype = 0 → e.blk = 0 →
        t.accHeld c.id [d.val, a.val] none = false →
        Completes (.sexp g la (some tid) d a) u s (fun c _ =>
          let x := ((t.myGroup.tile d.val).zip (t.myGroup.tile a.val)).map fun p => sexpRow (some (NFmt.of e.nfd)) p.1 p.2
          t.accLater c la [(d.val, Tile.image (x.map (·.1))), (a.val, Tile.image (x.map (·.2.1)))]
            (x.foldl (fun fl p => fl ||| p.2.2) 0))) ∧
    (let u : Info := { g := g, uses := [.acc d], cls := .x, la := some la, noHandler := true, noCallee := true, noDmr := true,
                       path := some .cl }
     let r := s.begun u.uses
     let n := SMap.get 0 r.myTeam.credCount c.id.grp + 1
     u.executes s = true → r.accHeld c.id [d.val] none = false → r.clusterOf c.id.team ≠ none →
     (∀ p ∈ r.here.pend, p.cred = none) → r.lehrTakes r.myCore c.id.team 1 = true →
      Completes (.cred g la d) u s fun c q =>
        let q' := ((q.fresh).2.modHere fun st =>
          { st with pend := st.pend ++ [⟨r.nextId, [], [accRegKey d.val], startLa c.iss la, some c.pc, none⟩] }).modMyTeam
            fun y => { y with credCount := SMap.set 0 y.credCount c.id.grp n }
        (q'.enterLehr q'.myCore c.id.team c.id.grp c.id.x q'.time
          (.cred (benchKey q'.myCore) c.id.team c.id.grp n)).askCkpt c.id.team)

/-! ## Engines and key-value space (11, 13) -/

/-- R256-R258, R268: CPY queues one command of a 32-byte transfer per executing lane and counts its bytes under its tag;
CPWAIT passes once what was issued under its tag has landed; CPST reads a tag's or a ticket's status. -/
def Obligations.CopyEngine : Prop :=
  ∀ (g : Guard) (la : Fin 16) (tag : Fin 8) (d : Dst) (a b e : Src) (s : State),
    let c := s.ctx g
    (let u := engInfo g [u2 a, u1 b, u1 e]
     let r := s.begun u.uses
     let adr := r.srcPair a
     let x := fun i => (r.src b i).toNat
     let v := fun i => (r.src e i).toNat
     let ls := maskLanes c.ex
     let counts := fun (q : State) =>
      q.setTagAt c.id.team c.id.grp r.myGroup.depth tag.val
        { r.tagAt c.id.team c.id.grp r.myGroup.depth tag.val with
          issued := (r.tagAt c.id.team c.id.grp r.myGroup.depth tag.val).issued + BitVec.ofNat 32 (32 * ls.length) }
     u.executes s = true → Claims.passes (cpyCheck c r.myTeam.spadSize adr x v) → r.queueRoom r.myCore 1 = true →
      (Completes (.cpy g false tag a b e) u s fun c q =>
        (counts q).addCmd c (.cpyGs tag.val (ls.map fun i => (i, adr i, x i, v i))) 0 none ls.length 32
          (creditOf (ls.map fun i => [(x i, 32)]))) ∧
      ((∀ i ∈ ls, r.presentRange c.id.team (x i) (v i) = true) →
        Completes (.cpy g true tag a b e) u s fun c q =>
          (counts q).addCmd c (.cpySg tag.val (ls.map fun i =>
            (i, adr i, (r.padSpan c.id.team (x i) (v i)).1, (r.padSpan c.id.team (x i) (v i)).2))) 0 none ls.length 32 [])) ∧
    (let u : Info := { g := g, noCalleeSp := true }
     let r := s.begun u.uses
     let y := r.tagAt c.id.team c.id.grp r.myGroup.depth tag.val
     u.executes s = true →
     (∀ i ∈ maskLanes c.ex, (y.landed - (SMap.get none r.here.cpwait i).getD y.issued).toNat < 2 ^ 31) → y.err = false →
      Completes (.cpwait g tag) u s fun c q => q.modHere fun st =>
        { st with cpwait := (maskLanes c.ex).foldl (fun m i => SMap.set none m i none) st.cpwait }) ∧
    (let u : Info := { g := g, uses := [.dst d 4], la := some la, noCalleeSp := true }
     let r := s.begun u.uses
     let dep := r.myGroup.depth
     u.executes s = true → Completes (.cpstBt g la tag d) u s fun c q => q.longLat c la d 4
      (fun k _ => tagWord (r.tagAt c.id.team c.id.grp dep tag.val) (r.tagSusp c.id.team c.id.grp dep tag.val) k) 0) ∧
    (let u : Info := { g := g, uses := [.dst d 4, u1 a], la := some la, noCalleeSp := true }
     let r := s.begun u.uses
     u.executes s = true → Completes (.cpstTkt g la d a) u s fun c q =>
      q.longLat c la d 4 (fun k i => ticketWord (r.ticket c.id.team (r.src a i).toNat) k) 0)

/-- R249, R250, R259-R267: KICK takes a ticket for every record of its list, once the destination entries of its tiles can be read (log 22), GTHR, EMB and KVFILL one, each queueing its
commands after its checks and writing its first ticket to D; a count of zero does nothing. -/
def Obligations.EngineCommands : Prop :=
  ∀ (g : Guard) (d : Dst) (a b e : Src) (tid : BitVec 12) (s t : State) (f : Tensor),
    let c := s.ctx g
    let i := low c.ex
    let one := fun (q : State) (kind : CmdKind) (sb units bytes : Nat) (spans : List (List (Nat × Nat))) =>
      ((q.takeTicket c.id.team).2.addCmd c kind (q.takeTicket c.id.team).1 (some sb) units bytes (creditOf spans)).setDst d c.ex
        fun _ => BitVec.ofNat 32 (q.takeTicket c.id.team).1
    (let u := engInfo g [d1 d, u1 a, u1 e]
     let r := s.begun u.uses
     let x := (r.src a i).toNat
     let n := (r.src e i).toNat
     let recs := (List.range n).map fun k => r.spadNat c.id.team (x + 64 * k) 64
     u.executes s = true →
      (n = 0 → Completes (.kick g d a e) u s fun _ q => q) ∧
      (0 < n → n ≤ 64 → x % 64 = 0 → x + 64 * n ≤ r.myTeam.spadSize → r.presentRange c.id.team x (64 * n) = true →
       (∀ y ∈ recs, recOk r.myTeam.spadSize y = true) → r.queueRoom r.myCore n = true → r.missingEntries c recs = [] →
        Completes (.kick g d a e) u s fun c q => (q.kickAll c recs).setDst d c.ex fun _ => r.myTeam.st.tickets)) ∧
    (let u := engInfo g [d1 d, u1 a, u1 b, u2 e]
     let r := s.begun u.uses
     let x := (r.src a i).toNat
     let y := (r.src b i).toNat
     let n := ((r.srcPair e i).setWidth 32).toNat
     let sb := ((r.srcPair e i).extractLsb' 32 32).toNat
     let ds := round16 f.rowBytes
     let w := f.scaleBytes
     u.executes s = true →
      (n = 0 → Completes (.gthr g d a b e tid) u s fun _ q => q) ∧
      (0 < n → Claims.entry c tid.toNat r f t → f.space ≤ 1 → f.layout = 0 →
       Claims.passes (extentCheck c t.myTeam.spadSize [(x, 4), (y, 16), (sb, 16)]
        [(x, 4 * n), (y, n * (ds + w)), (sb, 16)]) → t.queueRoom t.myCore 1 = true →
        Completes (.gthr g d a b e tid) u s fun _ _ => one t (.gather x y n f) sb n (ds + w)
          ((List.range n).map fun j => [(y + j * ds, ds), (y + n * ds + j * w, w)]))) ∧
    (let u := engInfo g [d1 d, u1 a]
     let r := s.begun u.uses
     u.executes s = true → Claims.entry c tid.toNat r f t → f.space = 0 → f.layout = 0 → f.etype ≤ 6 →
      let x := (t.src a i).toNat
      let w := t.spadNat c.id.team x 64
      Claims.passes (extentCheck c t.myTeam.spadSize [(x, 64)] [(x, 64)]) → t.presentRange c.id.team x 64 = true →
      embReserved w = false →
      Claims.passes (extentCheck c t.myTeam.spadSize [(embIdx w, 4), (embDst w, 16), (embSb w, 16)] (embExtents f w)) →
      t.queueRoom t.myCore 1 = true →
        Completes (.emb g d a tid) u s fun _ _ => one t (.emb tid.toNat f w [] [] [] [] false) (embSb w) (embNb w)
          (pooledBytes f) ((List.range (embNb w)).map fun j => [(embDst w + j * pooledBytes f, pooledBytes f)])) ∧
    (let u := engInfo g [d1 d, u1 a, u1 b, u1 e]
     let r := s.begun u.uses
     u.executes s = true → Claims.entry c tid.toNat r f t → f.space = 2 → 64 ≤ f.rows → t.myGroup.c.kvroot ≠ 0 →
      let x := (t.src a i).toNat
      let y := (t.src b i).toNat
      let sb := (t.src e i).toNat
      let raw := t.readNat 0 t.myGroup.c.kvroot.toNat 64
      ∀ k, KvDesc.ofNat raw = some k →
      k.hasSeq (kvCoord (field f.base 0 20) (field f.base 20 8) (field f.base 28 8) (field f.base 36 1) (x % 2 ^ 24) 0) = true →
      x + 64 ≤ 2 ^ 24 →
      Claims.passes (extentCheck c t.myTeam.spadSize [(y, 16), (sb, 16)] [(y, 64 * round16 k.rowb), (sb, 16)]) →
      t.queueRoom t.myCore 1 = true →
        Completes (.kvfill g d a b e tid) u s fun _ _ =>
          one t (.kvfill (field f.base 0 20) (field f.base 20 8) (field f.base 28 8) (field f.base 36 1) x y raw) sb 64
            (round16 k.rowb) ((List.range 64).map fun j => [(y + j * round16 k.rowb, round16 k.rowb)]))

/-- R306-R308: KVMAP, KVFORK and KVDROP, once their release is complete and what they recall has room to leave, act lane by lane in ascending order and give their
four result words to D later; their results enter the journal. -/
def Obligations.KeyValueManagement : Prop :=
  ∀ (g : Guard) (la : Fin 16) (d : Fin 192) (a b : Src) (s : State), s.plain = true →
    let c := s.ctx g
    let acts := fun (i : Instr) (o : KvOp) (b : Src) (u : Info) =>
      let r := s.begun u.uses
      let ls := (maskLanes c.ex).map fun i => (i, r.srcPair a i, r.srcPair b i)
      let t := r.clearRel c.id c.ex
      let q := t.kvLanes o r.myGroup.c.kvroot ls
      u.executes s = true → Claims.released c r (fun dt x => x.allReleased c.id dt) →
      (∀ j ∈ (s.team c.id.team).replay, j.grp ≠ c.id.grp ∨ j.x ≠ c.id.x) → t.recallTakes c.id.team (t.recalledBy q.2) = true →
        let j : JRec := ⟨q.2.nextId, c.id.grp, c.id.x, t.time, o.code,
          ls.map fun l => (l.1, l.2.1, l.2.2, (((q.1.find? fun p => p.1 == l.1).map (·.2)).getD [])), []⟩
        Completes i u s fun c _ =>
          ((q.2.fresh.2.modMyTeam fun y => { y with journal := y.journal ++ [j] }).feedTrailer c.id.team c.id.grp
            fun _ => .words 0 q.1).kvResult c la (.v d) q.1 t.nextId
    acts (.kvmap g la d a b) .map b { g := g, uses := [.dst (.v d) 4, u2 a, u2 b], cls := .a, la := some la, level := 1 } ∧
    acts (.kvfork g la d a b) .fork b { g := g, uses := [.dst (.v d) 4, u2 a, u2 b], cls := .a, la := some la, level := 1 } ∧
    acts (.kvdrop g la d a) .drop .z { g := g, uses := [.dst (.v d) 4, u2 a], cls := .a, la := some la, level := 1 }

/-! ## Gates, redundant execution, translation (14, 16, 17) -/

/-- R316-R320: a refused GCALL writes its status and passes; an accepted one, with nothing pending in the group, enters the
gate; GRET leaves it with the status once the callee has nothing outstanding, and refuses the device's own statuses. -/
def Obligations.Gates : Prop :=
  ∀ (g : Guard) (d : Dst) (num : BitVec 8) (a : Src) (s : State),
    let c := s.ctx g
    (let u : Info := { g := g, uses := [d1 d], cls := .a, noHandler := true, noDmr := true, lanes := false,
                       illegal := !gateDst d }
     let r := s.begun u.uses
     u.executes s = true → c.iss = r.here.amask →
      (∀ st, r.refuseCall num.toNat = some st → Completes (.gcall g d num) u s fun c q =>
        (q.setDst d c.ex fun _ => BitVec.ofNat 32 st).modHere fun x =>
          { x with relWait := SMap.set none x.relWait callMark none }) ∧
      (r.refuseCall num.toNat = none → r.callWaits c.id = false → r.callWaits { c.id with x := true } = false →
        CompletesAt (.gcall g d num) u s fun c q => q.enterGate c d num.toNat)) ∧
    (let u : Info := { g := g, uses := [u1 a], cls := .a, level := 1, callee := true, lanes := false }
     let r := s.begun u.uses
     let w := r.src a (low c.ex)
     u.executes s = true → c.iss = r.here.amask →
      (w.toNat < 0xFFFFFF00 → r.calleeOver c.id.team c.id.grp = true →
        CompletesAt (.gret g a) u s fun c q => q.leaveGate c.id.team c.id.grp fun f callee ctx =>
          f.putStatus w { ctx with a := f.giveBack callee.a ctx.a, x := f.giveBack callee.x ctx.x }) ∧
      (0xFFFFFF00 ≤ w.toNat → exec (.gret g a) s = .next (s.trapHere ⟨1, 0, c.pc, c.iss⟩)))

/-- R376, R380: DMRBEG answers 0 and forms the pair, 1 without a core for the trailer, 2 with eight pairs on the bench; a leader's
DMREND passes once the trailer stands at its own and every record has matched: the pair's last checkpoint is asked for, and
the leader issues again when it is safe. -/
def Claims.Redundancy : Prop :=
  ∀ (g : Guard) (d : Dst) (s : State),
    let c := s.ctx g
    (let u : Info := { g := g, uses := [d1 d], cls := .a, noHandler := true, noCallee := true, noDmr := true, lanes := false,
                       illegal := !gateDst d || s.myGroup.split || decide (1 < s.myTeam.st.groups.length) ||
                        s.myTeam.cluster.isSome }
     let r := s.begun u.uses
     let few := (r.bench (benchKey r.myCore)).pairs.length < 8
     u.executes s = true → c.iss = r.here.amask → r.teamCmds c.id.team = false → r.here.busy = false →
      (¬ few → Completes (.dmrbeg g d) u s fun c q => q.setDst d c.ex fun _ => 2) ∧
      (few → r.trailCore c.id.team = none → Completes (.dmrbeg g d) u s fun c q => q.setDst d c.ex fun _ => 1) ∧
      (∀ core, few → r.trailCore c.id.team = some core → CompletesAt (.dmrbeg g d) u s fun c q =>
        (((q.setDst d c.ex fun _ => 0).advance c.id c.iss).formPair c.id.team c.id.grp core))) ∧
    (let u : Info := { g := g, cls := .a, noHandler := true, noCallee := true, dmrOnly := true, lanes := false }
     let r := s.begun u.uses
     ∀ p q lo, u.executes s = true → c.iss = r.here.amask → r.myGroup.dmr = .leader p →
     r.dmrPair c.id.team c.id.grp = some q → SMap.get none r.here.relWait (recordMark c.ex) = some lo →
     r.trailerAt q = true → q.recsL = [] → q.recsT = [] →
      CompletesAt (.dmrend g) u s fun c t =>
        (((t.setMark c.ex none).advance c.id c.iss).modMyGroup fun x => { x with wait := t.time }).endSoon c.id.team p)

/-- R351, R325, R326: HALT halts its group once nothing of it is pending, and in a routine takes its stream away. TLBINV begins a
release of every path; when that is complete it drops the translations that it names from every core's and every bench's TLB and
key-value cache and recalls the registers bound through them; it completes, and acquires, once their departures have been applied and every
engine unit of before has landed. RECALL recalls the registers bound to the line that it names, and completes once their departures have
been applied. Both wait for room for the departures (R205). A recalled register is RECALLED (of a group that holds a frame for each of
its calls). -/
def Claims.Privileged : Prop :=
  ∀ (g : Guard) (f : TlbForm) (k : RecallForm) (s : State),
    let c := s.ctx g
    let marks := fun (q : State) => q.modStream c.id fun st =>
      { st with relWait := SMap.set none (SMap.set none st.relWait (waitLo c.ex) (some s.nextId)) (waitHi c.ex) (some q.nextId) }
    (let u : Info := { g := g, level := 1 }
     let r := s.begun u.uses
     u.executes s = true →
      (r.here.mode = .normal ∨ r.here.mode = .handler →
       (∀ x, r.resultsIn { c.id with x := x } = true) →
        Completes (.halt g) u s fun c q =>
          (q.settleGroup c.id.team c.id.grp).modMyGroup fun x => { x with halted := true }) ∧
      (r.here.mode = .save ∨ r.here.mode = .restore →
        CompletesAt (.halt g) u s fun c q =>
          let q := q.modHere fun st => { st with amask := 0 }
          if q.myTeam.routinesOver then q.later 1 (.saveSpill c.id.team) else q)) ∧
    (let u : Info := { g := g, uses := tlbUses f, cls := .a, level := 2 }
     let r := s.begun u.uses
     ∀ w : TlbWhat, u.executes s = true → r.tlbWhat f (low c.ex) = some w →
      (SMap.get none r.here.relWait (waitLo c.ex) = none → (∀ i ∈ maskLanes c.ex, SMap.get none r.here.relWait i = none) →
        exec (.tlbinv g f) s = .next (State.hold
          (let q := (s.beginRelease c.id .package).askCkpt c.id.team
           if crosses (q.scopeOf c.id.team .package) && !q.allOut (q.teamCore c.id.team) then q
           else q.modStream c.id fun st => { st with relWait := (maskLanes c.ex).foldl (fun m i =>
             if (SMap.get none m i).isNone then SMap.set none m i (some q.time) else m) st.relWait }))) ∧
      (SMap.get none r.here.relWait (waitLo c.ex) = none → Claims.released c r (fun d x => x.allReleased c.id d) →
       (r.clearRel c.id c.ex).recallTakes c.id.team ((r.clearRel c.id c.ex).boundBy w) = true →
        exec (.tlbinv g f) s = .next (State.hold
          (let p := s.modStream c.id fun st => { st with relWait := (maskLanes c.ex).foldl (fun m i => SMap.set none m i none) st.relWait }
           marks ((p.boundBy w).foldl (fun q ref => q.recallReg ref) { p with
             cores := p.cores.map fun x =>
               (x.1, { x.2 with tlb := x.2.tlb.filter fun e => !w.tlb e, kvc := x.2.kvc.filter fun e => !w.kv e })
             benches := p.benches.map fun x => (x.1, { x.2 with tlb := x.2.tlb.filter fun e => !w.tlb e }) })))) ∧
      (∀ lo hi : Nat,
       SMap.get none r.here.relWait (waitLo c.ex) = some lo → SMap.get none r.here.relWait (waitHi c.ex) = some hi →
       (r.departed lo hi && r.unitsOver hi) = true →
        Completes (.tlbinv g f) u s fun c q => (q.modHere fun st =>
          { st with relWait := SMap.set none (SMap.set none st.relWait (waitLo c.ex) none) (waitHi c.ex) none }).acquire c.id
            .package)) ∧
    (let u : Info := { g := g, uses := (match k with | .va a b => [u1 a, u2 b] | .pa b => [u2 b]), cls := .a, level := 2 }
     let r := s.begun u.uses
     let rs := r.recalled k (low c.ex)
     u.executes s = true →
      (SMap.get none r.here.relWait (waitLo c.ex) = none → r.recallTakes c.id.team rs = true →
        exec (.recall g k) s = .next (State.hold (marks (rs.foldl (fun q ref => q.recallReg ref) s)))) ∧
      (∀ lo hi : Nat,
       SMap.get none r.here.relWait (waitLo c.ex) = some lo → SMap.get none r.here.relWait (waitHi c.ex) = some hi →
       r.departed lo hi = true →
        Completes (.recall g k) u s fun c q => q.modHere fun st =>
          { st with relWait := SMap.set none (SMap.set none st.relWait (waitLo c.ex) none) (waitHi c.ex) none })) ∧
    (∀ ref : LineRef, (s.group ref.team ref.grp).depth = (s.group ref.team ref.grp).frames.length →
      (s.lineAt ref).st = .opened ∨ (s.lineAt ref).st = .opening → keyKind (s.lineAt ref).key ≠ 3 →
      ((s.recallReg ref).lineAt ref).st = .recalled)

/-! ## The machine's own steps: front end, results, traps (02, 05, 07, 16) -/

/-- R42, R43, R159, R161, R287: a fetched line is accepted when its first copy, or else its second, has right parity, and raises a
machine check when neither has; that a page of host memory holds no code is the model's choice (log 45). A partition's grant opens an
issue opportunity of the first stream of its rotation that has something ready, a weak one only where no strong one has; the next ones
follow where it turns out to have nothing. -/
def Claims.FrontEnd : Prop :=
  ∀ (s : State) (id : StreamId),
    (∀ (flips : FetchLine) (pc : DWord) (t : Trans) (r : State),
      let c := s.teamCore id.team
      let l := r.lineBytes t c.die (pcAddr pc)
      s.needsFetch id = some pc → ((s.stream id).check = true → pcValid pc = true) →
      s.translate c .fetch (s.group id.team id.grp).c.asid (pcAddr pc) ((s.stream id).lanesAt pc) id.grp 0
        (2 * id.team + bit01 id.x) false = (.ok t, r) →
        (t.host = true → exec (.fetchLine id flips) s =
          .next (r.takeTrap id ⟨8, 0, BitVec.ofNat 64 (pcAddr pc), (s.stream id).lanesAt pc⟩)) ∧
        (t.host = false →
          ((l ^^^ flips).parityOk = true → exec (.fetchLine id flips) s = .next (r.acceptLine id pc (l ^^^ flips))) ∧
          ((l ^^^ flips).parityOk = false → l.parityOk = true →
            exec (.fetchLine id flips) s = .next (r.acceptLine id pc l)) ∧
          ((l ^^^ flips).parityOk = false → l.parityOk = false → exec (.fetchLine id flips) s =
            .next (r.takeTrap id ⟨14, 0, BitVec.ofNat 64 (pcAddr pc), (s.stream id).lanesAt pc⟩)))) ∧
    (∀ (c : CoreId) (part k : Nat) (q : Rot) (l : List (Nat × Rot)), s.candidates c part = (k, q) :: l →
        exec (.issueGrant c part) s = .next { s with
          held := true, opened := true, opp := q.id, rest := l.map fun x => x.2.id, found := [],
          lastPart := coreKey c * 4 + part } ∧
        s.readyPcs q.id ≠ [] ∧ (s.weak q.id = true → ∀ x ∈ l, s.weak x.2.id = true)) ∧
    (∀ (c : CoreId) (part : Nat), s.candidates c part = [] → exec (.issueGrant c part) s = .next s)

/-- R159, R160, R127, R68: of the ready program counters the first slot takes one that most active lanes hold; the second takes
the oldest once one is 32 opportunities old. Two instructions of one opportunity act at the lower address first, one that
traps after one that does not, and of two that trap the lower address's alone, which for traps other than those of decode is the model's
choice (log 43). -/
def Claims.Opportunity : Prop :=
  (∀ (s : State) (id : StreamId) (l : List DWord) (pc : DWord), s.firstSlot id l = some pc →
    pc ∈ l ∧ ∀ q ∈ l, popcount ((s.stream id).lanesAt q) ≤ popcount ((s.stream id).lanesAt pc)) ∧
  (∀ (s : State) (r : Rot) (l : List DWord) (pc : DWord), s.secondSlot r l = some pc →
    pc ∈ l ∧ ((∃ q ∈ l, 32 ≤ r.age q) → ∀ q ∈ l, r.age q ≤ r.age pc) ∧
    ((∀ q ∈ l, r.age q < 32) →
      ∀ q ∈ l, popcount ((s.stream r.id).lanesAt q) ≤ popcount ((s.stream r.id).lanesAt pc))) ∧
  (∀ (s : State) (id : StreamId) (r : Rot) (l : List DWord), l ≠ [] → s.firstSlot id l ≠ none ∧ s.secondSlot r l ≠ none) ∧
  (∀ (a b : Cursor) (x y : Bool), a.pc.toNat < b.pc.toNat →
    inOrder [(a, x), (b, y)] = inOrder [(b, y), (a, x)] ∧
    inOrder [(a, x), (b, y)] = if x && y then [a] else if x then [b, a] else [a, b])

/-- R49, R343, R344, R195, R196: a ready long-latency result is written and the group looked at; a stream whose results are in
enters the handler that waits for them, and in normal mode takes its oldest held trap; a poll falls due; a watch wakes its
stream with its cause. -/
def Claims.ResultsAndTraps : Prop :=
  ∀ (s : State) (id : StreamId),
    (∀ (n : Nat) (p : Pending), (s.stream id).pend.find? (fun p => p.id == n) = some p → s.pendReady p = true →
      (p.after = none →
        exec (.longLatencyWriteback id n) s = .next ((s.writePending id p).endGroup id.team id.grp)) ∧
      (p.after ≠ none → exec (.longLatencyWriteback id n) s =
        .next (((s.writePending id p).acquire id .package).endGroup id.team id.grp))) ∧
    (∀ (r : TrapRec) (rest : List TrapRec), (s.group id.team id.grp).dmr = .alone → s.entryReady id r = true →
      ((s.stream id).entering = some r →
        exec (.trapEntry id) s = .next ((s.modStream id fun st => { st with entering := none }).trapOne id r)) ∧
      ((s.stream id).entering = none → (s.stream id).traps = r :: rest →
       (s.stream id).mode = .normal → (s.group id.team id.grp).halted = false →
        exec (.trapEntry id) s = .next ((s.modStream id fun st => { st with traps := rest }).takeTrap id r))) ∧
    (exec (.pollRetry id) s = .next (s.modStream id fun x =>
      { x with poll := x.poll.map fun p => { p with ready := p.ready || decide (p.due ≤ s.time) } })) ∧
    (∀ (cause : Nat) (w : WatchRec), (s.stream id).watch = some w → w.flip = none → s.wakeHolds id w cause = true →
        exec (.lwaitWake id cause) s = .next (s.modStream id fun st =>
          let st := { st.put w.dst w.ex fun _ => BitVec.ofNat 32 cause with watch := none }
          st.setPcs (st.lanesAt w.pc) fun _ => nextPc w.pc))

/-! ## Lines, departures, updates, landings (08, 09, 10) -/

/-- R31, R204, R226, R228: an OPENING register opens at once for `.write`, when its line is present for a scratchpad line, when
its fetch has arrived else; a line of the cluster window is the member's scratchpad line; a fatal translation is noted in the
register. -/
def Claims.LineFetches : Prop :=
  ∀ (s : State) (ref : LineRef), let l := s.lineAt ref
    let c := s.teamCore ref.team
    l.st = .opening → l.fault = none →
      (l.mode = 1 → l.windowed = false →
        exec (.lineFetchLands ref) s = .next (s.setLineAt ref { l with st := .opened, fetched := s.time })) ∧
      (l.mode = 3 → s.present ref.team l.line = true →
        exec (.lineFetchLands ref) s = .next (s.setLineAt ref { l with st := .opened, fetched := s.time })) ∧
      (l.windowed = true → keyKind l.key ≠ 3 →
        (s.windowTarget ref.team (128 * l.line) = none →
          exec (.lineFetchLands ref) s = .next (s.lineFatal ref l (128 * l.line + l.byte))) ∧
        (∀ m off, s.windowTarget ref.team (128 * l.line) = some (m, off) →
          let q := s.modEntry c l.key fun x => { x with win := some (m, off) }
          let l' := { l with pa := scratchKey m (off / 128), w := true }
          (l.mode = 1 → exec (.lineFetchLands ref) s =
            .next (q.setLineAt ref { l' with st := .opened, fetched := q.time })) ∧
          (l.mode ≠ 1 → q.present m (off / 128) = true →
            exec (.lineFetchLands ref) s = .next (q.lineArrives ref l')))) ∧
      (l.mode = 0 ∨ l.mode = 2 → keyKind l.key ≠ 3 → l.windowed = false →
        ∀ (t : Trans) (r : State),
        let q := s.translate c (if l.mode = 2 then .openRw else .openRead) ((s.group ref.team ref.grp).ctxAt ref.depth).asid
          (128 * l.line + l.byte) l.lanes ref.grp 0 l.bound false
        (q = (.ok t, r) → exec (.lineFetchLands ref) s = .next (r.lineArrives ref
          { l with pa := t.addr c.die (128 * l.line), size := t.size, host := t.host, w := t.w, kid := t.key })) ∧
        (q = (.fatal, r) → exec (.lineFetchLands ref) s = .next (r.lineFatal ref l (128 * l.line + l.byte))))

/-- R206, R228, R236, R280, R237, R238: a write that the lehr has sent is applied where it goes: a departure at its point of
coherence or in another member's scratchpad, an engine's unit through the translations of its service, an update at its
partition, a landing in its scratchpad; the presence that a timed CMCAST sets comes when every landing has arrived and CLK has
reached its time. -/
def Claims.WritesApplied : Prop :=
  ∀ (s : State) (c : CoreId) (id : Nat) (e : LehrEntry) (t : Trans) (r : State),
    ((s.core c).lehr.find? (fun e => e.id == id) = some e → e.sent = true →
      (∀ asid va rep bs clean, e.work = .depart asid va .mem rep bs clean →
        (∀ go, s.writeLookup c e .departure asid va 0 go = go t r) →
          exec (.departureApplied c id) s = .next (r.departMem c e va rep bs clean t)) ∧
      (∀ asid va u off bs clean, e.work = .depart asid va (.window u off) none bs clean → (s.core c).behind e = false →
        s.journalRoom (s.teamCore u) e.team (scratchKey u (off / 128)) = true →
          exec (.departureApplied c id) s = .next (s.departPad c e u off bs)) ∧
      (∀ asid va pa key bs clean, e.work = .depart asid va (.kv pa key) none bs clean → (s.core c).behind e = false →
          exec (.departureApplied c id) s = .next (s.departKv c e pa key bs clean)) ∧
      (∀ cmd unit asid o, e.work = .engine cmd unit asid o → (s.core c).behind e = false → (s.core c).logged e = false →
        (∀ v ∈ o.via, v.tr.host = false) ∨ (s.core c).hostTurn e = true →
          exec (.departureApplied c id) s = .next (s.applyEngine c e cmd unit o)) ∧
      (∀ op asid va x lead lanes, e.work = .update op asid va x lead lanes → t.host = false →
        (∀ go, s.writeLookup c e .red asid lead.toNat lanes go = go t r) →
          exec (.frUpdateMerge c id) s = .next
            (((r.dropEntry c id).farApply c.die t va.toNat op x true).2.noteWrite (memWatch (t.addr c.die va.toNat)))) ∧
      (∀ cast u off bytes pois, e.work = .land cast u off bytes pois →
        s.journalRoom (s.teamCore u) e.team (scratchKey u (off / 128)) = true →
          exec (.cmcastLanding c id) s = .next (s.castLands c e cast u off bytes pois))) ∧
    (∀ (k : Cast) (d : DWord), (s.core c).casts.find? (fun k => k.id == id) = some k → k.at_ = some d → k.left = 0 →
      d.toNat ≤ (s.clk c.die).toNat → exec (.cmcastTimedPresence c id) s = .next (s.castPresent c k)) ∧
    (∀ (st : StreamId), (s.group st.team st.grp).depth = 0 → ((s.stream st).amos.any fun a => a.id == id) = true →
      exec (.amoPerformed st id) s = .next (match s.amoStep st id with
        | (q, none) => q.endGroup st.team st.grp
        | (q, some k) => if k.code = 14 then q.takeTrap st k else q.lateTrap st k))

/-- R210, R241-R243, R155, R321, R379: an arrival that has released reaches its team's combining point, a release its waiting
group, a contribution its bench's reduction unit; an abort leaves its gate; a pair's first records are compared, and roll both
groups back where they differ. -/
def Claims.Meetings : Prop :=
  ∀ (s : State) (t g : Nat) (sc : Scope),
    (∀ op v has_ date, (s.group t g).slot sc = .pending op v has_ false date →
      (s.isWide t sc = false ∨ s.releaseDone ⟨t, g, false⟩ sc date = true) →
        exec (.barrierArrival t g sc) s = .next
          ((s.modTeam t fun x => x.mapCores (s.isWide t sc) fun k =>
            let k := k.modGroup g fun y => y.setSlot sc (.pending op v has_ true date)
            { k with phases := dropPhase k.phases (scopeCode sc) t ++
              [(findPhase k.phases (scopeCode sc) t none).add g op v has_ false] }).checkTeam t sc)) ∧
    (∀ op v has_ date total bad, (s.group t g).slot sc = .pending op v has_ true date →
        exec (.barrierRelease t g sc total bad) s = .next
          (s.modTeam t fun x => x.mapCores (s.isWide t sc) fun k => k.modGroup g fun y => y.setSlot sc (.released total bad))) ∧
    (∀ x m cl y p, (s.team t).cluster = some (x, m) → s.clusterOf t = some cl → (s.group t g).openCred = some (y, p) →
      let b := benchKey (s.teamCore t)
      let n := SMap.get 0 (s.team t).credCount g
      let mine := fun (q : CredRed) => q.cluster == cl.id && q.grp == g && q.n == n
      let r := ((s.bench b).creds.find? mine).getD
        ⟨cl.id, g, n, (cl.current.filter fun q => (s.group q.2 g).live).map (·.1), [], [], []⟩
      exec (.credContribution t g) s = .next ((s.modBench b fun k =>
        { k with creds := (k.creds.filter fun q => !mine q) ++
          [{ r with got := r.got ++ [(m, (s.group t g).image p.accOf)], who := r.who ++ [(m, t)],
                    pends := SMap.set 0 r.pends m p.id }] }).checkCreds b)) ∧
    (∀ code f rest, (s.group t g).abort = some code → (s.team t).live = true → s.calleeOver t g = true →
      (s.group t g).frames = f :: rest →
        (f.trapc = false → exec (.gateAbort t g code) s = .next
          (s.leaveGate t g fun f _ ctx => f.putStatus 0xFFFFFF09 ctx)) ∧
        (f.trapc = true → exec (.gateAbort t g code) s = .next
          ((s.leaveGate t g fun _ _ ctx => ctx).takeTrap ⟨t, g, false⟩
            ⟨11, 0, BitVec.ofNat 64 (code % 256 + 256 * f.gate), f.ex⟩))) ∧
    (∀ b p q l ls r rs, (s.bench b).pairs.find? (fun q => q.id == p) = some q → q.recsL = l :: ls → q.recsT = r :: rs →
      let put := fun (q' : Pair) =>
        s.modBench b fun k => { k with pairs := k.pairs.map fun x => if x.id = p then q' else x }
      (l.1 % 2 ^ 32 = r.1 % 2 ^ 32 ∧ l.2 = r.2 →
        exec (.compareRecord b p) s = .next
          (if ls.isEmpty || rs.isEmpty then put { q with recsL := ls, recsT := rs }
           else (put { q with recsL := ls, recsT := rs }).later 1 (.compareRecord b p))) ∧
      (¬ (l.1 % 2 ^ 32 = r.1 % 2 ^ 32 ∧ l.2 = r.2) →
        exec (.compareRecord b p) s = .next
          ((((put { q with recsL := [], recsT := [], strikes := q.strikes + 1, slot := l.1 / 2 ^ 32 }).modTeam q.leader
            fun t => { t with blocked := some s.time }).modTeam q.trailer fun t => { t with blocked := some s.time }).later 0
              (.rollback q.leader))))

/-! ## Engines and faults (11, 13) -/

/-- R248, R251, R253, R264: a queued command whose stream's turn it is begins service, commands of one group in issue order; a
unit that has been read lands, waits or fails in its turn; the rows of an embedding command arrive. -/
def Claims.EngineSteps : Prop :=
  ∀ (s : State) (c : CoreId) (id : Nat) (k : Cmd), s.cmd c id = some k →
    (k.state = 0 → k.stopped = [] → s.queuedBefore c k = false → s.svcTurn c k = true →
      (∀ tag ls, k.kind = .cpyGs tag ls ∨ (∃ ls', k.kind = .cpySg tag ls') →
      let st : StreamId := ⟨k.team, k.grp, k.x⟩
      let k' := { k with state := 1, stopped := [] }
      let s' := (s.modCore c fun x => { x with svc := x.svc.spend st (s.weight st) }).modCmd c id fun _ => k'
      exec (.commandServiceStart c id) s = .next (s'.startServe c k' (.out (padUnit [] false) s')))) ∧
    (∀ lane unit, let u := lane + unit
      k.state ≠ 0 → (k.landed ++ k.sent ++ k.failed).contains u = false → k.barred u = false →
        (∀ o t, serveUnit c k u s = .out o t →
          exec (.engineUnitLands c id lane unit) s =
            .next ((t.unbar c k u).unitOut c k u o (.engineUnitLands c id lane unit))) ∧
        (∀ t susp, serveUnit c k u s = .wait t susp → k.inTurn u = true →
          exec (.engineUnitLands c id lane unit) s =
            .next ((t.modCmd c id fun x => x.stop u susp).again (.engineUnitLands c id lane unit))) ∧
        (∀ code adr t, serveUnit c k u s = .fail code adr t → k.inTurn u = true →
          exec (.engineUnitLands c id lane unit) s =
            .next (if k.tag.isSome then t.failLane c k u adr (k.laneLines u) else t.failCmd c k code))) ∧
    (∀ tid t d i b h r remote,
      let idx := s.padWords k.team (embIdx d) (min (embN d) (2 ^ 20))
      let bag := s.padWords k.team (embBag d) (min (embNb d) 65536 + 1)
      let need := embSplit [] [] (idx.map (·.1))
      k.kind = .emb tid t d i b h r false → k.state ≠ 0 → t.ecm = 0 → embOk t d (bag.map (·.1)) [] = true →
      (∀ row ∈ need.1, embFirst d + row % embOwners d = s.pkg.id) →
      ∀ o q, embGather c k t d remote s (fun rows s =>
          .out (padUnit [] false) (s.modCmd c id fun x =>
            { x with kind := .emb tid t d idx bag [] (rows ++ need.2) true, stopped := [] }))
          need.1 = .out o q → ∀ k', q.cmd c id = some k' →
        exec (.embExchange c id remote) s = .next (q.startUnits c k'))

/-- R287-R293, R300: a walk that ends in a translation fills the TLBs, a missing one sends a fault record to its home, a fatal
one is noted; a home die's processor puts records into its ring in the order of arrival; RESP 1 walks again, where a walker is free
and else once one is, 2 is fatal. The answer of another package's home comes as an input (log 25). -/
def Claims.TranslationFaults : Prop :=
  ∀ (s : State) (c : CoreId) (id : Nat) (w : Walk), (s.core c).walks.find? (fun w => w.id == id) = some w →
    (w.phase = .walking →
      ((s.core c).lowerWalks w = false →
        (∀ t, s.walkFor w.need w.asid w.addr.toNat = .ok t → w.logged = false →
          exec (.pageWalk c id) s = .next ((s.tlbPut c w.asid w.addr.toNat t).dropWalk c id)) ∧
        (s.walkFor w.need w.asid w.addr.toNat = .missing →
          exec (.pageWalk c id) s = .next (s.walkMissing c w (s.faultHome c.die w.asid w.addr.toNat))) ∧
        (s.walkFor w.need w.asid w.addr.toNat = .fatal → exec (.pageWalk c id) s = .next (s.walkFatal c w))) ∧
      (∀ e, s.kvWalkIn (s.walkDesc c w) w.asid w.addr.toNat (w.need == .kvRw) = .ok e →
        exec (.kvWalk c id) s = .next ((s.kvPut c e).dropWalk c id)) ∧
      (∀ d, s.kvWalkIn (some d) w.asid w.addr.toNat (w.need == .kvRw) = .missing → s.walkDesc c w = some d →
        exec (.kvWalk c id) s = .next (s.walkMissing c w (d.fppkg, d.fpdie)))) ∧
    (w.phase = .answered →
      exec (.pageWalk c id) s = .next ((s.modWalk c id fun x =>
        { x with phase := if s.walkerFree c false then .walking else .answered }).again (.pageWalk c id)) ∧
      exec (.kvWalk c id) s = .next ((s.modWalk c id fun x =>
        { x with phase := if s.walkerFree c true then .walking else .answered }).again (.kvWalk c id))) ∧
    (w.phase = .faulted →
      (∀ home n, home < 4 → w.slot = slotName home n →
        let resp := field (s.readNat 0 (ringAddr (s.die home) n) 1) 4 2
        (resp = 1 → exec (.faultResponse c ⟨id, none⟩) s = .next ((s.modWalk c w.id fun w =>
          { w with phase := if s.walkerFree c w.kv then .walking else .answered, fresh := true, slot := 0, sent := 0 }).later 1
            (if w.kv then .kvWalk c w.id else .pageWalk c w.id))) ∧
        (resp = 2 → exec (.faultResponse c ⟨id, none⟩) s = .next (s.walkFatal c w)) ∧
        (resp ≠ 1 → resp ≠ 2 → exec (.faultResponse c ⟨id, none⟩) s = .next (s.again (.faultResponse c ⟨id, none⟩)))) ∧
      (s.recordAway c w = true →
        exec (.faultResponse c ⟨id, some true⟩) s = .next (s.retryWalk c w) ∧
        exec (.faultResponse c ⟨id, some false⟩) s = .next (s.walkFatal c w))) ∧
    (∀ home rec, (s.die home).waiting = [] → s.sentBefore home c id = false →
      let q := (s.modDie home fun d => { d with waiting := [(c, id, rec)] }).putRecord home
      (q.die home).waiting = [] → exec (.faultRecord home c id rec) s = .next q)

/-! ## Recovery and context (17, 18) -/

/-- R212, R364-R367: a checkpoint that is asked for is taken when none is pending and nothing of the team is outstanding, and is
safe 256 cycles later, when the lehr releases what it covers; a strike blocks the checkpoints of every team on its core, and
rolls them back; writes 1,024 cycles old ask for a checkpoint. -/
def Claims.Checkpoints : Prop :=
  ∀ (s : State) (t : Nat),
    ((s.team t).live = true → (s.team t).wantCkpt = true → (s.team t).pending = none → (s.team t).busy = false →
      (s.team t).blocked = none → s.teamReleasing t = false → s.teamPair t = none →
      (∀ r ∈ (s.core (s.team t).coreId).sets, r.complete = true → r.teams.contains t = false) →
        exec (.checkpointTaken t) s = .next ((s.modTeam t fun x =>
          { x with pending := some ⟨x.st, s.time⟩, wantCkpt := false }).later 256 (.checkpointSafe t s.time))) ∧
    (∀ p, (s.team t).blocked = none → (s.team t).pending = some p → s.linksOf t p.date = [] → s.teamPair t = none →
        let q := s.commitCkpt t
        let c := s.teamCore t
        exec (.checkpointSafe t p.date) s = .next ((q.modCore c fun k => { k with regMoves := k.regMoves.filter fun r =>
          !(r.2.all fun u => !(q.team u).live || decide (r.1 ≤ (q.team u).safe.date)) }).releaseLehr c)) ∧
    (∀ c, let ts := s.together (s.coreTeams c)
      exec (.strikeReport c) s = .next
        (ts.foldl (fun s t => s.later 1 (.rollback t)) ((s.modCore c fun k => { k with strikes := k.strikes + 1 }).stopTeams ts))) ∧
    ((s.team t).live = true → (s.team t).blocked ≠ none → s.together [t] = [t] → s.teamPair t = none →
        exec (.rollback t) s = .next ((s.rollTeam t).modCore (s.teamCore t) fun k =>
          { k with regMoves := k.regMoves.filter fun r => !r.2.contains t })) ∧
    (∀ entered, (s.team t).live = true → (s.team t).pending = none → (s.team t).safe.date ≤ entered →
      (∃ e ∈ (s.core (s.team t).coreId).lehr, t ∈ e.owners ∧ e.sent = false) →
        ∃ n first, exec (.lehrAgeTimeout t entered) s = .next ((s.askCkpt t).later n (.lehrAgeTimeout t first)))

/-- R373, R332, R339, R341: a second uncorrectable read poisons the two granules of its code word; an error of a team's shadow or
journal is a machine check in its groups, one of a unit in those that it serves, and the kiln cores hear of it; a plane drops out after 8
retries of a flit that failed, or when it fails; the clamp sets in at the power limit, and heat of 115 °C stops every team; that it throttles
every die is the model's choice (log 31), and so is the slot that the machine checks name (log 46); the host link trains down to a width
and rate that it has, the list of rates being the family's (R328, log 50). -/
def Claims.HardwareFailures : Prop :=
  ∀ (s : State) (pa plane fails draw die temp width rate : Nat),
    exec (.memoryUncorrectable (.memory pa) true) s =
      .next ((s.setPoison (pa / 32 * 32) true).setPoison (pa / 32 * 32 + 16) true) ∧
    exec (.memoryUncorrectable (.memory pa) false) s = .next s ∧
    (∀ t b, exec (.memoryUncorrectable (.shadow t) b) s = .next (s.checkGroups ((s.team t).groupIds.map fun g => (t, g)))) ∧
    (∀ gs b, exec (.memoryUncorrectable (.unit gs) b) s = .next ((s.checkGroups gs).tellKiln 4 gs.length)) ∧
    (plane < 72 → exec (.planeFailure plane) s = .next (s.planeDown plane) ∧
      (8 ≤ fails → exec (.flitCrcError plane fails) s = .next (s.planeDown plane))) ∧
    (fails < 8 → exec (.flitCrcError plane fails) s = .next s) ∧
    exec (.powerClamp draw) s = .next (s.modPkg fun p => { p with clamped := decide (p.power ≤ draw) || s.hot }) ∧
    (let q := (s.modPkg fun p => { p with thermal := SMap.set 0 p.thermal die temp }).modPkg fun p =>
       { p with clamped := p.clamped || decide (105 ≤ temp) }
     (temp < 115 → exec (.thermalLimit die temp) s = .next q) ∧
     (115 ≤ temp → exec (.thermalLimit die temp) s = .next
       (([0, 1, 2, 3].foldl (fun s d => s.modDie d fun k => { k with throttled := true }) q.haltAll).tellKiln 1 die))) ∧
    exec (.hostLinkTraining width rate) s = .next (s.modPkg fun p =>
      { p with link := (fallBack [16, 8, 4, 2, 1] width, fallBack [128, 64, 32, 16, 8, 5, 2] rate) })

/-- R359, R360, R382-R395: a request pre-empts a live team that is in no drain or save, and names another area for one whose save has
not been delivered; a drain that times out is decided again; a save waits until every member of the cluster is asked, reaches every
stream of a quiet team, and the members' areas take their bytes together when every routine has ended, or fail together; with the
firmware running, a refused restore is answered, an accepted one enters its gaffer's order once its cluster is asked whole, and a restored
team loads its area. What refuses an area, the bytes of latches and locks in it, and what becomes of a stranger's arrivals are the
model's choices (log 32). -/
def Claims.Preemption : Prop :=
  ∀ (s : State) (t : Nat),
    (∀ by_, (s.team t).live = true → (s.team t).trails = false → (s.team t).drain = none → (s.team t).saving = none →
      (by_ = .gaffer → (s.team t).cls = .weak ∧ (s.team t).wave = false) →
        exec (.preemptRequest t by_) s = .next (s.preempt t by_ true)) ∧
    (∀ area old, (s.team t).live = true → (s.team t).trails = false → (s.team t).drain = none → (s.team t).saving = some old →
      (s.team t).inSave = false → (∃ e ∈ s.agenda, e.2 = .saveRequest t) →
        let q := s.modTeam t fun x => { x with saving := some area }
        exec (.preemptRequest t (.system area)) s = .next (if (s.team t).pooled = true then
          (q.modTeam t fun x => { x with pooled := false }).modDie (s.team t).die fun d => { d with pool := d.pool ++ [old.toNat] }
          else q)) ∧
    (∀ by_, (s.team t).drain = some by_ → (s.team t).live = true →
        exec (.drainTimeout t) s = .next ((s.modTeam t fun x => { x with drain := none }).preempt t by_ false)) ∧
    (∀ area, (s.team t).saving = some area → (s.team t).live = true → (s.team t).liveGroups ≠ [] → (s.team t).inSave = false →
      ((∃ u ∈ s.clusterTeams t, (s.team u).saving = none) →
        exec (.saveRequest t) s = .next ((s.askMembers t).again (.saveRequest t))) ∧
      ((s.team t).restoring = false → (s.team t).blocked = none → (s.team t).quiet = true →
       s.recallRoom (s.teamRegs t) = true → (∀ u ∈ s.clusterTeams t, (s.team u).saving ≠ none) → s.teamPair t = none →
        exec (.saveRequest t) s = .next ((s.deliver t area).again (.saveRequest t)))) ∧
    (∀ area, (s.team t).saving = some area → (s.team t).live = true → (s.team t).inSave = true →
      (s.team t).routinesOver = true → s.routineRegs t = [] → s.writesOver t = true →
      let ts := (s.clusterTeams t).filter fun u => !(s.team u).out
      (∀ u ∈ ts, s.spillReady u = true) →
      (∀ tr r, ts = [t] → s.lookArea t = (.ok tr, r) → (r.team t).saving = some area →
        let x := r.team t
        let line := fun (u : State) (n : Nat) => (List.range 128).filterMap fun i =>
          (u.areaByte t x.led (128 * n + i)).map fun b => (area.toNat + 128 * n + i, b)
        exec (.saveSpill t) s = .next (((List.range (x.areaSize / 128)).foldl (fun u n =>
          u.putBytes x.die (fun a => r.tlbFind x.coreId x.asid a) (line r n) []) r).switchOut t area x.asid)) ∧
      (let looked := ts.foldl (fun (r : List Tx × State) u => (r.1 ++ [(r.2.lookArea u).1], (r.2.lookArea u).2)) ([], s)
       looked.1.contains .fatal = true →
        exec (.saveSpill t) s = .next (ts.foldl (fun q u => q.saveFails u) looked.2))) ∧
    (s.pkg.booted = false → ∀ asid area, exec (.restoreRequest asid area) s = .next s) ∧
    (∀ asid area h gs m (ds tags as_ xs : List Nat), s.pkg.booted = true → s.readVirt 0 asid area.toNat 256 = some h →
      let parts := fun (o n : Nat) => (List.range (field h 40 6)).map fun k =>
        s.readVirt 0 asid (area.toNat + (0x8000 + 0x40000 * k + o)) n
      s.readVirt 0 asid (area.toNat + 0x100) 0x1F00 = some m →
      parts 0x10000 256 = gs.map some → parts 0x10100 256 = ds.map some → parts 0x10200 256 = tags.map some →
      parts 0x1000 512 = as_.map some → parts 0x9000 512 = xs.map some →
      let refused := s.areaRefused (s.areaDie asid area h gs) h gs = true ∨ m ≠ 0 ∨ (∃ d ∈ ds, linesBad d = true) ∨
        (∃ x ∈ tags, tagsBad x = true) ∨ ∃ p ∈ as_ ++ xs, partBad p = true
      (refused → exec (.restoreRequest asid area) s = .next (s.tellKiln 2 area.toNat)) ∧
      (∀ v, ¬ refused → s.pkg.saved.find? (fun v => v.area == area && v.asid == asid) = some v →
        let q := s.modTeam v.team fun x => { x with saving := some area, led := gs.any fun g => field g 28 1 == 1 }
        (q.setAsked v.team = false → exec (.restoreRequest asid area) s = .next q) ∧
        (q.setAsked v.team = true →
          let x := q.team v.team
          let item := 2 * ((q.clusterTeams v.team).head?).getD v.team + 1
          let weak := x.cls == .weak && !x.wave
          exec (.restoreRequest asid area) s = .next ((q.modDie x.die fun d =>
            if weak then { d with weakOrder := d.weakOrder ++ [item] } else { d with order := d.order ++ [item] }).pollOnce 1
              (.teamAdmission x.die weak))))) ∧
    (∀ area v, (s.team t).saving = some area → s.pkg.saved.find? (fun v => v.team == t) = some v → (s.team t).live = true →
      (s.team t).started = false → s.pkg.booted = true → (s.die (s.team t).die).throttled = false →
      let x := s.team t
      let span := s.translateSpan x.coreId .engRead v.asid area.toNat x.areaSize 0 ((x.groupIds.head?).getD 0) 0 0
      (∀ r, span = (.fatal, r) →
        exec (.restoreLoad t) s = .next (((r.unseat t).modTeam t fun x =>
          { x with live := false, out := true, saving := none }).tellKiln 3 area.toNat)) ∧
      (∀ r tr, span = (.ok tr, r) →
        let byte := fun (o : Nat) => r.readVa x.coreId v.asid (area.toNat + o)
        let rd := fun (o n : Nat) => leNat ((List.range n).map fun i => byte (o + i))
        let q := ((r.setTeam t (x.load area.toNat rd r.time)).loadPad t (0x8000 + 0x40000 * x.st.groups.length) byte).modPkg fun p =>
          { p with saved := p.saved.filter fun v => v.team != t }
        (v.src = none → exec (.restoreLoad t) s = .next (q.lateCred t)) ∧
        (v.src ≠ none →
          let z := (q.strangerArrivals t (field (rd 48 8) 17 6) fun k => field (rd (0x8000 + 0x40000 * k + 0x10000) 8) 29 4).strangerHolds t
          exec (.restoreLoad t) s = .next (z.modTeam t fun y => { y with safe := ⟨y.st, z.time⟩ }))))

/-! ## Launches, tasks, graphs, host and fabric (07, 08, 15) -/

/-- R170, R171, R175, R179, R167: a launch is refused with its reason or enters the admission orders, in the order of its
queue; a timed launch starts at
its time; a team's end releases its core and counts for its launch. -/
def Claims.Launches : Prop :=
  ∀ (s : State) (id : Nat) (l : Launch), s.launch id = some l →
    (∀ x, l.state = 0 → l.roles = [] → s.submittedBefore l = false → l.graph = none → s.readVirt l.home l.asid l.va.toNat 256 = some x →
      s.virtWritable l.asid l.statusAt 16 = true →
        ((l.take x).reason x l.priv = 0 → exec (.launchSubmit id) s = .next (s.enterOrders (l.take x))) ∧
        ((l.take x).reason x l.priv ≠ 0 → exec (.launchSubmit id) s = .next
          ((s.setStatus (l.take x) 3 ((l.take x).reason x l.priv)).launchOver l 3))) ∧
    (l.tstart.toNat ≤ (s.clk l.home).toNat → exec (.timedLaunchStart id) s = .next
      ((s.teams.filter fun p => p.2.launch == id && p.2.live).foldl (fun s p =>
        s.modTeam p.1 fun t => { t with started := true }) s)) ∧
    ((s.clk l.home).toNat < l.tstart.toNat → ∃ n, 1 ≤ n ∧
      exec (.timedLaunchStart id) s = .next (s.later n (.timedLaunchStart id))) ∧
    (s.pkg.booted = false → ∀ die, s.waits die false = false → exec (.teamAdmission die false) s = .next s) ∧
    (∀ die t, s.pkg.booted = true → (s.die die).throttled = false → s.admitHead die false = some t → t.waits die false = false →
      exec (.teamAdmission die false) s = .next t) ∧
    (∀ t, (s.team t).live = true → (s.team t).trails = false → (s.team t).liveGroups = [] → s.teamOver t = true →
      s.blockReady (s.team t) = true → s.recallRoom (s.windowRegs t) = true → s.teamPair t = none → (s.team t).cluster = none → (s.team t).wave = false →
        exec (.teamEnd t) s = .next ((s.release t).countDone (s.team t).launch))

/-- R182, R183, R187: a batch deals its records; a core forms a wave of the tasks at its queue's head that share an entry, at
most 32; a wave that is due is formed before anything else happens (log 2); an idle core asks the cores of its bench in turn, and takes from
one that holds two or more, once the waves of both have been formed, the last half, at most 16. -/
def Claims.Tasks : Prop :=
  ∀ (s : State),
    (∀ id n g l, s.graph id = some g → (g.node n).running = true → s.imageReady g = true →
      (g.node n).dealt < (s.nodeRec g n).count → s.launch (g.node n).launch = some l →
        exec (.taskDeal id n) s = .next (s.dealChunk g n (s.nodeRec g n) (l.roles.any (·.split)))) ∧
    (∀ c h rest l r roles p, (s.core c).tasks = h :: rest →
      ((s.graph h.graph).bind fun g => s.launch (g.node h.node).launch) = some l → l.roles = r :: roles →
      s.wavePart c l r = some p → (s.die c.die).throttled = false →
      let wave := (((h :: rest).take 64).filter fun t =>
        t.graph == h.graph && t.node == h.node && t.enta == h.enta && t.entx == h.entx).take 32
      (wave.length = 32 ∨ (s.core c).waveAt + 256 ≤ s.time ∨ s.moreFor c h = false) →
      let left := (h :: rest).filter fun t => !wave.contains t
      let q := (s.modCore c fun k => { k with tasks := left, waveAt := s.time }).enterCore (waveTeam l r c p wave s.time)
      exec (.waveFormation c) s = .next (if left.isEmpty then q.seekTasks c 1 else q)) ∧
    (∀ c, s.toIssue = [] → s.opened = false → s.dueWave = some c → step s = stepEvent (.waveFormation c) s) ∧
    (∀ c, (s.core c).tasks = [] → exec (.waveFormation c) s = .next s) ∧
    (∀ c, exec (.stealRetry c) s = .next (if s.idle c then s.later 1 (.stealRequest c (benchNext c 1)) else s)) ∧
    (∀ thief victim, let r := (s.formWave victim).formWave thief
      let q := (r.core victim).tasks
      (s.nextWave victim = none → s.formWave victim = s) ∧
      (2 ≤ q.length → let k := min 16 (q.length / 2)
        exec (.stealRequest thief victim) s = .next
          ((r.modCore victim fun c => { c with tasks := q.take (q.length - k) }).queueTasks thief (q.drop (q.length - k)))) ∧
      (q.length < 2 → r.idle thief = false → exec (.stealRequest thief victim) s = .next r))

/-- R189, R191, R193, R194: a submitted graph starts its START node or stops on a wrong header, NNODE 0 or above 256 with reason 1 by the
model's choice (log 39); it waits while its image is not mapped (log 28); a completion delivers its
arrivals; GCOND changes its condition word, GSIG arrives at its node. -/
def Claims.GraphSteps : Prop :=
  ∀ (s : State) (id : Nat) (g : Graph), s.graph id = some g →
    (∀ src seq op (num : BitVec 8) x, s.updateBefore ⟨src, seq, id⟩ = false → let w := SMap.get 0 g.conds num.toNat
      exec (.gcondUpdate ⟨src, seq, id⟩ op num x) s = .next (s.modGraph id fun g => { g with conds := SMap.set 0 g.conds num.toNat (match op with
        | .set => x | .or => w ||| x | .add => w + x | .umax => if w.toNat < x.toNat then x else w) })) ∧
    (s.imageReady g = true → ∀ n,
      (n < s.nnode g → exec (.gsigArrival id n) s = .next ((s.arriveNode id n).graphOver id)) ∧
      (s.nnode g ≤ n → exec (.gsigArrival id n) s = .next ((s.graphError id 6 n).graphOver id))) ∧
    (g.running = true → exec (.graphSubmit id) s = .next s) ∧
    (g.running = false → s.imageReady g = true →
      (s.pkg.graphs.filter fun h => h.die == g.die && h.running).length < 64 →
      (((s.pkg.graphs.filter fun h => h.die == g.die).takeWhile fun h => h.id != id).all fun h => h.running) = true →
      let h := s.header g
      let n := field h 0 9
      let conds := (List.range 256).foldl (fun m k => SMap.set 0 m k
        (BitVec.ofNat 32 ((s.readVirt g.die g.asid (g.va.toNat + 64 + 4 * k) 4).getD 0))) []
      let q := ((s.modGraph id fun _ => { g with running := true, conds := conds }).writeVirt g.die g.asid (g.va.toNat + 4) 1 1).veil
        { g with running := true, conds := conds } true
      (n ≠ 0 → n ≤ 256 → field h 9 7 = 0 → field h 24 40 = 0 → field h 64 448 = 0 → field h 16 8 < n →
        exec (.graphSubmit id) s = .next ((q.startNode { g with running := true, conds := conds } (field h 16 8)).graphOver id)) ∧
      (n = 0 ∨ 256 < n → exec (.graphSubmit id) s = .next ((q.graphError id 1 0).graphOver id))) ∧
    (∀ n, (g.node n).running = false → exec (.nodeCompletion id n) s = .next s) ∧
    (∀ n, (g.node n).running = true → s.imageReady g = true → 2 ≤ (s.nodeRec g n).kind →
      let r := s.nodeRec g n
      let arms := (r.succ.zipIdx.filter fun p => decide (p.2 ≤ r.narm) && p.1 != 0xFF &&
        ((g.node n).arm.all fun a => a == p.2)).map (·.1)
      exec (.nodeCompletion id n) s = .next
        (((arms.foldl (fun s m => s.arriveNode id m) (s.modNode id n fun x => { x with running := false, launch := 0 })).tryStart id
            n).graphOver id))

/-- R328-R331, R340: a doorbell beyond the ring's size closes its queue, else its next entry is looked at; an entry is
acknowledged with 2 where it is rejected and with 1 where it goes to its agent, and an empty queue has none; transfers through
BAR0, BAR2 and the management window read and write their bytes, or answer an abort. -/
def Claims.HostSteps : Prop :=
  ∀ (s : State) (fn q : Nat) (tail : Word),
    (let b := s.queue fn q
     let r := s.setQueueBlock fn q { b with tail := tail }
     ((64 ≤ fn ∨ 256 ≤ q) → exec (.queueDoorbell fn q tail) s = .next s) ∧
     (fn < 64 → q < 256 →
       (b.en = false → exec (.queueDoorbell fn q tail) s = .next r) ∧
       (b.en = true → b.size < (tail - b.head).toNat →
         exec (.queueDoorbell fn q tail) s = .next (s.setQueueBlock fn q ({ b with tail := tail } : QBlock).off)) ∧
       (b.en = true → (tail - b.head).toNat ≤ b.size →
         exec (.queueDoorbell fn q tail) s = .next (r.pollOnce 1 (.queueEntry fn q)))) ∧
     (b.head = b.tail → exec (.queueEntry fn q) s = .next s) ∧
     (s.pkg.booted = true → b.en = true → b.head ≠ b.tail →
       let a := b.base + 64 * (b.head.toNat % b.size)
       let x := s.readNat 0 a 64
       let kind := field x 0 4
       let b' : QBlock := { b with head := b.head + 1 }
       let acked := fun (n : Nat) =>
         ((s.writePa 0 (a + 1) (BitVec.ofNat 8 (field x 8 8 / 4 * 4 + n))).noteWrite (memWatch a)).setQueueBlock fn q b'
       let rest := fun (t : State) => if b.head + 1 = b.tail then t else t.pollOnce 1 (.queueEntry fn q)
       let irq := if field x 6 1 = 1 then some (fn, field x 10 11) else none
       (entryBad x = true → exec (.queueEntry fn q) s = .next (rest (acked 2))) ∧
       (entryBad x = false → kind ≠ 2 →
         exec (.queueEntry fn q) s = .next (rest ((acked 1).submitEntry fn q b' kind (field x 4 2) (field x 64 64) irq))) ∧
       (∀ desc, entryBad x = false → kind = 2 → s.readVirt 0 b.asid (field x 64 64) 64 = some desc →
         (descBad desc = true → exec (.queueEntry fn q) s = .next (rest (acked 2))) ∧
         (descBad desc = false →
           exec (.queueEntry fn q) s = .next (rest ((acked 1).submitEntry fn q b' 2 (field x 4 2) (field x 64 64) irq)))))) ∧
    (∀ (pa : DWord) (n : Nat) (bs : List Byte),
      exec (.managementAccess pa n none) s = .next (s.answer (if managed pa.toNat n then s.readPas 0 pa.toNat n else [])) ∧
      (managed pa.toNat bs.length = true → exec (.managementAccess pa n (some bs)) s =
        .next ((s.writePas 0 pa.toNat bs).noteWrite (memWatch pa.toNat))) ∧
      (managed pa.toNat bs.length = false → exec (.managementAccess pa n (some bs)) s = .next (s.answer []))) ∧
    (let tr := fun (k : FaultKind) (a : Nat) => (s.virt k (s.queue fn q).asid a).filter fun t => !t.host
     ((s.pkg.booted = false ∨ 64 ≤ fn ∨ 256 ≤ q) → ∀ va n acc, exec (.hostBar2Access fn q va n acc) s = .next (s.answer [])) ∧
     (s.pkg.booted = true → fn < 64 → q < 256 →
       (∀ va n, exec (.hostBar2Access fn q va n .block) s = .next (s.answer (s.queue fn q).bytes)) ∧
       (∀ (va : DWord) (n : Nat),
         (va.toNat + n ≤ 2 ^ 36 → (∀ i < n, tr .engRead (va.toNat + i) ≠ none) →
           exec (.hostBar2Access fn q va n .read) s = .next (s.answer ((List.range n).map fun i =>
             ((tr .engRead (va.toNat + i)).map fun t => s.readTr t 0 (va.toNat + i)).getD 0))) ∧
         ((2 ^ 36 < va.toNat + n ∨ ∃ i < n, tr .engRead (va.toNat + i) = none) →
           exec (.hostBar2Access fn q va n .read) s = .next (s.answer []))) ∧
       (∀ (va : DWord) (n x : Nat),
         (va.toNat + n ≤ 2 ^ 36 → (∀ i < n, tr .engWrite (va.toNat + i) ≠ none) →
           exec (.hostBar2Access fn q va n (.write x)) s =
             .next (s.putBytes 0 (tr .engWrite) ((leBytes n x).zipIdx.map fun p => (va.toNat + p.2, p.1)) [])) ∧
         ((2 ^ 36 < va.toNat + n ∨ ∃ i < n, tr .engWrite (va.toNat + i) = none) →
           exec (.hostBar2Access fn q va n (.write x)) s = .next (s.answer [])))))

/-- R284, R290, R291, R313, R329, R339, R345, R355, R359, R381: system software sets the tables' bases, the rings, the ownership
table, the pools, the comparators, the injection records and the queues' control blocks through the kiln cores, once the firmware
runs. A record that is armed anew has fired for no pair. -/
def Claims.Configuration : Prop :=
  ∀ (s : State) (v d c i : Nat),
    (s.pkg.booted = false → ∀ reg, exec (.configWrite reg v) s = .next s) ∧
    (s.pkg.booted = true →
      exec (.configWrite .asTable v) s = .next (s.modPkg fun p => { p with asTable := v }) ∧
      exec (.configWrite .domainTable v) s = .next (s.modPkg fun p => { p with domTable := v }) ∧
      exec (.configWrite .gateTable v) s = .next (s.modPkg fun p => { p with gateTable := v }) ∧
      exec (.configWrite .handlerTable v) s = .next (s.modPkg fun p => { p with handlerTable := v }) ∧
      exec (.configWrite (.faultRing d) v) s = .next (s.modDie d fun k => { k with ringBase := v }) ∧
      (i < 256 → exec (.configWrite (.ownership i) v) s =
        .next (s.modPkg fun p => { p with own := SMap.set 0 p.own i (BitVec.ofNat 256 v) })) ∧
      (256 ≤ i → exec (.configWrite (.ownership i) v) s = .next s) ∧
      exec (.configWrite (.savePool d) v) s = .next (s.modDie d fun k => { k with pool := k.pool ++ [v] }) ∧
      (i < 12 → exec (.configWrite (.comparator d c i) v) s =
        .next (s.modCore ⟨d, c⟩ fun k => { k with cmp := SMap.set 0 k.cmp i (BitVec.ofNat 128 v) })) ∧
      (12 ≤ i → exec (.configWrite (.comparator d c i) v) s = .next s) ∧
      exec (.configWrite (.injection d i) v) s =
        .next (s.modBench (d * 12 + i) fun k => { k with inject := injectBits v, injCount := 0, injPair := none }) ∧
      (∀ fn q, fn < 64 → q < 256 →
        let b : QBlock := { s.queue fn q with block := queueBits v }
        let r := s.setQueueBlock fn q b
        ((b.en = false ∨ b.head = b.tail) → exec (.configWrite (.queueBlock fn q) v) s = .next r) ∧
        (b.en = true → b.head ≠ b.tail →
          exec (.configWrite (.queueBlock fn q) v) s = .next (r.pollOnce 1 (.queueEntry fn q)))) ∧
      exec (.configWrite .powerLimit v) s = .next (s.modPkg fun p => { p with power := min v 3400 }))

/-- R332-R335, R338: a collective is taken in its queue's order once its descriptor is read; a chunk lands, once what this package
sends of it has left by its lanes, with the contributions combined in ascending order of package; what the egress set does
not hold is dropped and counted, and what is beyond the rate waits. That a chunk lands in one step or never (log 29), and that a microsecond is
800 cycles (log 30), are the model's choices. -/
def Claims.Fabric : Prop :=
  ∀ (s : State) (id : Nat),
    (∀ c, s.pkg.colls.find? (fun c => c.id == id) = some c →
      (∀ x, c.desc = [] → (∀ k ∈ s.pkg.colls.takeWhile (fun k => k.id != id), k.fn = c.fn → k.q = c.q → k.desc ≠ []) →
        s.readVirt 0 c.asid c.va.toNat 64 = some x →
          exec (.collectiveSubmit c.fn c.q id) s = .next ((s.modColl id fun c => { c with desc := collFields x }).collOver id)) ∧
      (c.desc ≠ [] → exec (.collectiveSubmit c.fn c.q id) s = .next (s.collOver id)) ∧
      (∀ chunk parts lost lane own, c.desc ≠ [] → chunk ∉ c.done → chunk < c.chunks → s.planeOf chunk = some lane →
        let rank := (parts.filter fun p => decide (p.pkg < s.pkg.id)).length
        let members := (parts.filter fun p => p.pkg != s.pkg.id).length + 1
        let q := if s.contributes c then s.sendPieces id chunk members else s
        (c.at 0 ≠ 2 →
          (s.mayReach (c.at 4) true = true → let k := s.laneLeft lane (c.unsent chunk)
            s.sendPieces id chunk members = (s.sendFlits lane k).modColl id fun c => c.sent chunk k) ∧
          (s.mayReach (c.at 4) true = false →
            s.sendPieces id chunk members = (s.dropFlits (c.unsent chunk)).modColl id fun x => x.sent chunk (c.unsent chunk))) ∧
        (q.contributes c = true → q.mayReach (c.at 4) true = false → exec (.collectiveChunk id chunk parts lost) s = .next q) ∧
        (q.contributes c = true → q.mayReach (c.at 4) true = true → q.piecesSent id chunk members = false →
          exec (.collectiveChunk id chunk parts lost) s = .next (q.later (800 - q.time % 800) (.collectiveChunk id chunk parts lost))) ∧
        ((q.contributes c = true → q.mayReach (c.at 4) true = true ∧ q.piecesSent id chunk members = true) →
          (if q.contributes c then q.ownPart c rank chunk else some ([], false)) = some own →
          let all := q.contributions c own parts
          (∀ o ∈ collLands c chunk all, ∀ b ∈ o.1, q.virt .engWrite c.asid b.1 ≠ none) →
            exec (.collectiveChunk id chunk parts lost) s = .next
              ((((collLands c chunk all).foldl (fun r o => r.putBytes 0 (fun a => r.virt .engWrite c.asid a) o.1
                (if o.2 then granuleAddrs o.1 else [])) q).modColl id fun c =>
                  { c with
                    done := chunk :: c.done, errs := c.errs ++ (all.filter (·.poisoned)).map fun p => (chunk, p.pkg),
                    lost := c.lost || lost }).collOver id)))) ∧
    (∀ lane dst isGroup, s.pkg.booted = true → lane < 72 →
      let e := s.pkg.egress
      let get := fun (n : Nat) => SMap.get 0 s.pkg.egressCount n
      let sent := if get (usecKey lane) = s.time / 800 then get (sentKey lane) else 0
      (dst ∉ (if isGroup then e.groups else e.packages) → exec (.egressFlit lane dst isGroup) s = .next
        (s.modPkg fun p => { p with egressCount := SMap.set 0 p.egressCount droppedKey (get droppedKey + 1) })) ∧
      (dst ∈ (if isGroup then e.groups else e.packages) →
        (e.rates.getD lane 0 ≤ sent → exec (.egressFlit lane dst isGroup) s =
          .next (s.later (800 - s.time % 800) (.egressFlit lane dst isGroup))) ∧
        (sent < e.rates.getD lane 0 → exec (.egressFlit lane dst isGroup) s = .next (s.modPkg fun p =>
          { p with egressCount := SMap.set 0 (SMap.set 0 p.egressCount (usecKey lane) (s.time / 800)) (sentKey lane) (sent + 1) }))))

/-- R336, R337, R296, R348: a package reset loads the signed egress configuration and starts the firmware of the first good
image, or halts and reports; attestation and keys need the firmware; the debug interface reads and writes a halted group's
registers, a line register once its former line can leave, and resumes it or ends its team. Memory kept over a reset and the report's
layout are the model's choices (log 33). -/
def Claims.PackageControl : Prop :=
  ∀ (s : State) (n t g : Nat),
    (∀ sigOk egress sources, ∃ q : State, exec (.packageReset sigOk egress sources) s = .next q ∧
      q.pkg.booted = (bootImage s.pkg.fwMin sources).isSome ∧
      q.pkg.fwImage = ((bootImage s.pkg.fwMin sources).map (·.bits)).getD 0 ∧
      q.pkg.reports = (if (bootImage s.pkg.fwMin sources).isSome then [] else [[]]) ∧
      q.pkg.egress = (if sigOk then egress else ⟨[], [], []⟩) ∧ q.mem = s.mem ∧ q.teams = [] ∧ q.cores = []) ∧
    (s.pkg.booted = true →
      let text := Config.digest Config.rom ++ Config.digest (egressText s.pkg.egress) ++ Config.digest [s.pkg.fwImage] ++
        leBytes 8 s.pkg.fwMin ++ leBytes 32 n
      exec (.attestationRequest n) s = .next (s.answer (text ++ Config.sign text))) ∧
    (s.pkg.booted = true → n < 4096 → exec (.keyLoad n) s =
      .next (s.modPkg fun p => { p with keyGen := SMap.mod 0 p.keyGen n fun k => k + 1 })) ∧
    ((s.group t g).halted = true → (s.team t).live = true →
      (∀ l, (onX l = true → (s.group t g).split = true) →
        (∀ v, s.debugLoc t g l = some v → exec (.debugResume t g (.read l)) s = .next (s.answer (leBytes 8 v)))) ∧
      (∀ l v, (∀ n high, l ≠ .line n high) →
        exec (.debugResume t g (.write l v)) s = .next (s.modGroup t g fun x => x.debugWrite l v)) ∧
      (∀ n high v, s.recallRoom [⟨t, g, (s.group t g).depth, false, false, n⟩] = true →
        exec (.debugResume t g (.write (.line n high) v)) s = .next (s.debugPut t g (.line n high) v)) ∧
      (s.recallRoom (s.boundRegs.filter fun r => r.team == t) = true →
        exec (.debugResume t g .endTeam) s = .next (s.killTeam t)) ∧
      (let q := s.modGroup t g fun x => { x with halted := false }
       exec (.debugResume t g .resume) s =
        .next ((q.group t g).sides.foldl (fun s x => s.later 1 (.trapEntry ⟨t, g, x⟩)) q)))

/-! ## The statements, where one is made of several -/

/-- R110, R115, R111: arithmetic on pairs without `.sat`, and division. -/
def Obligations.PairsAndDivision : Prop := Claims.PairArithmetic ∧ Claims.Division

/-- R113, R114, R115: the bit and field instructions, and SEL. -/
def Obligations.BitsAndFields : Prop := Claims.BitInstructions ∧ Claims.FieldInstructions

/-- R118, R119, R103: addition, multiplication, fused multiplication, minimum and maximum in the four formats. -/
def Obligations.FloatArithmetic : Prop := Claims.SinglePrecision ∧ Claims.PairedHalves ∧ Claims.DoublePrecision

/-- R122, R124, R125: the special functions and the activation table. -/
def Obligations.SpecialFunctionsAndTable : Prop := Claims.SpecialFunctions ∧ Claims.ActivationTable

/-- R126-R128: VOTE, and PART's tile widths. -/
def Obligations.VoteAndTiles : Prop := Claims.Vote ∧ Claims.TileWidth

/-- R129-R131, R270, R271: SHFL, MATCH, COMPACT, REDG, SCAN. -/
def Obligations.MovesAcrossLanes : Prop := Claims.LaneMoves ∧ Claims.Reductions

/-- R166, R169, R185, R197: YIELD, EXIT, TDONE and the rejoin registers. -/
def Obligations.LeaveAndRejoin : Prop := Claims.YieldAndLeave ∧ Claims.Rejoin

/-- R168, R350, R352, R354: BRK, TRAP, RGN, ERET. -/
def Obligations.TrapInstructions : Prop := Claims.SoftwareTraps ∧ Claims.TrapReturn

/-- R324, R343: SETSR to every register that it writes. -/
def Obligations.WriteSpecialRegisters : Prop := Claims.WriteSpecialRegister ∧ Claims.WriteMasksAndCounters

/-- R63, R210, R211, R223, R231, R232: loads and stores through a line register, and where a releasing store waits. -/
def Obligations.LoadAndStore : Prop := Claims.LoadThroughLine ∧ Claims.StoreThroughLine ∧ Claims.StoreBeginsRelease

/-- R222, R223, R225, R235, R304: the traps of opens, of accesses through a line register, and of far operations, as their checks
find them and as LD, ST, AMO, RED and SCAT take them. The order of two faults of one access, and TADR of key-value and empty
registers, are the model's choices (log 18). -/
def Obligations.AccessTraps : Prop :=
  Claims.OpenTraps ∧ Claims.LineAccessTraps ∧ Claims.LineInstructionTraps ∧ Claims.FarTraps ∧ Claims.FarInstructionTraps

/-- R233, R234, R244, R245: lock bits and staging objects; who holds a lock bit in a split group is the model's choice (log 16). -/
def Obligations.LocksAndStaging : Prop := Claims.Locks ∧ Claims.StagingObjects

/-- R246, R247, R272-R274: clusters and regrouping. -/
def Obligations.ClustersAndRegrouping : Prop := Claims.Clusters ∧ Claims.Regrouping

/-- R140, R144, R147: MMA and MMAS sign, and trap in a lane that is not declared or where another instruction waits. -/
def Obligations.MatrixMultiplySets : Prop := Claims.MatrixMultiply ∧ Claims.MatrixUndeclared

/-- R325, R326, R351, R376, R380: redundant execution, HALT, TLBINV and RECALL. -/
def Obligations.RedundancyAndSystem : Prop := Claims.Redundancy ∧ Claims.Privileged

/-- R42, R43, R49, R68, R127, R159-R161, R195, R196, R287, R343: fetching, granting, the order of one opportunity's two instructions,
and what lands later in a stream. Logs 43 and 45 are the model's choices in it. -/
def Obligations.FrontEndAndResults : Prop := Claims.FrontEnd ∧ Claims.Opportunity ∧ Claims.ResultsAndTraps

/-- R31, R204, R206, R228, R236-R238, R280: fetches of lines, and writes that reach their places. -/
def Obligations.LinesAndWrites : Prop := Claims.LineFetches ∧ Claims.WritesApplied

/-- R155, R210, R241-R243, R321, R379: barriers, reductions, aborted gates, compared pairs. -/
def Obligations.Meetings : Prop := Claims.Meetings

/-- R248, R251, R253, R264, R287-R293, R300: engine units, walks and fault records: a CPY's start of service, units of every kind, an
embedding command whose rows this package owns. How another package answers is the model's choice (log 25). -/
def Obligations.EnginesAndFaults : Prop := Claims.EngineSteps ∧ Claims.TranslationFaults

/-- R212, R328, R332, R339, R341, R364-R367, R373: checkpoints, rollbacks, and failures of the hardware. Which dies a hot one
throttles (log 31), what the machine checks of R373 name (log 46) and the link's rates (log 50) are the model's choices. -/
def Obligations.CheckpointsAndFailures : Prop := Claims.Checkpoints ∧ Claims.HardwareFailures

/-- R359, R360, R382-R395: pre-emption, saves and restores. What refuses an area, the bytes of latches and locks in it, and what
becomes of a stranger's arrivals are the model's choices (log 32). -/
def Obligations.Preemption : Prop := Claims.Preemption

/-- R167, R170, R171, R175, R179, R182, R183, R187, R331: launches, batches, waves and stealing. That a due wave comes first in its cycle
is the model's reading (log 2), and so is what it keeps of its entries (log 47). -/
def Obligations.LaunchesAndTasks : Prop := Claims.Launches ∧ Claims.Tasks

/-- R189, R191, R193, R194: graphs, and what instructions send to them. GSIG's release of every path (log 23), waiting for an image
that is not mapped (log 28), reason 1 for a wrong NNODE (log 39) and the node that reason 6 names (log 47) are the model's choices. -/
def Obligations.GraphWork : Prop := Claims.GraphSignals ∧ Claims.GraphSteps

/-- R284, R290, R291, R313, R328-R331, R339, R340, R345, R355: the host's and the kiln cores' steps. BAR2's offsets as virtual addresses
from 0, a list of answers and an empty one as an abort (log 33), QLOG and ROP beyond their ranges (log 40) and the replica of die 0 (log 49)
are the model's choices. -/
def Obligations.HostAndConfiguration : Prop := Claims.HostSteps ∧ Claims.Configuration

/-- R296, R332-R338, R348: fabric, reset, attestation, keys, the debug interface. How a chunk lands (log 29), the egress microsecond
(log 30), what a reset keeps and how a report is laid out (log 33) are the model's choices. -/
def Obligations.FabricAndPackage : Prop := Claims.Fabric ∧ Claims.PackageControl

/-! ## The machine as a whole -/

/-- Decoding gives back every well-formed instruction from its word, with every operand at every value (R46-R66), and every
instruction that is no step of the device has a word. -/
def Obligations.EncodingAgrees : Prop := ∀ i : Instr, Laws.Encoding.Statement i

/-- Words that the spec gives, read word for word, and one that it refuses: 0xE8 without PRIV is no instruction, by R57 and R62. -/
def Obligations.SampleWords : Prop :=
  decodeTableWord 96 0 = some .nop ∧
  decodeTableWord 96 0x0000000000000000000000E8 = none ∧
  decodeTableWord 96 0x0100000000000000000000E8 = some (.halt ⟨false, 0⟩) ∧
  decodeTableWord 96 0x0000000007000000000000E2 = some (.trap ⟨false, 0⟩ 7) ∧
  decodeTableWord 96 0x0000030000000000000000E7 = some (.rgn ⟨false, 0⟩ 3) ∧
  decodeTableWord 96 0x000000000000000201000430 = some (.vote ⟨false, 0⟩ (.count (.v 1)) 2)

/-- R41: control passes from a slot to the next of the same line, and from slot 4 to slot 0 of the line at the next higher
address; line numbers are address bits 55:6, and their arithmetic wraps modulo 2^50. -/
def Obligations.ControlPasses : Prop :=
  (∀ pc : DWord, pcSlot pc < 4 → pcLine (nextPc pc) = pcLine pc ∧ pcSlot (nextPc pc) = pcSlot pc + 1) ∧
  (∀ pc : DWord, pcSlot pc = 4 → pcLine (nextPc pc) = (pcLine pc + 1) % 2 ^ 50 ∧ pcSlot (nextPc pc) = 0) ∧
  (∀ pc : DWord, pcValid pc = true → pcLine pc = pcAddr pc / 64 ∧ pcAddr pc % 64 = 0 ∧ pcAddr pc < 2 ^ 56 ∧
    pcLine pc < 2 ^ 50) ∧
  (∀ (pc : DWord) (slot : Fin 5) (toff : BitVec 37), pcSlot (branchPc pc slot toff) = slot.val ∧
    (pcLine (branchPc pc slot toff) : Int) = ((pcLine pc : Int) + toff.toInt) % 2 ^ 50)

/-- R24: a uniform register reads alike in every lane; written by a per-lane instruction it takes the value of the lowest lane
that executes, and keeps its own where none does. -/
def Obligations.UniformRegisters : Prop :=
  ∀ (s : State) (n : Fin 32) (ex : Mask) (f : Nat → Word),
    (∀ i j, s.src (.s n) i = s.src (.s n) j) ∧ s.src (.s n) 0 = s.here.uni n.val ∧
    (ex ≠ 0 → (s.setDst (.s n) ex f).here.uni n.val = f (low ex) ∧ ex.getLsbD (low ex) = true ∧
      ∀ i < low ex, ex.getLsbD i = false) ∧
    (ex = 0 → (s.setDst (.s n) ex f).here.uni n.val = s.here.uni n.val)

/-- R23, R25, R26, R59: the operand codes as they read: z is zero and discards, the lane code is the lane, a pair is an even
register below an odd one; p0 is true and keeps so; in handler mode v176 to v191 are the handler's own. -/
def Obligations.OperandCodes : Prop :=
  ∀ (s : State) (st : Stream) (n : Fin 192) (i : Nat) (w : Word) (ex m : Mask) (f : Nat → Word),
    s.src .z i = 0 ∧ s.src .lane i = BitVec.ofNat 32 i ∧ s.src (.imm w) i = w ∧ s.src (.v n) i = s.here.vec n.val i ∧
    s.srcPair (.v n) i = (s.here.vec (n.val + 1) i).setWidth 64 <<< 32 ||| (s.here.vec n.val i).setWidth 64 ∧
    s.srcPair (.imm w) i = w.signExtend 64 ∧
    (s.setDst .z ex f).here = s.here ∧
    st.pred 0 = BitVec.allOnes 32 ∧ (st.setPred 0 ex m).pred 0 = BitVec.allOnes 32 ∧
    (st.mode ≠ .normal → 176 ≤ n.val →
      (st.setVec n.val i w).vec n.val i = w ∧ (st.setVec n.val i w).v = st.v) ∧
    (st.mode = .normal ∨ n.val < 176 → (st.setVec n.val i w).vec n.val i = w ∧ (st.setVec n.val i w).bank = st.bank)

/-- A step runs the decoded instruction: with a fetched word that decodes at the cursor that is up, `step` is `exec` of the
instruction, the store queue drained first before any instruction but a load, and one cycle over after it, which is the model's
choice (log 2). -/
def Obligations.StepRunsDecoded : Prop :=
  ∀ (s : State) (c c' : Cursor) (rest : List Cursor) (w : SlotWord) (i : Instr) (t : State),
    let q : State := { s with toIssue := rest }
    s.toIssue = c :: rest → q.cursorOk c = some c' → q.wordAt c' = some w → decode w = .ok i →
    exec i (((q.atWord c' w).drainFor i c'.id).pruneFences c'.id) = .next t →
      step s = .next ((t.settleAll.issued c' (c'.lanes &&& (q.stream c'.id).skipCmp)).tick)

/-- R66, R67: a word that is no instruction raises the illegal-instruction trap at its slot, for its issuing lanes. -/
def Obligations.IllegalWords : Prop :=
  ∀ (s : State) (c c' : Cursor) (rest : List Cursor) (w : SlotWord) (e : DecodeErr),
    let q : State := { s with toIssue := rest }
    s.toIssue = c :: rest → q.cursorOk c = some c' → q.wordAt c' = some w → decode w = .error e →
      step s = .next (((((q.atWord c' w).drainQueue c'.id).trapHere ⟨1, 0, c'.pc, c'.lanes⟩).issued c' 0).tick)

/-- R343, R346: a trap of a stream with nothing outstanding enters the handler of its address space: the cause, the address
and the lanes are recorded, the interrupted mask, flags, tile width and program counters kept aside, flags cleared, the
tile width 32, and all 32 lanes stand at the entry. R62, R67, R312: an instruction of a level that its stream has not raises the privilege
trap, whatever its guard: those of level 2 below it, those of level 1 in user code, in a fused group and in each stream of a split one. -/
def Obligations.TrapEntry : Prop :=
  (∀ (s : State) (id : StreamId) (r : TrapRec) (e : DWord),
    let g := s.group id.team id.grp
    let st := s.stream id
    g.dmr = .alone → g.halted = false → g.depth = 0 → st.live = true → st.mode = .normal → st.sq = [] → st.pend = [] →
    st.amos = [] → r.code ≠ 14 → r.code ≠ 16 → s.handlerEntry g.c.asid false = some e →
      let x := (s.takeTrap id r).stream id
      x.mode = .handler ∧ x.tcause = BitVec.ofNat 32 (r.code % 256 + r.info % 256 * 256) ∧ x.tadr = r.tadr ∧
      x.tlane = r.tlane ∧ x.kept.m0 = st.amask ∧ x.kept.amask = st.amask ∧ x.kept.fstat = st.fstat ∧
      x.kept.partw = st.partw ∧ x.kept.lpc = st.lpc ∧ x.fstat = 0 ∧ x.partw = 32 ∧ x.back = 0 ∧
      x.amask = BitVec.allOnes 32 ∧ ∀ i < 32, x.pc i = e) ∧
  (∀ (s : State) (g : Guard) (f : TlbForm) (k : RecallForm) (n : Fin 4) (la : Fin 16) (d : Fin 192) (a b : Src) (re : Bool) (r : SReg),
    let below := fun (i : Instr) (cls : Cls) (level : Nat) (us : List Use) =>
      s.here.live = true → s.cur.lanes ≠ 0 → s.here.mode = .normal → s.myGroup.c.level < level →
      (cls = .a → s.myGroup.split = true → s.cur.x = false) → us.all (fun u => u.ok s.myGroup s.cur.x) = true →
        exec i s = .next (s.trapHere ⟨3, 0, s.cur.pc, s.cur.lanes⟩)
    below (.tlbinv g f) .a 2 (tlbUses f) ∧
    below (.recall g k) .a 2 (match k with | .va a b => [u1 a, u2 b] | .pa b => [u2 b]) ∧
    below (.setsr g .asid a) .both 2 [u1 a] ∧ below (.setsr g .kvroot a) .both 2 [u2 a] ∧
    (r ≠ .fstat → below (.setsr g r a) .both 1 [if sregWide r then u2 a else u1 a]) ∧
    below (.setsrAmask g a) .both 1 [u1 a] ∧ below (.setsrLpc g a) .both 1 [u2 a] ∧
    below (.enrol g n) .both 1 [.rejoin n] ∧ below (.park g n) .both 1 [.rejoin n] ∧ below (.strike g n) .both 1 [.rejoin n] ∧
    below (.kvmap g la d a b) .a 1 [.dst (.v d) 4, u2 a, u2 b] ∧ below (.kvfork g la d a b) .a 1 [.dst (.v d) 4, u2 a, u2 b] ∧
    below (.kvdrop g la d a) .a 1 [.dst (.v d) 4, u2 a] ∧ below (.gret g a) .a 1 [u1 a] ∧
    below (.eret g re) .both 1 [] ∧ below (.halt g) .both 1 [])

/-- R285: main memory is 1,152 GiB in a 52-bit physical space. A byte that is written where there is memory reads back under its key, a write
elsewhere changes nothing, every other byte reads as before, and both memories keep their canonical form, which they have at reset. Where
memory stands, and that addresses wrap at 2^52, are the model's choices (log 37), and so are the key tags and the contents at reset (log 1). -/
def Obligations.MemoryReadsBack : Prop :=
  memoryForm State.reset ∧
  ∀ (s : State) (key a a' : Nat) (b : Byte),
    (hasMemory (a % 2 ^ 52) = true → (s.writePa key a b).readPa key a = b) ∧
    (hasMemory (a % 2 ^ 52) = false → s.writePa key a b = s) ∧
    (a' % 2 ^ 52 ≠ a % 2 ^ 52 → ∀ k, (s.writePa key a b).readPa k a' = s.readPa k a') ∧
    (s.writeHost a b).readHost a = b ∧ (a' % 2 ^ 52 ≠ a % 2 ^ 52 → (s.writeHost a b).readHost a' = s.readHost a') ∧
    (memoryForm s → memoryForm (s.writePa key a b) ∧ memoryForm (s.writeHost a b))

/-- R36, R38, R329, R336, R339: at reset no team is resident, CLK is zero on every die, no instruction is up, the ticket and
queue blocks are zero, the firmware has not run, and memory lists nothing. That memory lists nothing (log 1), that no team is resident (log 3)
and that nothing is up for issue (log 8) are the model's choices. -/
def Obligations.ResetState : Prop :=
  (∀ t, (State.reset.team t).live = false) ∧ (∀ d, State.reset.clk d = 0) ∧ State.reset.toIssue = [] ∧
  State.reset.held = false ∧ State.reset.pkg.booted = false ∧ State.reset.mem = [] ∧ State.reset.hostMem = [] ∧
  (∀ fn q, (State.reset.queue fn q).block = 0) ∧ (∀ c, (State.reset.core c).cmds = []) ∧
  (∀ a, State.reset.poisoned a = false)

/-- The whole machine keeps its memories in canonical form: an invariant of every step, from every state. -/
def Obligations.StepKeepsMemoryForm : Prop :=
  ∀ s t : State, memoryForm s → step s = .next t → memoryForm t
end

