-- ==== Sys2Proof/Laws/Maps.lean ====
section
/-!
SUPPORT. Sparse maps: reading after writing, and the canonical form that every write keeps.
-/

namespace Sys2Proof

@[simp] theorem SMap.get_nil {β : Type} {d : β} (i : Nat) : SMap.get d [] i = d := rfl

variable {β : Type} [DecidableEq β] {d : β}

/-- A read after a write gives the value written at its key, and what was there at every other. -/
theorem SMap.get_set (m : SMap β) (i j : Nat) (x : β) :
    SMap.get d (SMap.set d m i x) j = if j = i then x else SMap.get d m j := by
  induction m with
  | nil =>
    by_cases hx : x = d
    · simp [SMap.set, hx, SMap.get]
    · simp [SMap.set, hx, SMap.get]
  | cons p m ih =>
    obtain ⟨k, v⟩ := p
    unfold SMap.set
    by_cases hk : i < k
    · simp only [hk, if_true]
      split
      · next h =>
        by_cases hj : j = i
        · subst hj; simp [h.1, h.2]
        · simp [hj]
      · by_cases hj : j = i <;> simp [SMap.get, hj]
    · by_cases hi : i = k
      · subst hi
        simp only [lt_irrefl, if_false, if_true]
        split
        · next h =>
          by_cases hj : j = i
          · subst hj; simp [h.1, h.2]
          · simp [hj, SMap.get]
        · by_cases hj : j = i <;> simp [SMap.get, hj]
      · simp only [hk, hi, if_false]
        by_cases hj : j = k
        · subst hj; simp [SMap.get, Ne.symm hi]
        · simp [SMap.get, hj, ih]

@[simp] theorem SMap.get_set_same (m : SMap β) (i : Nat) (x : β) : SMap.get d (SMap.set d m i x) i = x := by
  simp [SMap.get_set]

theorem SMap.get_set_ne (m : SMap β) {i j : Nat} (x : β) (h : j ≠ i) :
    SMap.get d (SMap.set d m i x) j = SMap.get d m j := by simp [SMap.get_set, h]

/-- A key below the bound of a canonical map is not listed. -/
theorem SMap.get_below {n : Nat} {m : SMap β} (h : SMap.wfFrom d n m = true) {i : Nat} (hi : i < n) :
    SMap.get d m i = d := by
  induction m generalizing n with
  | nil => rfl
  | cons p m ih =>
    obtain ⟨k, v⟩ := p
    simp only [SMap.wfFrom, Bool.and_eq_true, decide_eq_true_eq] at h
    have : i ≠ k := by omega
    simp [SMap.get, this, ih h.2 (by omega)]

theorem SMap.wfFrom_mono {n k : Nat} {m : SMap β} (h : SMap.wfFrom d n m = true) (hk : k ≤ n) :
    SMap.wfFrom d k m = true := by
  cases m with
  | nil => rfl
  | cons p m =>
    simp only [SMap.wfFrom, Bool.and_eq_true, decide_eq_true_eq] at h ⊢
    exact ⟨⟨by omega, h.1.2⟩, h.2⟩

/-- A write keeps the bound and the form. -/
theorem SMap.wfFrom_set {n : Nat} {m : SMap β} (h : SMap.wfFrom d n m = true) {i : Nat} (hi : n ≤ i) (x : β) :
    SMap.wfFrom d n (SMap.set d m i x) = true := by
  induction m generalizing n with
  | nil => by_cases hx : x = d <;> simp [SMap.set, hx, SMap.wfFrom, hi]
  | cons p m ih =>
    obtain ⟨k, v⟩ := p
    have h' := h
    simp only [SMap.wfFrom, Bool.and_eq_true, decide_eq_true_eq] at h'
    obtain ⟨⟨hnk, hv⟩, hm⟩ := h'
    unfold SMap.set
    split
    · next hk =>
      split
      · exact h
      · next hx =>
        have hx' : x ≠ d := fun e => hx ⟨e, SMap.get_below (n := k)
          (by simp [SMap.wfFrom, hv, hm]) hk⟩
        simp [SMap.wfFrom, hi, hx', hv, hm]; omega
    · next hk =>
      split
      · next hi' =>
        subst hi'
        split
        · exact SMap.wfFrom_mono hm (by omega)
        · next hx =>
          have hx' : x ≠ d := fun e => hx ⟨e, SMap.get_below hm (by omega)⟩
          simp [SMap.wfFrom, hi, hx', hm]
      · next hi' => simp [SMap.wfFrom, hnk, hv, ih hm (show k + 1 ≤ i by omega)]

theorem SMap.wf_nil : SMap.wf d ([] : SMap β) = true := rfl

/-- Every write keeps the canonical form. -/
theorem SMap.wf_set {m : SMap β} (h : SMap.wf d m = true) (i : Nat) (x : β) : SMap.wf d (SMap.set d m i x) = true :=
  SMap.wfFrom_set h (Nat.zero_le _) x

/-- Equal readings make equal canonical maps. -/
theorem SMap.ext_of_wf {m m' : SMap β} (h : SMap.wf d m = true) (h' : SMap.wf d m' = true)
    (e : ∀ i, SMap.get d m i = SMap.get d m' i) : m = m' := by
  suffices H : ∀ n (m m' : SMap β), SMap.wfFrom d n m = true → SMap.wfFrom d n m' = true →
      (∀ i, SMap.get d m i = SMap.get d m' i) → m = m' from H 0 m m' h h' e
  intro n m
  induction m generalizing n with
  | nil =>
    intro m' _ h' e
    cases m' with
    | nil => rfl
    | cons p m' =>
      obtain ⟨k, v⟩ := p
      simp only [SMap.wfFrom, Bool.and_eq_true, decide_eq_true_eq] at h'
      have := e k
      simp [SMap.get] at this
      exact absurd this.symm h'.1.2
  | cons p m ih =>
    obtain ⟨k, v⟩ := p
    intro m' hm h' e
    simp only [SMap.wfFrom, Bool.and_eq_true, decide_eq_true_eq] at hm
    cases m' with
    | nil =>
      have := e k
      simp [SMap.get] at this
      exact absurd this hm.1.2
    | cons p' m' =>
      obtain ⟨k', v'⟩ := p'
      have h'' := h'
      simp only [SMap.wfFrom, Bool.and_eq_true, decide_eq_true_eq] at h'
      have hk : k = k' := by
        rcases Nat.lt_trichotomy k k' with lt | eq | gt
        · have := e k
          rw [SMap.get_below (n := k') (m := (k', v') :: m') (by simp [SMap.wfFrom, h'.1.2, h'.2]) lt] at this
          simp [SMap.get] at this
          exact absurd this hm.1.2
        · exact eq
        · have := e k'
          rw [SMap.get_below (n := k) (m := (k, v) :: m) (by simp [SMap.wfFrom, hm.1.2, hm.2]) gt] at this
          simp [SMap.get] at this
          exact absurd this.symm h'.1.2
      subst hk
      have hv : v = v' := by simpa [SMap.get] using e k
      subst hv
      congr 1
      refine ih (k + 1) m' hm.2 h'.2 fun i => ?_
      by_cases hi : i = k
      · subst hi; rw [SMap.get_below hm.2 (by omega), SMap.get_below h'.2 (by omega)]
      · simpa [SMap.get, hi] using e i

end Sys2Proof
end

