-- ==== Sys2Proof/Laws/Lanes.lean ====
section
/-!
SUPPORT. Lanes of masks, and what a stream's registers hold after writes to lanes of a mask.
-/

namespace Sys2Proof.Machine

theorem mem_maskLanes {m : Mask} {i : Nat} : i ∈ maskLanes m ↔ i < 32 ∧ m.getLsbD i = true := by
  simp [maskLanes, lanes]

theorem mem_maskLanes_lt {m : Mask} {i : Nat} (h : i ∈ maskLanes m) : i < 32 := (mem_maskLanes.1 h).1

/-- A lane of a mask given by a test. -/
theorem maskOf_getLsbD (p : Nat → Bool) (i : Nat) : (maskOf p).getLsbD i = (decide (i < 32) && p i) := by
  suffices H : ∀ l : List Nat, (l.foldr (fun i m => if p i then m ||| BitVec.twoPow 32 i else m) (0 : Mask)).getLsbD i =
      (decide (i < 32) && (decide (i ∈ l) && p i)) by
    rw [maskOf, lanes, H]
    by_cases h : i < 32 <;> simp [h]
  intro l
  induction l with
  | nil => simp
  | cons a l ih =>
    rw [List.foldr_cons]
    by_cases ha : p a = true
    · rw [if_pos ha, BitVec.getLsbD_or, ih, BitVec.getLsbD_twoPow]
      by_cases hi : i < 32
      · by_cases e : i = a
        · subst e; simp [hi, ha]
        · simp [hi, e, Ne.symm e]
      · simp [hi]; omega
    · rw [if_neg ha, ih]
      by_cases e : i = a
      · subst e; simp [ha]
      · simp [e]

/-- The lowest lane of a mask that is not empty is one of its lanes. -/
theorem low_mem {m : Mask} (h : m ≠ 0) : low m ∈ maskLanes m := by
  rcases hl : maskLanes m with _ | ⟨a, l⟩
  · exfalso
    apply h
    apply BitVec.eq_of_getLsbD_eq
    intro i hi
    by_contra hc
    have : i ∈ maskLanes m := mem_maskLanes.2 ⟨hi, by simpa using hc⟩
    rw [hl] at this
    simp at this
  · simp [low, lowest, hl]

/-! ## Program counters and holds -/

theorem Stream.pc_setPc (st : Stream) (i j : Nat) (x : DWord) :
    (st.setPc i x).pc j = if j = i then x else st.pc j := SMap.get_set ..

theorem Stream.pc_foldl (f : Nat → DWord) (l : List Nat) (st : Stream) (j : Nat) :
    (l.foldl (fun st i => st.setPc i (f i)) st).pc j = if j ∈ l then f j else st.pc j := by
  induction l generalizing st with
  | nil => simp
  | cons a l ih =>
    rw [List.foldl_cons, ih, Stream.pc_setPc]
    by_cases h : j ∈ l
    · simp [h]
    · by_cases e : j = a
      · subst e; simp [h]
      · simp [h, e]

/-- The program counters after lanes of a mask have moved. -/
theorem Stream.pc_setPcs (st : Stream) (m : Mask) (f : Nat → DWord) (j : Nat) :
    (st.setPcs m f).pc j = if j < 32 ∧ m.getLsbD j = true then f j else st.pc j := by
  rw [Stream.setPcs, Stream.pc_foldl]; simp only [mem_maskLanes]

/-- Moving lanes changes program counters alone. -/
theorem Stream.setPcs_eq (st : Stream) (m : Mask) (f : Nat → DWord) :
    st.setPcs m f = { st with lpc := (st.setPcs m f).lpc } := by
  suffices H : ∀ (l : List Nat) (st : Stream), l.foldl (fun st i => st.setPc i (f i)) st =
      { st with lpc := (l.foldl (fun st i => st.setPc i (f i)) st).lpc } from H _ _
  intro l
  induction l with
  | nil => intro st; rfl
  | cons a l ih => intro st; rw [List.foldl_cons, ih]; rfl

/-- Holding lanes changes holds alone. -/
theorem Stream.setHolds_eq (st : Stream) (m : Mask) (h : Option Hold) :
    st.setHolds m h = { st with hold := (st.setHolds m h).hold } := by
  suffices H : ∀ (l : List Nat) (st : Stream), l.foldl (fun st i => st.setHold i h) st =
      { st with hold := (l.foldl (fun st i => st.setHold i h) st).hold } from H _ _
  intro l
  induction l with
  | nil => intro st; rfl
  | cons a l ih => intro st; rw [List.foldl_cons, ih]; rfl

theorem Stream.holdOf_setHolds (st : Stream) (m : Mask) (h : Option Hold) (j : Nat) :
    (st.setHolds m h).holdOf j = if j < 32 ∧ m.getLsbD j = true then h else st.holdOf j := by
  suffices H : ∀ (l : List Nat) (st : Stream), (l.foldl (fun st i => st.setHold i h) st).holdOf j =
      if j ∈ l then h else st.holdOf j by
    rw [Stream.setHolds, H]; simp only [mem_maskLanes]
  intro l
  induction l with
  | nil => intro st; simp
  | cons a l ih =>
    intro st
    have e : (st.setHold a h).holdOf j = if j = a then h else st.holdOf j := SMap.get_set ..
    rw [List.foldl_cons, ih, e]
    by_cases hl : j ∈ l
    · simp [hl]
    · by_cases ha : j = a
      · subst ha; simp [hl]
      · simp [hl, ha]

/-! ## Vector and uniform registers, predicates -/

@[simp] theorem Stream.mode_setVec (st : Stream) (r i : Nat) (w : Word) : (st.setVec r i w).mode = st.mode := by
  unfold Stream.setVec; split <;> rfl

theorem Stream.vec_setVec (st : Stream) (r r' : Nat) {i j : Nat} (hi : i < 32) (hj : j < 32) (w : Word) :
    (st.setVec r i w).vec r' j = if r' = r ∧ j = i then w else st.vec r' j := by
  have key : ∀ m : SMap Word, SMap.get 0 (SMap.set 0 m (32 * r + i) w) (32 * r' + j) =
      if r' = r ∧ j = i then w else SMap.get 0 m (32 * r' + j) := by
    intro m
    rw [SMap.get_set]
    by_cases h : r' = r ∧ j = i
    · rw [if_pos h, if_pos (by rw [h.1, h.2])]
    · rw [if_neg h, if_neg (by omega)]
  have ban : (st.setVec r i w).banked r' = st.banked r' := by simp [Stream.banked]
  unfold Stream.vec
  rw [ban]
  unfold Stream.setVec
  rcases Bool.eq_false_or_eq_true (st.banked r) with h1 | h1 <;>
    rcases Bool.eq_false_or_eq_true (st.banked r') with h2 | h2 <;>
    simp [h1, h2]
  · exact key st.bank
  · rintro rfl; rw [h1] at h2; cases h2
  · rintro rfl; rw [h1] at h2; cases h2
  · exact key st.v

/-- A vector register after lanes of a mask have been written. -/
theorem Stream.vec_setVecs (st : Stream) (r r' : Nat) (m : Mask) (f : Nat → Word) {j : Nat} (hj : j < 32) :
    (st.setVecs r m f).vec r' j = if r' = r ∧ m.getLsbD j = true then f j else st.vec r' j := by
  suffices H : ∀ (l : List Nat), (∀ i ∈ l, i < 32) → ∀ st : Stream,
      (l.foldl (fun st i => st.setVec r i (f i)) st).vec r' j = if r' = r ∧ j ∈ l then f j else st.vec r' j by
    rw [Stream.setVecs, H _ fun _ => mem_maskLanes_lt]; simp [mem_maskLanes, hj]
  intro l
  induction l with
  | nil => intro _ st; simp
  | cons a l ih =>
    intro hl st
    rw [List.foldl_cons, ih fun i hi => hl i (List.mem_cons_of_mem _ hi),
      Stream.vec_setVec _ _ _ (hl a List.mem_cons_self) hj]
    by_cases h : r' = r ∧ j ∈ l
    · rw [if_pos h, if_pos ⟨h.1, List.mem_cons_of_mem _ h.2⟩]
    · by_cases e : r' = r ∧ j = a
      · obtain ⟨rfl, rfl⟩ := e; simp
      · rw [if_neg h, if_neg e, if_neg]
        rintro ⟨h1, h2⟩
        rcases List.mem_cons.1 h2 with h2 | h2
        · exact e ⟨h1, h2⟩
        · exact h ⟨h1, h2⟩

/-- Writing vector registers changes register files alone. -/
theorem Stream.setVecs_eq (st : Stream) (r : Nat) (m : Mask) (f : Nat → Word) :
    st.setVecs r m f = { st with v := (st.setVecs r m f).v, bank := (st.setVecs r m f).bank } := by
  have one : ∀ (st : Stream) i w, st.setVec r i w =
      { st with v := (st.setVec r i w).v, bank := (st.setVec r i w).bank } := by
    intro st i w; unfold Stream.setVec; split <;> rfl
  suffices H : ∀ (l : List Nat) (st : Stream), l.foldl (fun st i => st.setVec r i (f i)) st =
      { st with v := (l.foldl (fun st i => st.setVec r i (f i)) st).v,
                bank := (l.foldl (fun st i => st.setVec r i (f i)) st).bank } from H _ _
  intro l
  induction l with
  | nil => intro st; rfl
  | cons a l ih => intro st; rw [List.foldl_cons, ih, one]

theorem Stream.uni_setUni (st : Stream) (r r' : Nat) (w : Word) :
    (st.setUni r w).uni r' = if r' = r then w else st.uni r' := SMap.get_set ..

/-- Predicates after a write: p0 stays true, the other lanes keep their bits. -/
theorem Stream.pred_setPred (st : Stream) (p p' : Fin 8) (ex val : Mask) :
    (st.setPred p ex val).pred p' =
      if p' = p ∧ p.val ≠ 0 then (st.pred p &&& ~~~ex) ||| (val &&& ex) else st.pred p' := by
  unfold Stream.setPred Stream.pred
  by_cases h : p.val = 0
  · simp [h]
  · by_cases e : p' = p
    · subst e; simp [h]
    · have e' : p'.val ≠ p.val := fun x => e (Fin.ext x)
      simp only [h, e, if_false, false_and, SMap.get_set_ne _ _ e']

theorem Stream.pred_zero (st : Stream) (p : Fin 8) (h : p.val = 0) : st.pred p = BitVec.allOnes 32 := by
  simp [Stream.pred, h]

end Sys2Proof.Machine
end

