-- ==== Sys2Proof/Laws/State.lean ====
section
/-!
SUPPORT. What each update of the state leaves as it was, field by field, and what the accessors read after each update.
-/

namespace Sys2Proof.Machine

/-! ## Fields that an update leaves -/

variable (s : State)

@[simp] theorem State.setTeam_keeps (t : Nat) (x : Team) :
    (s.setTeam t x).mem = s.mem ∧ (s.setTeam t x).memTag = s.memTag ∧ (s.setTeam t x).poison = s.poison ∧ (s.setTeam
    t x).veils = s.veils ∧ (s.setTeam t x).hostMem = s.hostMem ∧ (s.setTeam t x).combine = s.combine ∧ (s.setTeam t
    x).wrote = s.wrote ∧ (s.setTeam t x).cores = s.cores ∧ (s.setTeam t x).benches = s.benches ∧ (s.setTeam t
    x).dies = s.dies ∧ (s.setTeam t x).pkg = s.pkg ∧ (s.setTeam t x).fetched = s.fetched ∧ (s.setTeam t x).cur =
    s.cur ∧ (s.setTeam t x).held = s.held ∧ (s.setTeam t x).toIssue = s.toIssue ∧ (s.setTeam t x).time = s.time ∧
    (s.setTeam t x).epoch = s.epoch ∧ (s.setTeam t x).marks = s.marks ∧ (s.setTeam t x).opened = s.opened ∧
    (s.setTeam t x).trapped = s.trapped ∧ (s.setTeam t x).resumed = s.resumed ∧ (s.setTeam t x).opp = s.opp ∧
    (s.setTeam t x).rest = s.rest ∧ (s.setTeam t x).found = s.found ∧ (s.setTeam t x).lastPart = s.lastPart ∧
    (s.setTeam t x).nextId = s.nextId ∧ (s.setTeam t x).agenda = s.agenda ∧ (s.setTeam t x).inputs = s.inputs ∧
    (s.setTeam t x).sched = s.sched ∧ (s.setTeam t x).freeCtr = s.freeCtr :=
    ⟨rfl, rfl, rfl, rfl, rfl, rfl, rfl, rfl, rfl, rfl, rfl, rfl, rfl, rfl, rfl, rfl, rfl, rfl, rfl, rfl, rfl, rfl,
    rfl, rfl, rfl, rfl, rfl, rfl, rfl, rfl⟩

@[simp] theorem State.modTeam_keeps (t : Nat) (f : Team → Team) :
    (s.modTeam t f).mem = s.mem ∧ (s.modTeam t f).memTag = s.memTag ∧ (s.modTeam t f).poison = s.poison ∧ (s.modTeam
    t f).veils = s.veils ∧ (s.modTeam t f).hostMem = s.hostMem ∧ (s.modTeam t f).combine = s.combine ∧ (s.modTeam t
    f).wrote = s.wrote ∧ (s.modTeam t f).cores = s.cores ∧ (s.modTeam t f).benches = s.benches ∧ (s.modTeam t
    f).dies = s.dies ∧ (s.modTeam t f).pkg = s.pkg ∧ (s.modTeam t f).fetched = s.fetched ∧ (s.modTeam t f).cur =
    s.cur ∧ (s.modTeam t f).held = s.held ∧ (s.modTeam t f).toIssue = s.toIssue ∧ (s.modTeam t f).time = s.time ∧
    (s.modTeam t f).epoch = s.epoch ∧ (s.modTeam t f).marks = s.marks ∧ (s.modTeam t f).opened = s.opened ∧
    (s.modTeam t f).trapped = s.trapped ∧ (s.modTeam t f).resumed = s.resumed ∧ (s.modTeam t f).opp = s.opp ∧
    (s.modTeam t f).rest = s.rest ∧ (s.modTeam t f).found = s.found ∧ (s.modTeam t f).lastPart = s.lastPart ∧
    (s.modTeam t f).nextId = s.nextId ∧ (s.modTeam t f).agenda = s.agenda ∧ (s.modTeam t f).inputs = s.inputs ∧
    (s.modTeam t f).sched = s.sched ∧ (s.modTeam t f).freeCtr = s.freeCtr :=
    ⟨rfl, rfl, rfl, rfl, rfl, rfl, rfl, rfl, rfl, rfl, rfl, rfl, rfl, rfl, rfl, rfl, rfl, rfl, rfl, rfl, rfl, rfl,
    rfl, rfl, rfl, rfl, rfl, rfl, rfl, rfl⟩

@[simp] theorem State.setGroup_keeps (t g : Nat) (x : Group) :
    (s.setGroup t g x).mem = s.mem ∧ (s.setGroup t g x).memTag = s.memTag ∧ (s.setGroup t g x).poison = s.poison ∧
    (s.setGroup t g x).veils = s.veils ∧ (s.setGroup t g x).hostMem = s.hostMem ∧ (s.setGroup t g x).combine =
    s.combine ∧ (s.setGroup t g x).wrote = s.wrote ∧ (s.setGroup t g x).cores = s.cores ∧ (s.setGroup t g x).benches
    = s.benches ∧ (s.setGroup t g x).dies = s.dies ∧ (s.setGroup t g x).pkg = s.pkg ∧ (s.setGroup t g x).fetched =
    s.fetched ∧ (s.setGroup t g x).cur = s.cur ∧ (s.setGroup t g x).held = s.held ∧ (s.setGroup t g x).toIssue =
    s.toIssue ∧ (s.setGroup t g x).time = s.time ∧ (s.setGroup t g x).epoch = s.epoch ∧ (s.setGroup t g x).marks =
    s.marks ∧ (s.setGroup t g x).opened = s.opened ∧ (s.setGroup t g x).trapped = s.trapped ∧ (s.setGroup t g
    x).resumed = s.resumed ∧ (s.setGroup t g x).opp = s.opp ∧ (s.setGroup t g x).rest = s.rest ∧ (s.setGroup t g
    x).found = s.found ∧ (s.setGroup t g x).lastPart = s.lastPart ∧ (s.setGroup t g x).nextId = s.nextId ∧
    (s.setGroup t g x).agenda = s.agenda ∧ (s.setGroup t g x).inputs = s.inputs ∧ (s.setGroup t g x).sched = s.sched
    ∧ (s.setGroup t g x).freeCtr = s.freeCtr :=
    ⟨rfl, rfl, rfl, rfl, rfl, rfl, rfl, rfl, rfl, rfl, rfl, rfl, rfl, rfl, rfl, rfl, rfl, rfl, rfl, rfl, rfl, rfl,
    rfl, rfl, rfl, rfl, rfl, rfl, rfl, rfl⟩

@[simp] theorem State.modGroup_keeps (t g : Nat) (f : Group → Group) :
    (s.modGroup t g f).mem = s.mem ∧ (s.modGroup t g f).memTag = s.memTag ∧ (s.modGroup t g f).poison = s.poison ∧
    (s.modGroup t g f).veils = s.veils ∧ (s.modGroup t g f).hostMem = s.hostMem ∧ (s.modGroup t g f).combine =
    s.combine ∧ (s.modGroup t g f).wrote = s.wrote ∧ (s.modGroup t g f).cores = s.cores ∧ (s.modGroup t g f).benches
    = s.benches ∧ (s.modGroup t g f).dies = s.dies ∧ (s.modGroup t g f).pkg = s.pkg ∧ (s.modGroup t g f).fetched =
    s.fetched ∧ (s.modGroup t g f).cur = s.cur ∧ (s.modGroup t g f).held = s.held ∧ (s.modGroup t g f).toIssue =
    s.toIssue ∧ (s.modGroup t g f).time = s.time ∧ (s.modGroup t g f).epoch = s.epoch ∧ (s.modGroup t g f).marks =
    s.marks ∧ (s.modGroup t g f).opened = s.opened ∧ (s.modGroup t g f).trapped = s.trapped ∧ (s.modGroup t g
    f).resumed = s.resumed ∧ (s.modGroup t g f).opp = s.opp ∧ (s.modGroup t g f).rest = s.rest ∧ (s.modGroup t g
    f).found = s.found ∧ (s.modGroup t g f).lastPart = s.lastPart ∧ (s.modGroup t g f).nextId = s.nextId ∧
    (s.modGroup t g f).agenda = s.agenda ∧ (s.modGroup t g f).inputs = s.inputs ∧ (s.modGroup t g f).sched = s.sched
    ∧ (s.modGroup t g f).freeCtr = s.freeCtr :=
    ⟨rfl, rfl, rfl, rfl, rfl, rfl, rfl, rfl, rfl, rfl, rfl, rfl, rfl, rfl, rfl, rfl, rfl, rfl, rfl, rfl, rfl, rfl,
    rfl, rfl, rfl, rfl, rfl, rfl, rfl, rfl⟩

@[simp] theorem State.setStream_keeps (id : StreamId) (x : Stream) :
    (s.setStream id x).mem = s.mem ∧ (s.setStream id x).memTag = s.memTag ∧ (s.setStream id x).poison = s.poison ∧
    (s.setStream id x).veils = s.veils ∧ (s.setStream id x).hostMem = s.hostMem ∧ (s.setStream id x).combine =
    s.combine ∧ (s.setStream id x).wrote = s.wrote ∧ (s.setStream id x).cores = s.cores ∧ (s.setStream id x).benches
    = s.benches ∧ (s.setStream id x).dies = s.dies ∧ (s.setStream id x).pkg = s.pkg ∧ (s.setStream id x).fetched =
    s.fetched ∧ (s.setStream id x).cur = s.cur ∧ (s.setStream id x).held = s.held ∧ (s.setStream id x).toIssue =
    s.toIssue ∧ (s.setStream id x).time = s.time ∧ (s.setStream id x).epoch = s.epoch ∧ (s.setStream id x).marks =
    s.marks ∧ (s.setStream id x).opened = s.opened ∧ (s.setStream id x).trapped = s.trapped ∧ (s.setStream id
    x).resumed = s.resumed ∧ (s.setStream id x).opp = s.opp ∧ (s.setStream id x).rest = s.rest ∧ (s.setStream id
    x).found = s.found ∧ (s.setStream id x).lastPart = s.lastPart ∧ (s.setStream id x).nextId = s.nextId ∧
    (s.setStream id x).agenda = s.agenda ∧ (s.setStream id x).inputs = s.inputs ∧ (s.setStream id x).sched = s.sched
    ∧ (s.setStream id x).freeCtr = s.freeCtr :=
    ⟨rfl, rfl, rfl, rfl, rfl, rfl, rfl, rfl, rfl, rfl, rfl, rfl, rfl, rfl, rfl, rfl, rfl, rfl, rfl, rfl, rfl, rfl,
    rfl, rfl, rfl, rfl, rfl, rfl, rfl, rfl⟩

@[simp] theorem State.modStream_keeps (id : StreamId) (f : Stream → Stream) :
    (s.modStream id f).mem = s.mem ∧ (s.modStream id f).memTag = s.memTag ∧ (s.modStream id f).poison = s.poison ∧
    (s.modStream id f).veils = s.veils ∧ (s.modStream id f).hostMem = s.hostMem ∧ (s.modStream id f).combine =
    s.combine ∧ (s.modStream id f).wrote = s.wrote ∧ (s.modStream id f).cores = s.cores ∧ (s.modStream id f).benches
    = s.benches ∧ (s.modStream id f).dies = s.dies ∧ (s.modStream id f).pkg = s.pkg ∧ (s.modStream id f).fetched =
    s.fetched ∧ (s.modStream id f).cur = s.cur ∧ (s.modStream id f).held = s.held ∧ (s.modStream id f).toIssue =
    s.toIssue ∧ (s.modStream id f).time = s.time ∧ (s.modStream id f).epoch = s.epoch ∧ (s.modStream id f).marks =
    s.marks ∧ (s.modStream id f).opened = s.opened ∧ (s.modStream id f).trapped = s.trapped ∧ (s.modStream id
    f).resumed = s.resumed ∧ (s.modStream id f).opp = s.opp ∧ (s.modStream id f).rest = s.rest ∧ (s.modStream id
    f).found = s.found ∧ (s.modStream id f).lastPart = s.lastPart ∧ (s.modStream id f).nextId = s.nextId ∧
    (s.modStream id f).agenda = s.agenda ∧ (s.modStream id f).inputs = s.inputs ∧ (s.modStream id f).sched = s.sched
    ∧ (s.modStream id f).freeCtr = s.freeCtr :=
    ⟨rfl, rfl, rfl, rfl, rfl, rfl, rfl, rfl, rfl, rfl, rfl, rfl, rfl, rfl, rfl, rfl, rfl, rfl, rfl, rfl, rfl, rfl,
    rfl, rfl, rfl, rfl, rfl, rfl, rfl, rfl⟩

@[simp] theorem State.modHere_keeps (f : Stream → Stream) :
    (s.modHere f).mem = s.mem ∧ (s.modHere f).memTag = s.memTag ∧ (s.modHere f).poison = s.poison ∧ (s.modHere
    f).veils = s.veils ∧ (s.modHere f).hostMem = s.hostMem ∧ (s.modHere f).combine = s.combine ∧ (s.modHere f).wrote
    = s.wrote ∧ (s.modHere f).cores = s.cores ∧ (s.modHere f).benches = s.benches ∧ (s.modHere f).dies = s.dies ∧
    (s.modHere f).pkg = s.pkg ∧ (s.modHere f).fetched = s.fetched ∧ (s.modHere f).cur = s.cur ∧ (s.modHere f).held =
    s.held ∧ (s.modHere f).toIssue = s.toIssue ∧ (s.modHere f).time = s.time ∧ (s.modHere f).epoch = s.epoch ∧
    (s.modHere f).marks = s.marks ∧ (s.modHere f).opened = s.opened ∧ (s.modHere f).trapped = s.trapped ∧ (s.modHere
    f).resumed = s.resumed ∧ (s.modHere f).opp = s.opp ∧ (s.modHere f).rest = s.rest ∧ (s.modHere f).found = s.found
    ∧ (s.modHere f).lastPart = s.lastPart ∧ (s.modHere f).nextId = s.nextId ∧ (s.modHere f).agenda = s.agenda ∧
    (s.modHere f).inputs = s.inputs ∧ (s.modHere f).sched = s.sched ∧ (s.modHere f).freeCtr = s.freeCtr :=
    ⟨rfl, rfl, rfl, rfl, rfl, rfl, rfl, rfl, rfl, rfl, rfl, rfl, rfl, rfl, rfl, rfl, rfl, rfl, rfl, rfl, rfl, rfl,
    rfl, rfl, rfl, rfl, rfl, rfl, rfl, rfl⟩

@[simp] theorem State.modMyGroup_keeps (f : Group → Group) :
    (s.modMyGroup f).mem = s.mem ∧ (s.modMyGroup f).memTag = s.memTag ∧ (s.modMyGroup f).poison = s.poison ∧
    (s.modMyGroup f).veils = s.veils ∧ (s.modMyGroup f).hostMem = s.hostMem ∧ (s.modMyGroup f).combine = s.combine ∧
    (s.modMyGroup f).wrote = s.wrote ∧ (s.modMyGroup f).cores = s.cores ∧ (s.modMyGroup f).benches = s.benches ∧
    (s.modMyGroup f).dies = s.dies ∧ (s.modMyGroup f).pkg = s.pkg ∧ (s.modMyGroup f).fetched = s.fetched ∧
    (s.modMyGroup f).cur = s.cur ∧ (s.modMyGroup f).held = s.held ∧ (s.modMyGroup f).toIssue = s.toIssue ∧
    (s.modMyGroup f).time = s.time ∧ (s.modMyGroup f).epoch = s.epoch ∧ (s.modMyGroup f).marks = s.marks ∧
    (s.modMyGroup f).opened = s.opened ∧ (s.modMyGroup f).trapped = s.trapped ∧ (s.modMyGroup f).resumed = s.resumed
    ∧ (s.modMyGroup f).opp = s.opp ∧ (s.modMyGroup f).rest = s.rest ∧ (s.modMyGroup f).found = s.found ∧
    (s.modMyGroup f).lastPart = s.lastPart ∧ (s.modMyGroup f).nextId = s.nextId ∧ (s.modMyGroup f).agenda = s.agenda
    ∧ (s.modMyGroup f).inputs = s.inputs ∧ (s.modMyGroup f).sched = s.sched ∧ (s.modMyGroup f).freeCtr = s.freeCtr :=
    ⟨rfl, rfl, rfl, rfl, rfl, rfl, rfl, rfl, rfl, rfl, rfl, rfl, rfl, rfl, rfl, rfl, rfl, rfl, rfl, rfl, rfl, rfl,
    rfl, rfl, rfl, rfl, rfl, rfl, rfl, rfl⟩

@[simp] theorem State.modMyTeam_keeps (f : Team → Team) :
    (s.modMyTeam f).mem = s.mem ∧ (s.modMyTeam f).memTag = s.memTag ∧ (s.modMyTeam f).poison = s.poison ∧
    (s.modMyTeam f).veils = s.veils ∧ (s.modMyTeam f).hostMem = s.hostMem ∧ (s.modMyTeam f).combine = s.combine ∧
    (s.modMyTeam f).wrote = s.wrote ∧ (s.modMyTeam f).cores = s.cores ∧ (s.modMyTeam f).benches = s.benches ∧
    (s.modMyTeam f).dies = s.dies ∧ (s.modMyTeam f).pkg = s.pkg ∧ (s.modMyTeam f).fetched = s.fetched ∧ (s.modMyTeam
    f).cur = s.cur ∧ (s.modMyTeam f).held = s.held ∧ (s.modMyTeam f).toIssue = s.toIssue ∧ (s.modMyTeam f).time =
    s.time ∧ (s.modMyTeam f).epoch = s.epoch ∧ (s.modMyTeam f).marks = s.marks ∧ (s.modMyTeam f).opened = s.opened ∧
    (s.modMyTeam f).trapped = s.trapped ∧ (s.modMyTeam f).resumed = s.resumed ∧ (s.modMyTeam f).opp = s.opp ∧
    (s.modMyTeam f).rest = s.rest ∧ (s.modMyTeam f).found = s.found ∧ (s.modMyTeam f).lastPart = s.lastPart ∧
    (s.modMyTeam f).nextId = s.nextId ∧ (s.modMyTeam f).agenda = s.agenda ∧ (s.modMyTeam f).inputs = s.inputs ∧
    (s.modMyTeam f).sched = s.sched ∧ (s.modMyTeam f).freeCtr = s.freeCtr :=
    ⟨rfl, rfl, rfl, rfl, rfl, rfl, rfl, rfl, rfl, rfl, rfl, rfl, rfl, rfl, rfl, rfl, rfl, rfl, rfl, rfl, rfl, rfl,
    rfl, rfl, rfl, rfl, rfl, rfl, rfl, rfl⟩

@[simp] theorem State.setCore_keeps (c : CoreId) (x : Core) :
    (s.setCore c x).mem = s.mem ∧ (s.setCore c x).memTag = s.memTag ∧ (s.setCore c x).poison = s.poison ∧ (s.setCore
    c x).veils = s.veils ∧ (s.setCore c x).hostMem = s.hostMem ∧ (s.setCore c x).combine = s.combine ∧ (s.setCore c
    x).wrote = s.wrote ∧ (s.setCore c x).teams = s.teams ∧ (s.setCore c x).benches = s.benches ∧ (s.setCore c
    x).dies = s.dies ∧ (s.setCore c x).pkg = s.pkg ∧ (s.setCore c x).fetched = s.fetched ∧ (s.setCore c x).cur =
    s.cur ∧ (s.setCore c x).held = s.held ∧ (s.setCore c x).toIssue = s.toIssue ∧ (s.setCore c x).time = s.time ∧
    (s.setCore c x).epoch = s.epoch ∧ (s.setCore c x).marks = s.marks ∧ (s.setCore c x).opened = s.opened ∧
    (s.setCore c x).trapped = s.trapped ∧ (s.setCore c x).resumed = s.resumed ∧ (s.setCore c x).opp = s.opp ∧
    (s.setCore c x).rest = s.rest ∧ (s.setCore c x).found = s.found ∧ (s.setCore c x).lastPart = s.lastPart ∧
    (s.setCore c x).nextId = s.nextId ∧ (s.setCore c x).agenda = s.agenda ∧ (s.setCore c x).inputs = s.inputs ∧
    (s.setCore c x).sched = s.sched ∧ (s.setCore c x).freeCtr = s.freeCtr :=
    ⟨rfl, rfl, rfl, rfl, rfl, rfl, rfl, rfl, rfl, rfl, rfl, rfl, rfl, rfl, rfl, rfl, rfl, rfl, rfl, rfl, rfl, rfl,
    rfl, rfl, rfl, rfl, rfl, rfl, rfl, rfl⟩

@[simp] theorem State.modCore_keeps (c : CoreId) (f : Core → Core) :
    (s.modCore c f).mem = s.mem ∧ (s.modCore c f).memTag = s.memTag ∧ (s.modCore c f).poison = s.poison ∧ (s.modCore
    c f).veils = s.veils ∧ (s.modCore c f).hostMem = s.hostMem ∧ (s.modCore c f).combine = s.combine ∧ (s.modCore c
    f).wrote = s.wrote ∧ (s.modCore c f).teams = s.teams ∧ (s.modCore c f).benches = s.benches ∧ (s.modCore c
    f).dies = s.dies ∧ (s.modCore c f).pkg = s.pkg ∧ (s.modCore c f).fetched = s.fetched ∧ (s.modCore c f).cur =
    s.cur ∧ (s.modCore c f).held = s.held ∧ (s.modCore c f).toIssue = s.toIssue ∧ (s.modCore c f).time = s.time ∧
    (s.modCore c f).epoch = s.epoch ∧ (s.modCore c f).marks = s.marks ∧ (s.modCore c f).opened = s.opened ∧
    (s.modCore c f).trapped = s.trapped ∧ (s.modCore c f).resumed = s.resumed ∧ (s.modCore c f).opp = s.opp ∧
    (s.modCore c f).rest = s.rest ∧ (s.modCore c f).found = s.found ∧ (s.modCore c f).lastPart = s.lastPart ∧
    (s.modCore c f).nextId = s.nextId ∧ (s.modCore c f).agenda = s.agenda ∧ (s.modCore c f).inputs = s.inputs ∧
    (s.modCore c f).sched = s.sched ∧ (s.modCore c f).freeCtr = s.freeCtr :=
    ⟨rfl, rfl, rfl, rfl, rfl, rfl, rfl, rfl, rfl, rfl, rfl, rfl, rfl, rfl, rfl, rfl, rfl, rfl, rfl, rfl, rfl, rfl,
    rfl, rfl, rfl, rfl, rfl, rfl, rfl, rfl⟩

@[simp] theorem State.modEntry_keeps (c : CoreId) (k : Nat) (f : Entry → Entry) :
    (s.modEntry c k f).mem = s.mem ∧ (s.modEntry c k f).memTag = s.memTag ∧ (s.modEntry c k f).poison = s.poison ∧
    (s.modEntry c k f).veils = s.veils ∧ (s.modEntry c k f).hostMem = s.hostMem ∧ (s.modEntry c k f).combine =
    s.combine ∧ (s.modEntry c k f).wrote = s.wrote ∧ (s.modEntry c k f).teams = s.teams ∧ (s.modEntry c k f).benches
    = s.benches ∧ (s.modEntry c k f).dies = s.dies ∧ (s.modEntry c k f).pkg = s.pkg ∧ (s.modEntry c k f).fetched =
    s.fetched ∧ (s.modEntry c k f).cur = s.cur ∧ (s.modEntry c k f).held = s.held ∧ (s.modEntry c k f).toIssue =
    s.toIssue ∧ (s.modEntry c k f).time = s.time ∧ (s.modEntry c k f).epoch = s.epoch ∧ (s.modEntry c k f).marks =
    s.marks ∧ (s.modEntry c k f).opened = s.opened ∧ (s.modEntry c k f).trapped = s.trapped ∧ (s.modEntry c k
    f).resumed = s.resumed ∧ (s.modEntry c k f).opp = s.opp ∧ (s.modEntry c k f).rest = s.rest ∧ (s.modEntry c k
    f).found = s.found ∧ (s.modEntry c k f).lastPart = s.lastPart ∧ (s.modEntry c k f).nextId = s.nextId ∧
    (s.modEntry c k f).agenda = s.agenda ∧ (s.modEntry c k f).inputs = s.inputs ∧ (s.modEntry c k f).sched = s.sched
    ∧ (s.modEntry c k f).freeCtr = s.freeCtr :=
    ⟨rfl, rfl, rfl, rfl, rfl, rfl, rfl, rfl, rfl, rfl, rfl, rfl, rfl, rfl, rfl, rfl, rfl, rfl, rfl, rfl, rfl, rfl,
    rfl, rfl, rfl, rfl, rfl, rfl, rfl, rfl⟩

@[simp] theorem State.setBench_keeps (b : Nat) (x : Bench) :
    (s.setBench b x).mem = s.mem ∧ (s.setBench b x).memTag = s.memTag ∧ (s.setBench b x).poison = s.poison ∧
    (s.setBench b x).veils = s.veils ∧ (s.setBench b x).hostMem = s.hostMem ∧ (s.setBench b x).combine = s.combine ∧
    (s.setBench b x).wrote = s.wrote ∧ (s.setBench b x).teams = s.teams ∧ (s.setBench b x).cores = s.cores ∧
    (s.setBench b x).dies = s.dies ∧ (s.setBench b x).pkg = s.pkg ∧ (s.setBench b x).fetched = s.fetched ∧
    (s.setBench b x).cur = s.cur ∧ (s.setBench b x).held = s.held ∧ (s.setBench b x).toIssue = s.toIssue ∧
    (s.setBench b x).time = s.time ∧ (s.setBench b x).epoch = s.epoch ∧ (s.setBench b x).marks = s.marks ∧
    (s.setBench b x).opened = s.opened ∧ (s.setBench b x).trapped = s.trapped ∧ (s.setBench b x).resumed = s.resumed
    ∧ (s.setBench b x).opp = s.opp ∧ (s.setBench b x).rest = s.rest ∧ (s.setBench b x).found = s.found ∧ (s.setBench
    b x).lastPart = s.lastPart ∧ (s.setBench b x).nextId = s.nextId ∧ (s.setBench b x).agenda = s.agenda ∧
    (s.setBench b x).inputs = s.inputs ∧ (s.setBench b x).sched = s.sched ∧ (s.setBench b x).freeCtr = s.freeCtr :=
    ⟨rfl, rfl, rfl, rfl, rfl, rfl, rfl, rfl, rfl, rfl, rfl, rfl, rfl, rfl, rfl, rfl, rfl, rfl, rfl, rfl, rfl, rfl,
    rfl, rfl, rfl, rfl, rfl, rfl, rfl, rfl⟩

@[simp] theorem State.modBench_keeps (b : Nat) (f : Bench → Bench) :
    (s.modBench b f).mem = s.mem ∧ (s.modBench b f).memTag = s.memTag ∧ (s.modBench b f).poison = s.poison ∧
    (s.modBench b f).veils = s.veils ∧ (s.modBench b f).hostMem = s.hostMem ∧ (s.modBench b f).combine = s.combine ∧
    (s.modBench b f).wrote = s.wrote ∧ (s.modBench b f).teams = s.teams ∧ (s.modBench b f).cores = s.cores ∧
    (s.modBench b f).dies = s.dies ∧ (s.modBench b f).pkg = s.pkg ∧ (s.modBench b f).fetched = s.fetched ∧
    (s.modBench b f).cur = s.cur ∧ (s.modBench b f).held = s.held ∧ (s.modBench b f).toIssue = s.toIssue ∧
    (s.modBench b f).time = s.time ∧ (s.modBench b f).epoch = s.epoch ∧ (s.modBench b f).marks = s.marks ∧
    (s.modBench b f).opened = s.opened ∧ (s.modBench b f).trapped = s.trapped ∧ (s.modBench b f).resumed = s.resumed
    ∧ (s.modBench b f).opp = s.opp ∧ (s.modBench b f).rest = s.rest ∧ (s.modBench b f).found = s.found ∧ (s.modBench
    b f).lastPart = s.lastPart ∧ (s.modBench b f).nextId = s.nextId ∧ (s.modBench b f).agenda = s.agenda ∧
    (s.modBench b f).inputs = s.inputs ∧ (s.modBench b f).sched = s.sched ∧ (s.modBench b f).freeCtr = s.freeCtr :=
    ⟨rfl, rfl, rfl, rfl, rfl, rfl, rfl, rfl, rfl, rfl, rfl, rfl, rfl, rfl, rfl, rfl, rfl, rfl, rfl, rfl, rfl, rfl,
    rfl, rfl, rfl, rfl, rfl, rfl, rfl, rfl⟩

@[simp] theorem State.setDie_keeps (d : Nat) (x : Die) :
    (s.setDie d x).mem = s.mem ∧ (s.setDie d x).memTag = s.memTag ∧ (s.setDie d x).poison = s.poison ∧ (s.setDie d
    x).veils = s.veils ∧ (s.setDie d x).hostMem = s.hostMem ∧ (s.setDie d x).combine = s.combine ∧ (s.setDie d
    x).wrote = s.wrote ∧ (s.setDie d x).teams = s.teams ∧ (s.setDie d x).cores = s.cores ∧ (s.setDie d x).benches =
    s.benches ∧ (s.setDie d x).pkg = s.pkg ∧ (s.setDie d x).fetched = s.fetched ∧ (s.setDie d x).cur = s.cur ∧
    (s.setDie d x).held = s.held ∧ (s.setDie d x).toIssue = s.toIssue ∧ (s.setDie d x).time = s.time ∧ (s.setDie d
    x).epoch = s.epoch ∧ (s.setDie d x).marks = s.marks ∧ (s.setDie d x).opened = s.opened ∧ (s.setDie d x).trapped
    = s.trapped ∧ (s.setDie d x).resumed = s.resumed ∧ (s.setDie d x).opp = s.opp ∧ (s.setDie d x).rest = s.rest ∧
    (s.setDie d x).found = s.found ∧ (s.setDie d x).lastPart = s.lastPart ∧ (s.setDie d x).nextId = s.nextId ∧
    (s.setDie d x).agenda = s.agenda ∧ (s.setDie d x).inputs = s.inputs ∧ (s.setDie d x).sched = s.sched ∧ (s.setDie
    d x).freeCtr = s.freeCtr :=
    ⟨rfl, rfl, rfl, rfl, rfl, rfl, rfl, rfl, rfl, rfl, rfl, rfl, rfl, rfl, rfl, rfl, rfl, rfl, rfl, rfl, rfl, rfl,
    rfl, rfl, rfl, rfl, rfl, rfl, rfl, rfl⟩

@[simp] theorem State.modDie_keeps (d : Nat) (f : Die → Die) :
    (s.modDie d f).mem = s.mem ∧ (s.modDie d f).memTag = s.memTag ∧ (s.modDie d f).poison = s.poison ∧ (s.modDie d
    f).veils = s.veils ∧ (s.modDie d f).hostMem = s.hostMem ∧ (s.modDie d f).combine = s.combine ∧ (s.modDie d
    f).wrote = s.wrote ∧ (s.modDie d f).teams = s.teams ∧ (s.modDie d f).cores = s.cores ∧ (s.modDie d f).benches =
    s.benches ∧ (s.modDie d f).pkg = s.pkg ∧ (s.modDie d f).fetched = s.fetched ∧ (s.modDie d f).cur = s.cur ∧
    (s.modDie d f).held = s.held ∧ (s.modDie d f).toIssue = s.toIssue ∧ (s.modDie d f).time = s.time ∧ (s.modDie d
    f).epoch = s.epoch ∧ (s.modDie d f).marks = s.marks ∧ (s.modDie d f).opened = s.opened ∧ (s.modDie d f).trapped
    = s.trapped ∧ (s.modDie d f).resumed = s.resumed ∧ (s.modDie d f).opp = s.opp ∧ (s.modDie d f).rest = s.rest ∧
    (s.modDie d f).found = s.found ∧ (s.modDie d f).lastPart = s.lastPart ∧ (s.modDie d f).nextId = s.nextId ∧
    (s.modDie d f).agenda = s.agenda ∧ (s.modDie d f).inputs = s.inputs ∧ (s.modDie d f).sched = s.sched ∧ (s.modDie
    d f).freeCtr = s.freeCtr :=
    ⟨rfl, rfl, rfl, rfl, rfl, rfl, rfl, rfl, rfl, rfl, rfl, rfl, rfl, rfl, rfl, rfl, rfl, rfl, rfl, rfl, rfl, rfl,
    rfl, rfl, rfl, rfl, rfl, rfl, rfl, rfl⟩

@[simp] theorem State.modPkg_keeps (f : Pkg → Pkg) :
    (s.modPkg f).mem = s.mem ∧ (s.modPkg f).memTag = s.memTag ∧ (s.modPkg f).poison = s.poison ∧ (s.modPkg f).veils
    = s.veils ∧ (s.modPkg f).hostMem = s.hostMem ∧ (s.modPkg f).combine = s.combine ∧ (s.modPkg f).wrote = s.wrote ∧
    (s.modPkg f).teams = s.teams ∧ (s.modPkg f).cores = s.cores ∧ (s.modPkg f).benches = s.benches ∧ (s.modPkg
    f).dies = s.dies ∧ (s.modPkg f).fetched = s.fetched ∧ (s.modPkg f).cur = s.cur ∧ (s.modPkg f).held = s.held ∧
    (s.modPkg f).toIssue = s.toIssue ∧ (s.modPkg f).time = s.time ∧ (s.modPkg f).epoch = s.epoch ∧ (s.modPkg
    f).marks = s.marks ∧ (s.modPkg f).opened = s.opened ∧ (s.modPkg f).trapped = s.trapped ∧ (s.modPkg f).resumed =
    s.resumed ∧ (s.modPkg f).opp = s.opp ∧ (s.modPkg f).rest = s.rest ∧ (s.modPkg f).found = s.found ∧ (s.modPkg
    f).lastPart = s.lastPart ∧ (s.modPkg f).nextId = s.nextId ∧ (s.modPkg f).agenda = s.agenda ∧ (s.modPkg f).inputs
    = s.inputs ∧ (s.modPkg f).sched = s.sched ∧ (s.modPkg f).freeCtr = s.freeCtr :=
    ⟨rfl, rfl, rfl, rfl, rfl, rfl, rfl, rfl, rfl, rfl, rfl, rfl, rfl, rfl, rfl, rfl, rfl, rfl, rfl, rfl, rfl, rfl,
    rfl, rfl, rfl, rfl, rfl, rfl, rfl, rfl⟩

@[simp] theorem State.later_keeps (n : Nat) (e : Instr) :
    (s.later n e).mem = s.mem ∧ (s.later n e).memTag = s.memTag ∧ (s.later n e).poison = s.poison ∧ (s.later n
    e).veils = s.veils ∧ (s.later n e).hostMem = s.hostMem ∧ (s.later n e).combine = s.combine ∧ (s.later n e).wrote
    = s.wrote ∧ (s.later n e).teams = s.teams ∧ (s.later n e).cores = s.cores ∧ (s.later n e).benches = s.benches ∧
    (s.later n e).dies = s.dies ∧ (s.later n e).pkg = s.pkg ∧ (s.later n e).fetched = s.fetched ∧ (s.later n e).cur
    = s.cur ∧ (s.later n e).held = s.held ∧ (s.later n e).toIssue = s.toIssue ∧ (s.later n e).time = s.time ∧
    (s.later n e).epoch = s.epoch ∧ (s.later n e).marks = s.marks ∧ (s.later n e).opened = s.opened ∧ (s.later n
    e).trapped = s.trapped ∧ (s.later n e).resumed = s.resumed ∧ (s.later n e).opp = s.opp ∧ (s.later n e).rest =
    s.rest ∧ (s.later n e).found = s.found ∧ (s.later n e).lastPart = s.lastPart ∧ (s.later n e).nextId = s.nextId ∧
    (s.later n e).inputs = s.inputs ∧ (s.later n e).sched = s.sched ∧ (s.later n e).freeCtr = s.freeCtr :=
    ⟨rfl, rfl, rfl, rfl, rfl, rfl, rfl, rfl, rfl, rfl, rfl, rfl, rfl, rfl, rfl, rfl, rfl, rfl, rfl, rfl, rfl, rfl,
    rfl, rfl, rfl, rfl, rfl, rfl, rfl, rfl⟩

@[simp] theorem State.again_keeps (e : Instr) :
    (s.again e).mem = s.mem ∧ (s.again e).memTag = s.memTag ∧ (s.again e).poison = s.poison ∧ (s.again e).veils =
    s.veils ∧ (s.again e).hostMem = s.hostMem ∧ (s.again e).combine = s.combine ∧ (s.again e).wrote = s.wrote ∧
    (s.again e).teams = s.teams ∧ (s.again e).cores = s.cores ∧ (s.again e).benches = s.benches ∧ (s.again e).dies =
    s.dies ∧ (s.again e).pkg = s.pkg ∧ (s.again e).fetched = s.fetched ∧ (s.again e).cur = s.cur ∧ (s.again e).held
    = s.held ∧ (s.again e).toIssue = s.toIssue ∧ (s.again e).time = s.time ∧ (s.again e).epoch = s.epoch ∧ (s.again
    e).marks = s.marks ∧ (s.again e).opened = s.opened ∧ (s.again e).trapped = s.trapped ∧ (s.again e).resumed =
    s.resumed ∧ (s.again e).opp = s.opp ∧ (s.again e).rest = s.rest ∧ (s.again e).found = s.found ∧ (s.again
    e).lastPart = s.lastPart ∧ (s.again e).nextId = s.nextId ∧ (s.again e).inputs = s.inputs ∧ (s.again e).sched =
    s.sched ∧ (s.again e).freeCtr = s.freeCtr :=
    ⟨rfl, rfl, rfl, rfl, rfl, rfl, rfl, rfl, rfl, rfl, rfl, rfl, rfl, rfl, rfl, rfl, rfl, rfl, rfl, rfl, rfl, rfl,
    rfl, rfl, rfl, rfl, rfl, rfl, rfl, rfl⟩

@[simp] theorem State.hold_keeps :
    (s.hold).mem = s.mem ∧ (s.hold).memTag = s.memTag ∧ (s.hold).poison = s.poison ∧ (s.hold).veils = s.veils ∧
    (s.hold).hostMem = s.hostMem ∧ (s.hold).combine = s.combine ∧ (s.hold).wrote = s.wrote ∧ (s.hold).teams =
    s.teams ∧ (s.hold).cores = s.cores ∧ (s.hold).benches = s.benches ∧ (s.hold).dies = s.dies ∧ (s.hold).pkg =
    s.pkg ∧ (s.hold).fetched = s.fetched ∧ (s.hold).cur = s.cur ∧ (s.hold).toIssue = s.toIssue ∧ (s.hold).time =
    s.time ∧ (s.hold).epoch = s.epoch ∧ (s.hold).marks = s.marks ∧ (s.hold).opened = s.opened ∧ (s.hold).trapped =
    s.trapped ∧ (s.hold).resumed = s.resumed ∧ (s.hold).opp = s.opp ∧ (s.hold).rest = s.rest ∧ (s.hold).found =
    s.found ∧ (s.hold).lastPart = s.lastPart ∧ (s.hold).nextId = s.nextId ∧ (s.hold).agenda = s.agenda ∧
    (s.hold).inputs = s.inputs ∧ (s.hold).sched = s.sched ∧ (s.hold).freeCtr = s.freeCtr :=
    ⟨rfl, rfl, rfl, rfl, rfl, rfl, rfl, rfl, rfl, rfl, rfl, rfl, rfl, rfl, rfl, rfl, rfl, rfl, rfl, rfl, rfl, rfl,
    rfl, rfl, rfl, rfl, rfl, rfl, rfl, rfl⟩

@[simp] theorem State.tick_keeps :
    (s.tick).mem = s.mem ∧ (s.tick).memTag = s.memTag ∧ (s.tick).poison = s.poison ∧ (s.tick).veils = s.veils ∧
    (s.tick).hostMem = s.hostMem ∧ (s.tick).combine = s.combine ∧ (s.tick).wrote = s.wrote ∧ (s.tick).teams =
    s.teams ∧ (s.tick).cores = s.cores ∧ (s.tick).benches = s.benches ∧ (s.tick).dies = s.dies ∧ (s.tick).pkg =
    s.pkg ∧ (s.tick).fetched = s.fetched ∧ (s.tick).cur = s.cur ∧ (s.tick).held = s.held ∧ (s.tick).toIssue =
    s.toIssue ∧ (s.tick).epoch = s.epoch ∧ (s.tick).marks = s.marks ∧ (s.tick).opened = s.opened ∧ (s.tick).trapped
    = s.trapped ∧ (s.tick).resumed = s.resumed ∧ (s.tick).opp = s.opp ∧ (s.tick).rest = s.rest ∧ (s.tick).found =
    s.found ∧ (s.tick).lastPart = s.lastPart ∧ (s.tick).nextId = s.nextId ∧ (s.tick).agenda = s.agenda ∧
    (s.tick).inputs = s.inputs ∧ (s.tick).sched = s.sched ∧ (s.tick).freeCtr = s.freeCtr :=
    ⟨rfl, rfl, rfl, rfl, rfl, rfl, rfl, rfl, rfl, rfl, rfl, rfl, rfl, rfl, rfl, rfl, rfl, rfl, rfl, rfl, rfl, rfl,
    rfl, rfl, rfl, rfl, rfl, rfl, rfl, rfl⟩

@[simp] theorem State.mark_keeps (id : StreamId) (pc : DWord) :
    (s.mark id pc).mem = s.mem ∧ (s.mark id pc).memTag = s.memTag ∧ (s.mark id pc).poison = s.poison ∧ (s.mark id
    pc).veils = s.veils ∧ (s.mark id pc).hostMem = s.hostMem ∧ (s.mark id pc).combine = s.combine ∧ (s.mark id
    pc).wrote = s.wrote ∧ (s.mark id pc).teams = s.teams ∧ (s.mark id pc).cores = s.cores ∧ (s.mark id pc).benches =
    s.benches ∧ (s.mark id pc).dies = s.dies ∧ (s.mark id pc).pkg = s.pkg ∧ (s.mark id pc).fetched = s.fetched ∧
    (s.mark id pc).cur = s.cur ∧ (s.mark id pc).held = s.held ∧ (s.mark id pc).toIssue = s.toIssue ∧ (s.mark id
    pc).time = s.time ∧ (s.mark id pc).epoch = s.epoch ∧ (s.mark id pc).opened = s.opened ∧ (s.mark id pc).trapped =
    s.trapped ∧ (s.mark id pc).resumed = s.resumed ∧ (s.mark id pc).opp = s.opp ∧ (s.mark id pc).rest = s.rest ∧
    (s.mark id pc).found = s.found ∧ (s.mark id pc).lastPart = s.lastPart ∧ (s.mark id pc).nextId = s.nextId ∧
    (s.mark id pc).agenda = s.agenda ∧ (s.mark id pc).inputs = s.inputs ∧ (s.mark id pc).sched = s.sched ∧ (s.mark
    id pc).freeCtr = s.freeCtr :=
    ⟨rfl, rfl, rfl, rfl, rfl, rfl, rfl, rfl, rfl, rfl, rfl, rfl, rfl, rfl, rfl, rfl, rfl, rfl, rfl, rfl, rfl, rfl,
    rfl, rfl, rfl, rfl, rfl, rfl, rfl, rfl⟩

@[simp] theorem State.writePa_keeps (key a : Nat) (b : Byte) :
    (s.writePa key a b).poison = s.poison ∧ (s.writePa key a b).hostMem = s.hostMem ∧ (s.writePa key a b).combine =
    s.combine ∧ (s.writePa key a b).wrote = s.wrote ∧ (s.writePa key a b).teams = s.teams ∧ (s.writePa key a
    b).cores = s.cores ∧ (s.writePa key a b).benches = s.benches ∧ (s.writePa key a b).dies = s.dies ∧ (s.writePa
    key a b).pkg = s.pkg ∧ (s.writePa key a b).fetched = s.fetched ∧ (s.writePa key a b).cur = s.cur ∧ (s.writePa
    key a b).held = s.held ∧ (s.writePa key a b).toIssue = s.toIssue ∧ (s.writePa key a b).time = s.time ∧
    (s.writePa key a b).epoch = s.epoch ∧ (s.writePa key a b).marks = s.marks ∧ (s.writePa key a b).opened =
    s.opened ∧ (s.writePa key a b).trapped = s.trapped ∧ (s.writePa key a b).resumed = s.resumed ∧ (s.writePa key a
    b).opp = s.opp ∧ (s.writePa key a b).rest = s.rest ∧ (s.writePa key a b).found = s.found ∧ (s.writePa key a
    b).lastPart = s.lastPart ∧ (s.writePa key a b).nextId = s.nextId ∧ (s.writePa key a b).agenda = s.agenda ∧
    (s.writePa key a b).inputs = s.inputs ∧ (s.writePa key a b).sched = s.sched ∧ (s.writePa key a b).freeCtr =
    s.freeCtr :=
    by unfold State.writePa; dsimp only; split <;> exact ⟨rfl, rfl, rfl, rfl, rfl, rfl, rfl, rfl, rfl, rfl, rfl,
    rfl, rfl, rfl, rfl, rfl, rfl, rfl, rfl, rfl, rfl, rfl, rfl, rfl, rfl, rfl, rfl, rfl⟩

@[simp] theorem State.writeHost_keeps (a : Nat) (b : Byte) :
    (s.writeHost a b).mem = s.mem ∧ (s.writeHost a b).memTag = s.memTag ∧ (s.writeHost a b).poison = s.poison ∧
    (s.writeHost a b).veils = s.veils ∧ (s.writeHost a b).combine = s.combine ∧ (s.writeHost a b).wrote = s.wrote ∧
    (s.writeHost a b).teams = s.teams ∧ (s.writeHost a b).cores = s.cores ∧ (s.writeHost a b).benches = s.benches ∧
    (s.writeHost a b).dies = s.dies ∧ (s.writeHost a b).pkg = s.pkg ∧ (s.writeHost a b).fetched = s.fetched ∧
    (s.writeHost a b).cur = s.cur ∧ (s.writeHost a b).held = s.held ∧ (s.writeHost a b).toIssue = s.toIssue ∧
    (s.writeHost a b).time = s.time ∧ (s.writeHost a b).epoch = s.epoch ∧ (s.writeHost a b).marks = s.marks ∧
    (s.writeHost a b).opened = s.opened ∧ (s.writeHost a b).trapped = s.trapped ∧ (s.writeHost a b).resumed =
    s.resumed ∧ (s.writeHost a b).opp = s.opp ∧ (s.writeHost a b).rest = s.rest ∧ (s.writeHost a b).found = s.found
    ∧ (s.writeHost a b).lastPart = s.lastPart ∧ (s.writeHost a b).nextId = s.nextId ∧ (s.writeHost a b).agenda =
    s.agenda ∧ (s.writeHost a b).inputs = s.inputs ∧ (s.writeHost a b).sched = s.sched ∧ (s.writeHost a b).freeCtr =
    s.freeCtr :=
    ⟨rfl, rfl, rfl, rfl, rfl, rfl, rfl, rfl, rfl, rfl, rfl, rfl, rfl, rfl, rfl, rfl, rfl, rfl, rfl, rfl, rfl, rfl,
    rfl, rfl, rfl, rfl, rfl, rfl, rfl, rfl⟩

@[simp] theorem State.setPoison_keeps (a : Nat) (p : Bool) :
    (s.setPoison a p).mem = s.mem ∧ (s.setPoison a p).memTag = s.memTag ∧ (s.setPoison a p).veils = s.veils ∧
    (s.setPoison a p).hostMem = s.hostMem ∧ (s.setPoison a p).combine = s.combine ∧ (s.setPoison a p).wrote =
    s.wrote ∧ (s.setPoison a p).teams = s.teams ∧ (s.setPoison a p).cores = s.cores ∧ (s.setPoison a p).benches =
    s.benches ∧ (s.setPoison a p).dies = s.dies ∧ (s.setPoison a p).pkg = s.pkg ∧ (s.setPoison a p).fetched =
    s.fetched ∧ (s.setPoison a p).cur = s.cur ∧ (s.setPoison a p).held = s.held ∧ (s.setPoison a p).toIssue =
    s.toIssue ∧ (s.setPoison a p).time = s.time ∧ (s.setPoison a p).epoch = s.epoch ∧ (s.setPoison a p).marks =
    s.marks ∧ (s.setPoison a p).opened = s.opened ∧ (s.setPoison a p).trapped = s.trapped ∧ (s.setPoison a
    p).resumed = s.resumed ∧ (s.setPoison a p).opp = s.opp ∧ (s.setPoison a p).rest = s.rest ∧ (s.setPoison a
    p).found = s.found ∧ (s.setPoison a p).lastPart = s.lastPart ∧ (s.setPoison a p).nextId = s.nextId ∧
    (s.setPoison a p).agenda = s.agenda ∧ (s.setPoison a p).inputs = s.inputs ∧ (s.setPoison a p).sched = s.sched ∧
    (s.setPoison a p).freeCtr = s.freeCtr :=
    ⟨rfl, rfl, rfl, rfl, rfl, rfl, rfl, rfl, rfl, rfl, rfl, rfl, rfl, rfl, rfl, rfl, rfl, rfl, rfl, rfl, rfl, rfl,
    rfl, rfl, rfl, rfl, rfl, rfl, rfl, rfl⟩

@[simp] theorem State.advance_keeps (id : StreamId) (m : Mask) :
    (s.advance id m).mem = s.mem ∧ (s.advance id m).memTag = s.memTag ∧ (s.advance id m).poison = s.poison ∧
    (s.advance id m).veils = s.veils ∧ (s.advance id m).hostMem = s.hostMem ∧ (s.advance id m).combine = s.combine ∧
    (s.advance id m).wrote = s.wrote ∧ (s.advance id m).cores = s.cores ∧ (s.advance id m).benches = s.benches ∧
    (s.advance id m).dies = s.dies ∧ (s.advance id m).pkg = s.pkg ∧ (s.advance id m).fetched = s.fetched ∧
    (s.advance id m).cur = s.cur ∧ (s.advance id m).held = s.held ∧ (s.advance id m).toIssue = s.toIssue ∧
    (s.advance id m).time = s.time ∧ (s.advance id m).epoch = s.epoch ∧ (s.advance id m).marks = s.marks ∧
    (s.advance id m).opened = s.opened ∧ (s.advance id m).trapped = s.trapped ∧ (s.advance id m).resumed = s.resumed
    ∧ (s.advance id m).opp = s.opp ∧ (s.advance id m).rest = s.rest ∧ (s.advance id m).found = s.found ∧ (s.advance
    id m).lastPart = s.lastPart ∧ (s.advance id m).nextId = s.nextId ∧ (s.advance id m).agenda = s.agenda ∧
    (s.advance id m).inputs = s.inputs ∧ (s.advance id m).sched = s.sched ∧ (s.advance id m).freeCtr = s.freeCtr :=
    ⟨rfl, rfl, rfl, rfl, rfl, rfl, rfl, rfl, rfl, rfl, rfl, rfl, rfl, rfl, rfl, rfl, rfl, rfl, rfl, rfl, rfl, rfl,
    rfl, rfl, rfl, rfl, rfl, rfl, rfl, rfl⟩

@[simp] theorem State.raise_keeps (f : Flags) :
    (s.raise f).mem = s.mem ∧ (s.raise f).memTag = s.memTag ∧ (s.raise f).poison = s.poison ∧ (s.raise f).veils =
    s.veils ∧ (s.raise f).hostMem = s.hostMem ∧ (s.raise f).combine = s.combine ∧ (s.raise f).wrote = s.wrote ∧
    (s.raise f).cores = s.cores ∧ (s.raise f).benches = s.benches ∧ (s.raise f).dies = s.dies ∧ (s.raise f).pkg =
    s.pkg ∧ (s.raise f).fetched = s.fetched ∧ (s.raise f).cur = s.cur ∧ (s.raise f).held = s.held ∧ (s.raise
    f).toIssue = s.toIssue ∧ (s.raise f).time = s.time ∧ (s.raise f).epoch = s.epoch ∧ (s.raise f).marks = s.marks ∧
    (s.raise f).opened = s.opened ∧ (s.raise f).trapped = s.trapped ∧ (s.raise f).resumed = s.resumed ∧ (s.raise
    f).opp = s.opp ∧ (s.raise f).rest = s.rest ∧ (s.raise f).found = s.found ∧ (s.raise f).lastPart = s.lastPart ∧
    (s.raise f).nextId = s.nextId ∧ (s.raise f).agenda = s.agenda ∧ (s.raise f).inputs = s.inputs ∧ (s.raise
    f).sched = s.sched ∧ (s.raise f).freeCtr = s.freeCtr :=
    ⟨rfl, rfl, rfl, rfl, rfl, rfl, rfl, rfl, rfl, rfl, rfl, rfl, rfl, rfl, rfl, rfl, rfl, rfl, rfl, rfl, rfl, rfl,
    rfl, rfl, rfl, rfl, rfl, rfl, rfl, rfl⟩

@[simp] theorem State.setPred_keeps (p : Fin 8) (ex : Mask) (f : Nat → Bool) :
    (s.setPred p ex f).mem = s.mem ∧ (s.setPred p ex f).memTag = s.memTag ∧ (s.setPred p ex f).poison = s.poison ∧
    (s.setPred p ex f).veils = s.veils ∧ (s.setPred p ex f).hostMem = s.hostMem ∧ (s.setPred p ex f).combine =
    s.combine ∧ (s.setPred p ex f).wrote = s.wrote ∧ (s.setPred p ex f).cores = s.cores ∧ (s.setPred p ex f).benches
    = s.benches ∧ (s.setPred p ex f).dies = s.dies ∧ (s.setPred p ex f).pkg = s.pkg ∧ (s.setPred p ex f).fetched =
    s.fetched ∧ (s.setPred p ex f).cur = s.cur ∧ (s.setPred p ex f).held = s.held ∧ (s.setPred p ex f).toIssue =
    s.toIssue ∧ (s.setPred p ex f).time = s.time ∧ (s.setPred p ex f).epoch = s.epoch ∧ (s.setPred p ex f).marks =
    s.marks ∧ (s.setPred p ex f).opened = s.opened ∧ (s.setPred p ex f).trapped = s.trapped ∧ (s.setPred p ex
    f).resumed = s.resumed ∧ (s.setPred p ex f).opp = s.opp ∧ (s.setPred p ex f).rest = s.rest ∧ (s.setPred p ex
    f).found = s.found ∧ (s.setPred p ex f).lastPart = s.lastPart ∧ (s.setPred p ex f).nextId = s.nextId ∧
    (s.setPred p ex f).agenda = s.agenda ∧ (s.setPred p ex f).inputs = s.inputs ∧ (s.setPred p ex f).sched = s.sched
    ∧ (s.setPred p ex f).freeCtr = s.freeCtr :=
    ⟨rfl, rfl, rfl, rfl, rfl, rfl, rfl, rfl, rfl, rfl, rfl, rfl, rfl, rfl, rfl, rfl, rfl, rfl, rfl, rfl, rfl, rfl,
    rfl, rfl, rfl, rfl, rfl, rfl, rfl, rfl⟩

@[simp] theorem State.push_keeps (q : Nat) (r : Bool) (n : Nat) (m : SMap Word) :
    (s.push q r n m).mem = s.mem ∧ (s.push q r n m).memTag = s.memTag ∧ (s.push q r n m).poison = s.poison ∧ (s.push
    q r n m).veils = s.veils ∧ (s.push q r n m).hostMem = s.hostMem ∧ (s.push q r n m).combine = s.combine ∧ (s.push
    q r n m).wrote = s.wrote ∧ (s.push q r n m).cores = s.cores ∧ (s.push q r n m).benches = s.benches ∧ (s.push q r
    n m).dies = s.dies ∧ (s.push q r n m).pkg = s.pkg ∧ (s.push q r n m).fetched = s.fetched ∧ (s.push q r n m).cur
    = s.cur ∧ (s.push q r n m).held = s.held ∧ (s.push q r n m).toIssue = s.toIssue ∧ (s.push q r n m).time = s.time
    ∧ (s.push q r n m).epoch = s.epoch ∧ (s.push q r n m).marks = s.marks ∧ (s.push q r n m).opened = s.opened ∧
    (s.push q r n m).trapped = s.trapped ∧ (s.push q r n m).resumed = s.resumed ∧ (s.push q r n m).opp = s.opp ∧
    (s.push q r n m).rest = s.rest ∧ (s.push q r n m).found = s.found ∧ (s.push q r n m).lastPart = s.lastPart ∧
    (s.push q r n m).nextId = s.nextId ∧ (s.push q r n m).agenda = s.agenda ∧ (s.push q r n m).inputs = s.inputs ∧
    (s.push q r n m).sched = s.sched ∧ (s.push q r n m).freeCtr = s.freeCtr :=
    ⟨rfl, rfl, rfl, rfl, rfl, rfl, rfl, rfl, rfl, rfl, rfl, rfl, rfl, rfl, rfl, rfl, rfl, rfl, rfl, rfl, rfl, rfl,
    rfl, rfl, rfl, rfl, rfl, rfl, rfl, rfl⟩

/-! ## Reading after an update -/

theorem StreamId.ext_iff' {a b : StreamId} : a = b ↔ a.team = b.team ∧ a.grp = b.grp ∧ a.x = b.x := by
  cases a; cases b; simp

variable {s}

theorem State.team_setTeam (t t' : Nat) (x : Team) :
    (s.setTeam t x).team t' = if t' = t then x else s.team t' := SMap.get_set ..

theorem State.team_modTeam (t t' : Nat) (f : Team → Team) :
    (s.modTeam t f).team t' = if t' = t then f (s.team t) else s.team t' := State.team_setTeam ..

theorem Team.group_setGroup (t : Team) (g g' : Nat) (x : Group) :
    (t.setGroup g x).group g' = if g' = g then x else t.group g' := SMap.get_set ..

theorem State.group_setTeam (t t' g : Nat) (x : Team) :
    (s.setTeam t x).group t' g = if t' = t then x.group g else s.group t' g := by
  simp only [State.group, State.team_setTeam]; split <;> rfl

theorem State.group_setGroup (t g t' g' : Nat) (x : Group) :
    (s.setGroup t g x).group t' g' = if t' = t ∧ g' = g then x else s.group t' g' := by
  rw [State.setGroup, State.group_setTeam]
  by_cases ht : t' = t
  · subst ht; simp only [if_true, true_and, Team.group_setGroup, State.group]
  · simp [ht]

theorem State.group_modGroup (t g t' g' : Nat) (f : Group → Group) :
    (s.modGroup t g f).group t' g' = if t' = t ∧ g' = g then f (s.group t g) else s.group t' g' :=
  State.group_setGroup ..

theorem Group.stream_setStream (g : Group) (x x' : Bool) (st : Stream) :
    (g.setStream x st).stream x' = if x' = x then st else g.stream x' := by
  cases x <;> cases x' <;> rfl

theorem State.stream_setGroup (t g : Nat) (x : Group) (id : StreamId) :
    (s.setGroup t g x).stream id = if id.team = t ∧ id.grp = g then x.stream id.x else s.stream id := by
  simp only [State.stream, State.group_setGroup]; split <;> rfl

theorem State.stream_modGroup (t g : Nat) (f : Group → Group) (id : StreamId) :
    (s.modGroup t g f).stream id = if id.team = t ∧ id.grp = g then (f (s.group t g)).stream id.x else s.stream id :=
  State.stream_setGroup ..

theorem State.stream_setStream (id id' : StreamId) (st : Stream) :
    (s.setStream id st).stream id' = if id' = id then st else s.stream id' := by
  rw [State.setStream, State.stream_setGroup, Group.stream_setStream]
  by_cases h : id'.team = id.team ∧ id'.grp = id.grp
  · rw [if_pos h]
    by_cases hx : id'.x = id.x
    · rw [if_pos hx, if_pos (StreamId.ext_iff'.2 ⟨h.1, h.2, hx⟩)]
    · rw [if_neg hx, if_neg fun e => hx (by rw [e])]
      simp [State.stream, h.1, h.2]
  · rw [if_neg h, if_neg fun e => h (by rw [e]; exact ⟨rfl, rfl⟩)]

theorem State.stream_modStream (id id' : StreamId) (f : Stream → Stream) :
    (s.modStream id f).stream id' = if id' = id then f (s.stream id) else s.stream id' := State.stream_setStream ..

/-- A team under a change of one of its groups: only its groups differ. -/
theorem State.team_setGroup (t g t' : Nat) (x : Group) :
    (s.setGroup t g x).team t' = if t' = t then (s.team t).setGroup g x else s.team t' := State.team_setTeam ..

theorem State.core_setCore (c c' : CoreId) (x : Core) :
    (s.setCore c x).core c' = if coreKey c' = coreKey c then x else s.core c' := SMap.get_set ..

theorem State.core_modCore (c c' : CoreId) (f : Core → Core) :
    (s.modCore c f).core c' = if coreKey c' = coreKey c then f (s.core c) else s.core c' := State.core_setCore ..

theorem State.bench_setBench (b b' : Nat) (x : Bench) :
    (s.setBench b x).bench b' = if b' = b then x else s.bench b' := SMap.get_set ..

theorem State.die_setDie (d d' : Nat) (x : Die) :
    (s.setDie d x).die d' = if d' = d then x else s.die d' := SMap.get_set ..

/-! ### The issuing stream -/

@[simp] theorem Cursor.id_team (c : Cursor) : c.id.team = c.team := rfl
@[simp] theorem Cursor.id_grp (c : Cursor) : c.id.grp = c.grp := rfl
@[simp] theorem Cursor.id_x (c : Cursor) : c.id.x = c.x := rfl

@[simp] theorem State.here_modHere (f : Stream → Stream) : (s.modHere f).here = f s.here := by
  simp [State.here, State.modHere, State.stream_modStream]

@[simp] theorem State.myGroup_modMyGroup (f : Group → Group) : (s.modMyGroup f).myGroup = f s.myGroup := by
  simp [State.myGroup, State.modMyGroup, State.group_modGroup]

@[simp] theorem State.here_modMyGroup (f : Group → Group) : (s.modMyGroup f).here = (f s.myGroup).stream s.cur.x := by
  simp [State.here, State.modMyGroup, State.stream_modGroup, State.myGroup]

@[simp] theorem State.myGroup_modHere (f : Stream → Stream) :
    (s.modHere f).myGroup = s.myGroup.setStream s.cur.x (f s.here) := by
  simp [State.myGroup, State.modHere, State.modStream, State.setStream, State.group_setGroup, State.here]

theorem State.here_eq : s.here = s.myGroup.stream s.cur.x := rfl

@[simp] theorem State.here_modMyTeam (f : Team → Team) :
    (s.modMyTeam f).here = ((f s.myTeam).group s.cur.grp).stream s.cur.x := by
  simp [State.here, State.modMyTeam, State.modTeam, State.stream, State.group_setTeam, State.myTeam]

end Sys2Proof.Machine
end

