-- ==== Sys2Proof/Laws/Issue.lean ====
section
/-!
SUPPORT. What an issue comes to, said once: an admitted instruction runs its own effect, and the whole of what it changes
when that effect writes registers.
-/

namespace Sys2Proof.Machine

/-! ## Admitted instructions run -/

/-- An admitted instruction runs its effect. -/
theorem issue_admits {u : Info} {s : State} {body : Ctx → State → Act} (h : u.admits s = true) :
    issue u body s = .next (s.runAct u (s.ctx u.g) body) := by
  simp only [Info.admits, Bool.and_eq_true, Bool.not_eq_true', bne_iff_ne, ne_eq, Option.isNone_iff_eq_none] at h
  obtain ⟨⟨⟨⟨⟨⟨⟨⟨h1, h2⟩, h3⟩, h4⟩, h5⟩, h6⟩, h7⟩, h8⟩, h9⟩ := h
  have h9' : s.pcMatch ⟨s.cur.id, s.cur.pc, s.cur.lanes, s.here.guarded u.g s.cur.lanes⟩ = none := h9
  have h0 : ¬ (s.here.live = false ∨ s.cur.lanes = 0) := by
    rintro (e | e)
    · rw [h1] at e; cases e
    · exact h2 e
  simp only [issue, h0, if_false, h3, h4, h5, h6, Bool.false_eq_true, h8, Bool.not_true]
  rcases hp : u.path with _ | p
  · simp only [Bool.false_eq_true, if_false, h9']; rfl
  · rw [hp] at h7
    simp only at h7
    simp only [h7, Bool.false_eq_true, if_false, h9']; rfl

theorem Info.admits_of_executes {u : Info} {s : State} (h : u.executes s = true) : u.admits s = true := by
  simp only [Info.executes, Bool.and_eq_true] at h; exact h.1

theorem Info.ex_of_executes {u : Info} {s : State} (h : u.executes s = true) : (s.ctx u.g).ex ≠ 0 := by
  simp only [Info.executes, Bool.and_eq_true, bne_iff_ne] at h; exact h.2

/-- The lanes of an executing instruction run its body. -/
theorem runAct_executes {u : Info} {s : State} {body : Ctx → State → Act} (h : u.executes s = true) :
    s.runAct u (s.ctx u.g) body =
      match body (s.ctx u.g) (s.begun u.uses) with
      | .done t => t.passed u.uses (s.ctx u.g)
      | .jump t => t.inject u.uses (s.ctx u.g).ex
      | .hold => s.hold
      | .park => s.park
      | .wait f => (f s).hold
      | .trap r => s.trapHere r
      | .trapIn t r => t.trapHere r
      | .trapBy f r => (f s).trapHere r
      | .halt r => s.haltGroup (s.ctx u.g).id r false := by
  have hx := Info.ex_of_executes h
  have hc : (u.lanes && (s.ctx u.g).ex == 0) = false := by
    rw [Bool.and_eq_false_iff]; right; simpa using hx
  unfold State.runAct
  simp only [hc, Bool.false_eq_true, if_false]
  rfl

/-- An instruction that does its checks whatever the lanes runs its body even when none executes. -/
theorem runAct_admits {u : Info} {s : State} {body : Ctx → State → Act} (hl : u.lanes = false) :
    s.runAct u (s.ctx u.g) body =
      match body (s.ctx u.g) (s.begun u.uses) with
      | .done t => t.passed u.uses (s.ctx u.g)
      | .jump t => t.inject u.uses (s.ctx u.g).ex
      | .hold => s.hold
      | .park => s.park
      | .wait f => (f s).hold
      | .trap r => s.trapHere r
      | .trapIn t r => t.trapHere r
      | .trapBy f r => (f s).trapHere r
      | .halt r => s.haltGroup (s.ctx u.g).id r false := by
  unfold State.runAct
  simp only [hl, Bool.false_and, Bool.false_eq_true, if_false]
  rfl

theorem issue_done {u : Info} {s t : State} {body : Ctx → State → Act} (h : u.executes s = true)
    (hb : body (s.ctx u.g) (s.begun u.uses) = .done t) : issue u body s = .next (t.passed u.uses (s.ctx u.g)) := by
  rw [issue_admits (Info.admits_of_executes h), runAct_executes h, hb]

theorem issue_jump {u : Info} {s t : State} {body : Ctx → State → Act} (h : u.executes s = true)
    (hb : body (s.ctx u.g) (s.begun u.uses) = .jump t) : issue u body s = .next (t.inject u.uses (s.ctx u.g).ex) := by
  rw [issue_admits (Info.admits_of_executes h), runAct_executes h, hb]

theorem issue_trap {u : Info} {s : State} {body : Ctx → State → Act} {r : TrapRec} (h : u.executes s = true)
    (hb : body (s.ctx u.g) (s.begun u.uses) = .trap r) : issue u body s = .next (s.trapHere r) := by
  rw [issue_admits (Info.admits_of_executes h), runAct_executes h, hb]

theorem issue_trapIn {u : Info} {s t : State} {body : Ctx → State → Act} {r : TrapRec} (h : u.executes s = true)
    (hb : body (s.ctx u.g) (s.begun u.uses) = .trapIn t r) : issue u body s = .next (t.trapHere r) := by
  rw [issue_admits (Info.admits_of_executes h), runAct_executes h, hb]

/-! ## The operands are read in a state that differs in its bookkeeping alone -/

/-- Popping queues changes queues, and the entries that the cursor holds. -/
theorem State.popQueues_spec (us : List Use) (s : State) :
    (s.popQueues us).here = s.here ∧ (s.popQueues us).myGroup.c.shared = s.myGroup.c.shared ∧
    (∀ id, (s.popQueues us).stream id = s.stream id) ∧ (s.popQueues us).mem = s.mem ∧
    (s.popQueues us).memTag = s.memTag ∧ (s.popQueues us).poison = s.poison ∧ (s.popQueues us).hostMem = s.hostMem ∧
    (s.popQueues us).cores = s.cores ∧ (s.popQueues us).dies = s.dies ∧ (s.popQueues us).pkg = s.pkg ∧
    (s.popQueues us).benches = s.benches ∧
    (s.popQueues us).cur.id = s.cur.id ∧ (s.popQueues us).myGroup.dmr = s.myGroup.dmr ∧
    (s.popQueues us).myTeam.st.locks = s.myTeam.st.locks ∧ (s.popQueues us).myTeam.st.bank0 = s.myTeam.st.bank0 ∧
    (s.popQueues us).myTeam.st.bank1 = s.myTeam.st.bank1 ∧ (s.popQueues us).myTeam.coreId = s.myTeam.coreId ∧
    (s.popQueues us).veils = s.veils ∧ (s.popQueues us).time = s.time := by
  unfold State.popQueues
  generalize popsOf us = l
  induction l generalizing s with
  | nil => simp
  | cons q l ih =>
    rw [List.foldl_cons]
    obtain ⟨e1, e2, e3, e4, e5, e6, e7, e8, e9, e10, e11, e12, e13, e14, e15, e16, e17, e18, e19⟩ := ih
      { s.modMyGroup (fun g => g.setQueue q (g.queue q).tail) with
        cur := { s.cur with pop := SMap.set none s.cur.pop q (s.myGroup.queue q).head? } }
    have hs : ∀ id, State.stream
        { s.modMyGroup (fun g => g.setQueue q (g.queue q).tail) with
          cur := { s.cur with pop := SMap.set none s.cur.pop q (s.myGroup.queue q).head? } } id = s.stream id := by
      intro id
      have : State.stream (s.modMyGroup fun g => g.setQueue q (g.queue q).tail) id = s.stream id := by
        rw [State.modMyGroup, State.stream_modGroup]
        split
        · next h => rw [State.stream, h.1, h.2]; rfl
        · rfl
      exact this
    have hg : State.myGroup
        { s.modMyGroup (fun g => g.setQueue q (g.queue q).tail) with
          cur := { s.cur with pop := SMap.set none s.cur.pop q (s.myGroup.queue q).head? } } =
        s.myGroup.setQueue q (s.myGroup.queue q).tail :=
      State.myGroup_modMyGroup (s := s) fun g => g.setQueue q (g.queue q).tail
    have ht : State.myTeam
        { s.modMyGroup (fun g => g.setQueue q (g.queue q).tail) with
          cur := { s.cur with pop := SMap.set none s.cur.pop q (s.myGroup.queue q).head? } } =
        s.myTeam.setGroup s.cur.grp (s.myGroup.setQueue q (s.myGroup.queue q).tail) := by
      show State.team (s.setGroup _ _ _) s.cur.team = _
      rw [State.team_setGroup, if_pos rfl]; rfl
    rw [hg] at e2 e13
    rw [ht] at e14 e15 e16 e17
    refine ⟨e1.trans (hs _), e2, fun id => (e3 id).trans (hs id), e4, e5, e6, e7, e8, e9, e10, e11, e12, e13, e14, e15,
      e16, e17, e18, e19⟩

/-- Counting an issue leaves the issuing stream's registers. -/
theorem State.here_countIssue (s : State) (m : Mask) :
    (s.countIssue m).here = { s.here.spend m with parked := s.here.parkedAfter s.cur.pc } := by
  have pair : ∀ t : State, t.pairIssued.here = t.here := by
    intro t; unfold State.pairIssued; split <;> rfl
  have here := State.here_modHere (s := s) fun st => { st.spend m with parked := st.parkedAfter s.cur.pc }
  unfold State.countIssue
  dsimp only
  split
  · rw [State.here_modMyTeam]
    exact here
  · rw [pair, State.here_modMyTeam]
    exact here

theorem State.here_begun (s : State) (us : List Use) :
    (s.begun us).here = { s.here.spend s.cur.lanes with parked := s.here.parkedAfter s.cur.pc } :=
  (State.popQueues_spec us _).1.trans (State.here_countIssue s s.cur.lanes)

@[simp] theorem State.pred_begun (s : State) (us : List Use) (p : Fin 8) : (s.begun us).here.pred p = s.here.pred p := by
  rw [State.here_begun]; rfl
@[simp] theorem State.vec_begun (s : State) (us : List Use) (r i : Nat) : (s.begun us).here.vec r i = s.here.vec r i := by
  rw [State.here_begun]; rfl
@[simp] theorem State.uni_begun (s : State) (us : List Use) (r : Nat) : (s.begun us).here.uni r = s.here.uni r := by
  rw [State.here_begun]; rfl
@[simp] theorem State.mode_begun (s : State) (us : List Use) : (s.begun us).here.mode = s.here.mode := by
  rw [State.here_begun]; rfl
@[simp] theorem State.amask_begun (s : State) (us : List Use) : (s.begun us).here.amask = s.here.amask := by
  rw [State.here_begun]; rfl
@[simp] theorem State.fstat_begun (s : State) (us : List Use) : (s.begun us).here.fstat = s.here.fstat := by
  rw [State.here_begun]; rfl

end Sys2Proof.Machine
end

