-- ==== Sys2Proof/Laws/Memory.lean ====
section
/-!
SUPPORT. What memory operations do: a byte written reads back, others stay, and both memories keep their canonical form.
-/

namespace Sys2Proof.Machine

/-! ## One memory -/

theorem Memory.read_write (m : Memory) (a a' : Nat) (b : Byte) :
    (m.write a b).read a' = if a' = a then b else m.read a' := by
  by_cases h : a' = a
  · subst h; simp [Memory.read, Memory.write]
  · simp [Memory.read, Memory.write, h, SMap.get_set_ne _ _ h]

theorem Memory.wf_write {m : Memory} (h : m.wf = true) (a : Nat) (b : Byte) : (m.write a b).wf = true := SMap.wf_set h a b

theorem Memory.wf_empty : Memory.wf [] = true := rfl

/-- Two memories in canonical form that read alike are equal. -/
theorem Memory.ext {m m' : Memory} (h : m.wf = true) (h' : m'.wf = true) (e : ∀ a, m.read a = m'.read a) : m = m' :=
  SMap.ext_of_wf h h' e

/-! ## The state's memories -/

theorem reset_memoryForm : memoryForm State.reset := ⟨rfl, rfl⟩

/-- The canonical form is a matter of the two memories alone. -/
theorem memoryForm_congr {s t : State} (h : t.mem = s.mem) (h' : t.hostMem = s.hostMem) (hs : memoryForm s) : memoryForm t := by
  unfold memoryForm; rw [h, h']; exact hs

theorem State.writePa_memoryForm {s : State} (h : memoryForm s) (key a : Nat) (b : Byte) : memoryForm (s.writePa key a b) := by
  unfold State.writePa
  dsimp only
  split
  exacts [h, ⟨Memory.wf_write h.1 _ _, h.2⟩]

theorem State.writeHost_memoryForm {s : State} (h : memoryForm s) (a : Nat) (b : Byte) : memoryForm (s.writeHost a b) :=
  ⟨h.1, Memory.wf_write h.2 _ _⟩

theorem State.writePas_memoryForm (key : Nat) (bs : List Byte) :
    ∀ (s : State) (a : Nat), memoryForm s → memoryForm (s.writePas key a bs) := by
  induction bs with
  | nil => exact fun _ _ h => h
  | cons b bs ih => exact fun s a h => ih _ _ (State.writePa_memoryForm h key a b)

theorem State.writeNat_memoryForm {s : State} (h : memoryForm s) (key a n x : Nat) : memoryForm (s.writeNat key a n x) :=
  State.writePas_memoryForm key _ s a h

theorem State.writeTr_memoryForm {s : State} (h : memoryForm s) (t : Trans) (die va : Nat) (b : Byte) :
    memoryForm (s.writeTr t die va b) := by
  unfold State.writeTr
  split
  · exact State.writeHost_memoryForm h _ _
  · exact State.writePa_memoryForm h _ _ _

theorem State.setPoison_memoryForm {s : State} (h : memoryForm s) (a : Nat) (p : Bool) : memoryForm (s.setPoison a p) :=
  memoryForm_congr rfl rfl h

theorem State.settlePoison_memoryForm {s : State} (h : memoryForm s) (die : Nat) (t : Trans) (bs : Bytes) (bad : Bool) (va : Nat) :
    memoryForm (s.settlePoison die t bs bad va) := by
  unfold State.settlePoison
  split_ifs
  exacts [h, State.setPoison_memoryForm h _ _, State.setPoison_memoryForm h _ _, h]

/-- A fold keeps what each of its steps keeps. -/
theorem memoryForm_foldl {α : Type} (f : State → α → State) (hf : ∀ s a, memoryForm s → memoryForm (f s a)) (l : List α) :
    ∀ s, memoryForm s → memoryForm (l.foldl f s) := by
  induction l with
  | nil => exact fun _ h => h
  | cons a l ih => exact fun s h => ih _ (hf s a h)

theorem State.noteWrite_memoryForm {s : State} (h : memoryForm s) (k : Nat) : memoryForm (s.noteWrite k) := by
  unfold State.noteWrite
  refine memoryForm_foldl _ (fun s a hs => ?_) _ _ ?_
  exacts [memoryForm_congr rfl rfl hs, memoryForm_congr rfl rfl h]

theorem State.putBytes_memoryForm {s : State} (h : memoryForm s) (die : Nat) (tr : Nat → Option Trans) (bs : Bytes)
    (pois : List Nat) : memoryForm (s.putBytes die tr bs pois) := by
  unfold State.putBytes
  refine memoryForm_foldl _ (fun s a hs => ?_) _ _ (memoryForm_foldl _ (fun s a hs => ?_) _ _
    (memoryForm_foldl _ (fun s a hs => ?_) _ _ h))
  all_goals split
  exacts [State.noteWrite_memoryForm hs _, hs, State.settlePoison_memoryForm hs _ _ _ _ _, hs,
    State.writeTr_memoryForm hs _ _ _ _, hs]

end Sys2Proof.Machine
end

