-- ==== Sys2Proof/Laws/Result.lean ====
section
/-!
SUPPORT. The whole of what an instruction on registers does (R41, R59, R103, R108), from the operations that its meaning uses:
a write of a destination, of a pair, of a predicate, a raising of flags.
-/

namespace Sys2Proof.Machine

/-- The state in the middle of an issue: destinations written, no lane moved. -/
structure Effect (s t : State) (ex : Mask) (ws : List (Dst × (Nat → Word))) (ps : List (Fin 8 × (Nat → Bool)))
    (fl : Flags) : Prop extends Leaves s t where
  value : ∀ w ∈ ws, holds t ex w.1 w.2
  vec : ∀ r i, i < 32 → ¬ touches ws ex r i → t.here.vec r i = s.here.vec r i
  uni : ∀ r, (∀ w ∈ ws, ∀ n : Fin 32, w.1 = .s n → n.val ≠ r) → t.here.uni r = s.here.uni r
  predValue : ∀ p ∈ ps, p.1.val ≠ 0 → ∀ i < 32, ex.getLsbD i = true → (t.here.pred p.1).getLsbD i = p.2 i
  pred : ∀ (q : Fin 8) i, i < 32 → (∀ p ∈ ps, p.1 = q → p.1.val = 0 ∨ ex.getLsbD i = false) →
    (t.here.pred q).getLsbD i = (s.here.pred q).getLsbD i
  fstat : t.here.fstat = s.here.fstat ||| fl.setWidth 32
  lpc : t.here.lpc = s.here.lpc
  id : t.cur.id = s.cur.id
  benches : t.benches = s.benches
  dmr : t.myGroup.dmr = s.myGroup.dmr
  coreId : t.myTeam.coreId = s.myTeam.coreId

theorem State.cur_fields {s t : State} (h : t.cur.id = s.cur.id) :
    t.cur.team = s.cur.team ∧ t.cur.grp = s.cur.grp ∧ t.cur.x = s.cur.x :=
  ⟨congrArg StreamId.team h, congrArg StreamId.grp h, congrArg StreamId.x h⟩

theorem State.myTeam_modHere (t : State) (f : Stream → Stream) :
    (t.modHere f).myTeam = t.myTeam.setGroup t.cur.grp (t.myGroup.setStream t.cur.x (f t.here)) :=
  (State.team_setGroup ..).trans (if_pos rfl)

/-- A change of the issuing stream, of nothing but registers of its own. -/
theorem leaves_modHere {s t : State} {f : Stream → Stream} (h : Leaves s t) (hid : t.cur.id = s.cur.id)
    (hf : (f t.here).system = t.here.system) : Leaves s (t.modHere f) where
  system := by rw [State.here_modHere, hf, h.system]
  shared := by
    rw [State.myGroup_modHere, ← h.shared]
    cases hx : t.cur.x <;> rfl
  others := by
    intro id hn
    rw [State.modHere, State.stream_modStream, if_neg (by rw [hid]; exact hn), h.others id hn]
  memory := h.memory
  hostMemory := h.hostMemory
  poison := h.poison
  cores := h.cores
  dies := h.dies
  pkg := h.pkg
  locks := by rw [State.myTeam_modHere]; exact h.locks
  bank0 := by rw [State.myTeam_modHere]; exact h.bank0
  bank1 := by rw [State.myTeam_modHere]; exact h.bank1

theorem State.queue_modHere (t : State) (f : Stream → Stream) (q : Nat) :
    (t.modHere f).myGroup.queue q = t.myGroup.queue q := by
  rw [State.myGroup_modHere]; cases t.cur.x <;> rfl

/-- What a queue's destination holds does not depend on the streams' registers. -/
theorem holds_modHere {t : State} {ex : Mask} {d : Dst} {g : Nat → Word} (f : Stream → Stream)
    (h : holds t ex d g) (hl : (f t.here).live = t.here.live)
    (hv : ∀ n : Fin 192, d = .v n → ∀ i < 32, ex.getLsbD i = true → (f t.here).vec n.val i = t.here.vec n.val i)
    (hu : ∀ n : Fin 32, d = .s n → (f t.here).uni n.val = t.here.uni n.val) : holds (t.modHere f) ex d g := by
  cases d with
  | v n => intro i hi he; rw [State.here_modHere, hv n rfl i hi he]; exact h i hi he
  | s n => show (t.modHere f).here.uni n.val = _; rw [State.here_modHere, hu n rfl]; exact h
  | z => trivial
  | q n =>
    intro hq
    rw [State.queue_modHere]
    refine h ?_
    rw [State.myGroup_modHere, Group.stream_setStream] at hq
    split at hq
    · next e => rw [e]; rw [hl] at hq; exact hq
    · exact hq

theorem Stream.vec_congr {a b : Stream} (hm : a.mode = b.mode) (hv : a.v = b.v) (hb : a.bank = b.bank) (r i : Nat) :
    a.vec r i = b.vec r i := by simp [Stream.vec, Stream.banked, hm, hv, hb]

/-- Counting an issue and popping its queues write no register. -/
theorem effect_begun {s : State} (us : List Use) (h : s.plain = true) (ex : Mask) : Effect s (s.begun us) ex [] [] 0 := by
  simp only [State.plain, Bool.and_eq_true, beq_iff_eq] at h
  have ha := h.1
  let f : Stream → Stream := fun st => { st.spend s.cur.lanes with parked := st.parkedAfter s.cur.pc }
  let again := s.here.resumes s.cur.lanes
  let c1 := { s.modHere f with resumed := again }
  let c2 := c1.modMyTeam fun t => { t with ecount := t.ecount + bit01 (!again) }
  have hc1g : c1.myGroup = s.myGroup.setStream s.cur.x (f s.here) := State.myGroup_modHere (s := s) f
  have hc1t : c1.myTeam = s.myTeam.setGroup s.cur.grp (s.myGroup.setStream s.cur.x (f s.here)) :=
    State.myTeam_modHere (t := s) f
  have hc2 : ∀ t g, c2.group t g = c1.group t g := by
    intro t g
    show State.group (c1.setTeam _ _) t g = _
    rw [State.group_setTeam]
    split
    · next e => rw [e]; rfl
    · rfl
  have hcount : s.countIssue s.cur.lanes = c2 := by
    show (if again then c2 else c2.pairIssued) = c2
    unfold State.pairIssued
    have : c2.myGroup.dmr = .alone := by
      show (c2.group s.cur.team s.cur.grp).dmr = _
      rw [hc2]
      show c1.myGroup.dmr = _
      rw [hc1g]; exact ha
    rw [this]; exact ite_self _
  have L0 : Leaves s (s.modHere f) := leaves_modHere (h := ⟨rfl, rfl, fun _ _ => rfl, fun _ _ => rfl, fun _ => rfl, fun _ => rfl, rfl,
    rfl, rfl, rfl, rfl, rfl⟩) rfl rfl
  have L1 : Leaves s c1 := { L0 with }
  have hhere : c2.here = f s.here := by
    show (c2.group s.cur.team s.cur.grp).stream s.cur.x = _
    rw [hc2]; exact State.here_modHere (s := s) f
  have hgrp : c2.myGroup = c1.myGroup := hc2 _ _
  have hteam : c2.myTeam = { c1.myTeam with ecount := c1.myTeam.ecount + bit01 (!again) } := by
    exact (State.team_modTeam ..).trans (if_pos rfl)
  obtain ⟨e1, e2, e3, e4, e5, e6, e7, e8, e9, e10, e11, e12, e13, e14, e15, e16, e17, e18, e19⟩ := State.popQueues_spec us c2
  unfold State.begun
  rw [hcount]
  have hh : (c2.popQueues us).here = f s.here := e1.trans hhere
  refine {
    system := by rw [hh]; rfl
    shared := by rw [e2, hgrp, L1.shared]
    others := ?_
    memory := ?_, hostMemory := ?_, poison := ?_
    cores := e8, dies := e9, pkg := e10
    locks := ?_, bank0 := ?_, bank1 := ?_
    value := by simp
    vec := ?_, uni := ?_
    predValue := by simp
    pred := ?_, fstat := ?_, lpc := ?_
    id := e12
    benches := e11
    dmr := ?_, coreId := ?_ }
  · intro id hn
    rw [e3]
    show (c2.group id.team id.grp).stream id.x = _
    rw [hc2]
    exact L1.others id hn
  · intro key a
    simp only [State.readPa, State.veilAt, State.keyTag, e4, e5, e10, e18, e19]; rfl
  · intro a
    simp only [State.readHost, e7]; rfl
  · intro a
    simp only [State.poisoned, e6]; rfl
  · rw [e14, hteam]; exact L1.locks
  · rw [e15, hteam]; exact L1.bank0
  · rw [e16, hteam]; exact L1.bank1
  · intro r i _ _; rw [hh]; exact Stream.vec_congr rfl rfl rfl r i
  · intro r _; rw [hh]; rfl
  · intro q i _ _; rw [hh]; rfl
  · rw [hh]; simp [f, Stream.spend]
  · rw [hh]; rfl
  · rw [e13, hgrp, hc1g]; rfl
  · rw [e17, hteam, hc1t]; rfl

/-- A change of registers of the issuing stream. -/
theorem effect_modHere {s t : State} {ex : Mask} {ws : List (Dst × (Nat → Word))} {ps : List (Fin 8 × (Nat → Bool))}
    {fl : Flags} (h : Effect s t ex ws ps fl) (f : Stream → Stream) (ws' : List (Dst × (Nat → Word)))
    (ps' : List (Fin 8 × (Nat → Bool))) (fl' : Flags)
    (hsys : (f t.here).system = t.here.system) (hlpc : (f t.here).lpc = t.here.lpc)
    (hval : ∀ w ∈ ws', holds (t.modHere f) ex w.1 w.2)
    (hvec : ∀ r i, i < 32 → ¬ touches ws' ex r i → (f t.here).vec r i = s.here.vec r i)
    (huni : ∀ r, (∀ w ∈ ws', ∀ n : Fin 32, w.1 = .s n → n.val ≠ r) → (f t.here).uni r = s.here.uni r)
    (hpv : ∀ p ∈ ps', p.1.val ≠ 0 → ∀ i < 32, ex.getLsbD i = true → ((f t.here).pred p.1).getLsbD i = p.2 i)
    (hp : ∀ (q : Fin 8) i, i < 32 → (∀ p ∈ ps', p.1 = q → p.1.val = 0 ∨ ex.getLsbD i = false) →
      ((f t.here).pred q).getLsbD i = (s.here.pred q).getLsbD i)
    (hfl : (f t.here).fstat = s.here.fstat ||| fl'.setWidth 32) : Effect s (t.modHere f) ex ws' ps' fl' where
  toLeaves := leaves_modHere h.toLeaves h.id hsys
  value := hval
  vec := by rw [State.here_modHere]; exact hvec
  uni := by rw [State.here_modHere]; exact huni
  predValue := by rw [State.here_modHere]; exact hpv
  pred := by rw [State.here_modHere]; exact hp
  fstat := by rw [State.here_modHere]; exact hfl
  lpc := by rw [State.here_modHere, hlpc, h.lpc]
  id := h.id
  benches := h.benches
  dmr := by rw [State.myGroup_modHere, ← h.dmr]; rfl
  coreId := by rw [State.myTeam_modHere, ← h.coreId]; rfl

/-- Flags are raised (R103). -/
theorem effect_raise {s t : State} {ex : Mask} {ws : List (Dst × (Nat → Word))} {ps : List (Fin 8 × (Nat → Bool))}
    {fl : Flags} (h : Effect s t ex ws ps fl) (g : Flags) : Effect s (t.raise g) ex ws ps (fl ||| g) :=
  effect_modHere h (fun st => st.raise g) ws ps (fl ||| g) rfl rfl
    (fun w hw => holds_modHere _ (h.value w hw) rfl (fun _ _ _ _ _ => rfl) fun _ _ => rfl)
    h.vec h.uni h.predValue h.pred
    (by show t.here.fstat ||| _ = _; rw [h.fstat]; simp [BitVec.or_assoc])

/-- A predicate is written (R26). -/
theorem effect_setPred {s t : State} {ex : Mask} {ws : List (Dst × (Nat → Word))} {fl : Flags}
    (h : Effect s t ex ws [] fl) (p : Fin 8) (m : Mask) :
    Effect s (t.modHere fun st => st.setPred p ex m) ex ws [(p, fun i => m.getLsbD i)] fl := by
  have same : ∀ st : Stream, st.setPred p ex m = { st with p := (st.setPred p ex m).p } := by
    intro st; unfold Stream.setPred; split <;> rfl
  refine effect_modHere h _ ws _ fl (by rw [same]; rfl) (by rw [same])
    (fun w hw => holds_modHere _ (h.value w hw) (by rw [same]) (fun n _ i _ _ => ?_) fun n _ => ?_)
    (fun r i hi hn => ?_) (fun r hr => ?_) ?_ ?_ (by rw [same]; exact h.fstat)
  · rw [same]; exact Stream.vec_congr rfl rfl rfl _ _
  · rw [same]; rfl
  · rw [same, ← h.vec r i hi hn]; exact Stream.vec_congr rfl rfl rfl _ _
  · rw [same, ← h.uni r hr]; rfl
  · intro q hq h0 i hi he
    simp only [List.mem_singleton] at hq
    subst hq
    rw [Stream.pred_setPred, if_pos ⟨rfl, h0⟩]
    simp only [BitVec.getLsbD_or, BitVec.getLsbD_and, BitVec.getLsbD_not, he]
    simp
  · intro q i hi hq
    rw [Stream.pred_setPred]
    split
    · next e =>
      obtain ⟨rfl, h0⟩ := e
      have he : ex.getLsbD i = false := (hq _ (List.mem_singleton.2 rfl) rfl).resolve_left h0
      rw [← h.pred q i hi (by simp)]
      simp only [BitVec.getLsbD_or, BitVec.getLsbD_and, BitVec.getLsbD_not, he]
      simp [hi]
    · exact h.pred q i hi (by simp)

theorem effect_setPredOf {s t : State} {ex : Mask} {ws : List (Dst × (Nat → Word))} {fl : Flags}
    (h : Effect s t ex ws [] fl) (p : Fin 8) (f : Nat → Bool) : Effect s (t.setPred p ex f) ex ws [(p, f)] fl := by
  have e := effect_setPred h p (maskOf f)
  refine { e with predValue := ?_, pred := ?_ }
  · intro q hq h0 i hi he
    simp only [List.mem_singleton] at hq
    subst hq
    have := e.predValue _ (List.mem_singleton.2 rfl) h0 i hi he
    simp only [maskOf_getLsbD, hi, decide_true, Bool.true_and] at this
    exact this
  · intro q i hi hq
    refine e.pred q i hi ?_
    intro r hr e'
    simp only [List.mem_singleton] at hr
    subst hr
    exact hq (p, f) (List.mem_singleton.2 rfl) e'

/-! ### A destination is written -/

theorem Stream.put_system (st : Stream) (d : Dst) (ex : Mask) (f : Nat → Word) :
    (st.put d ex f).system = st.system ∧ (st.put d ex f).lpc = st.lpc ∧ (st.put d ex f).fstat = st.fstat ∧
    (st.put d ex f).p = st.p ∧ (st.put d ex f).live = st.live := by
  cases d with
  | v n => simp only [Stream.put]; rw [Stream.setVecs_eq]; exact ⟨rfl, rfl, rfl, rfl, rfl⟩
  | s n => simp only [Stream.put]; split <;> exact ⟨rfl, rfl, rfl, rfl, rfl⟩
  | z => exact ⟨rfl, rfl, rfl, rfl, rfl⟩
  | q n => exact ⟨rfl, rfl, rfl, rfl, rfl⟩

theorem Stream.vec_put (st : Stream) (d : Dst) (ex : Mask) (f : Nat → Word) (r : Nat) {i : Nat} (hi : i < 32) :
    (st.put d ex f).vec r i = (match d with
      | .v n => if r = n.val ∧ ex.getLsbD i = true then f i else st.vec r i
      | _ => st.vec r i) := by
  cases d with
  | v n => exact Stream.vec_setVecs st n.val r ex f hi
  | s n =>
    simp only [Stream.put]; split
    · rfl
    · exact Stream.vec_congr rfl rfl rfl _ _
  | z => rfl
  | q n => rfl

theorem Stream.uni_put (st : Stream) (d : Dst) {ex : Mask} (hx : ex ≠ 0) (f : Nat → Word) (r : Nat) :
    (st.put d ex f).uni r = (match d with
      | .s n => if r = n.val then f (low ex) else st.uni r
      | _ => st.uni r) := by
  cases d with
  | v n => simp only [Stream.put]; rw [Stream.setVecs_eq]; rfl
  | s n => simp only [Stream.put, hx, if_false]; exact Stream.uni_setUni ..
  | z => rfl
  | q n => rfl

theorem touches_append {ws ws' : List (Dst × (Nat → Word))} {ex : Mask} {r i : Nat} :
    touches (ws ++ ws') ex r i ↔ touches ws ex r i ∨ touches ws' ex r i := by
  simp [touches, or_and_right, exists_or]

/-- The lanes of a pushed entry. -/
theorem get_pushLanes (ex : Mask) (f : Nat → Word) {i : Nat} (hi : i < 32) :
    SMap.get 0 (pushLanes ex f) i = if ex.getLsbD i = true then f i else 0 := by
  suffices H : ∀ (l : List Nat) (m : SMap Word),
      SMap.get 0 (l.foldl (fun m i => SMap.set 0 m i (f i)) m) i = if i ∈ l then f i else SMap.get 0 m i by
    rw [pushLanes, H]; simp [mem_maskLanes, hi]
  intro l
  induction l with
  | nil => intro m; simp
  | cons a l ih =>
    intro m
    rw [List.foldl_cons, ih, SMap.get_set]
    by_cases hl : i ∈ l
    · simp [hl]
    · by_cases ha : i = a
      · subst ha; simp [hl]
      · simp [hl, ha]

/-- A push changes one queue. -/
theorem effect_push {s t : State} {ex : Mask} {ws : List (Dst × (Nat → Word))} {ps : List (Fin 8 × (Nat → Bool))}
    {fl : Flags} (h : Effect s t ex ws ps fl) (q : Fin 4) (f : Nat → Word) (hws : ∀ w ∈ ws, w.1 ≠ .q q) :
    Effect s (t.push q.val true 0 (pushLanes ex f)) ex (ws ++ [(.q q, f)]) ps fl := by
  let F : Group → Group := fun g => if (g.stream (popSide q.val)).live then
    g.setQueue q.val (g.queue q.val ++ [⟨0, pushLanes ex f, true⟩]) else g
  have hF : ∀ (g : Group) x, (F g).stream x = g.stream x := by intro g x; simp only [F]; split <;> rfl
  have hsh : (F t.myGroup).c.shared = t.myGroup.c.shared := by simp only [F]; split <;> rfl
  have hdm : (F t.myGroup).dmr = t.myGroup.dmr := by simp only [F]; split <;> rfl
  have hg : (t.push q.val true 0 (pushLanes ex f)).myGroup = F t.myGroup := State.myGroup_modMyGroup (s := t) F
  have hh : (t.push q.val true 0 (pushLanes ex f)).here = t.here := by
    rw [State.push, State.here_modMyGroup]; exact hF t.myGroup t.cur.x
  have hst : ∀ id, (t.push q.val true 0 (pushLanes ex f)).stream id = t.stream id := by
    intro id
    rw [State.push, State.modMyGroup, State.stream_modGroup]
    split
    · next e => rw [State.stream, e.1, e.2]; exact hF _ _
    · rfl
  have ht : (t.push q.val true 0 (pushLanes ex f)).myTeam = t.myTeam.setGroup t.cur.grp (F t.myGroup) := by
    show State.team (t.setGroup _ _ _) t.cur.team = _
    rw [State.team_setGroup, if_pos rfl]; rfl
  have hq : ∀ n, n ≠ q.val → (F t.myGroup).queue n = t.myGroup.queue n := by
    intro n hn; simp only [F]; split
    · exact SMap.get_set_ne _ _ hn
    · rfl
  refine {
    system := by rw [hh]; exact h.system
    shared := by rw [hg, hsh]; exact h.shared
    others := fun id hn => (hst id).trans (h.others id hn)
    memory := h.memory, hostMemory := h.hostMemory, poison := h.poison
    cores := h.cores, dies := h.dies, pkg := h.pkg
    locks := by rw [ht]; exact h.locks
    bank0 := by rw [ht]; exact h.bank0
    bank1 := by rw [ht]; exact h.bank1
    value := ?_
    vec := ?_
    uni := ?_
    predValue := by rw [hh]; exact h.predValue
    pred := by rw [hh]; exact h.pred
    fstat := by rw [hh]; exact h.fstat
    lpc := by rw [hh]; exact h.lpc
    id := h.id, benches := h.benches
    dmr := by rw [hg, hdm]; exact h.dmr
    coreId := by rw [ht]; exact h.coreId }
  · intro w hw
    rcases List.mem_append.1 hw with hw | hw
    · have hv := h.value w hw
      have hne := hws w hw
      rcases w with ⟨d, v⟩
      cases d with
      | v n => intro i hi he; rw [hh]; exact hv i hi he
      | s n => show (State.here _).uni n.val = _; rw [hh]; exact hv
      | z => trivial
      | q n =>
        intro hl
        rw [hg] at hl ⊢
        rw [hF] at hl
        rw [hq n.val fun e => hne (by rw [show n = q from Fin.ext e])]
        exact hv hl
    · simp only [List.mem_singleton] at hw
      subst hw
      intro hl
      rw [hg] at hl ⊢
      rw [hF] at hl
      refine ⟨⟨0, pushLanes ex f, true⟩, ?_, rfl, fun i hi => get_pushLanes ex f hi⟩
      simp only [F, hl, if_true]
      rw [Group.setQueue, Group.queue, SMap.get_set_same]
      simp
  · intro r i hi hn
    rw [hh]
    exact h.vec r i hi fun e => hn (touches_append.2 (.inl e))
  · intro r hr
    rw [hh]
    exact h.uni r fun w hw => hr w (List.mem_append_left _ hw)

/-- A 32-bit destination is written (R59), beside destinations of an earlier part of the same instruction. -/
theorem effect_setDst {s t : State} {ex : Mask} {ws : List (Dst × (Nat → Word))} {ps : List (Fin 8 × (Nat → Bool))}
    {fl : Flags} (h : Effect s t ex ws ps fl) (hx : ex ≠ 0) (d : Dst) (f : Nat → Word)
    (hws : ∀ w ∈ ws, w.1 = .z ∨ w.1 ≠ d) : Effect s (t.setDst d ex f) ex (ws ++ [(d, f)]) ps fl := by
  by_cases hq : ∃ q, d = .q q
  · obtain ⟨q, rfl⟩ := hq
    exact effect_push h q f fun w hw => (hws w hw).elim (fun e => by rw [e]; intro k; cases k) id
  · have hd : t.setDst d ex f = t.modHere fun st => st.put d ex f := by
      cases d with
      | q n => exact absurd ⟨n, rfl⟩ hq
      | _ => rfl
    rw [hd]
    obtain ⟨p1, p2, p3, p4, p5⟩ := Stream.put_system t.here d ex f
    refine effect_modHere h _ _ ps fl p1 p2 ?_ ?_ ?_ ?_ ?_ (p3.trans h.fstat)
    · intro w hw'
      rcases List.mem_append.1 hw' with hw | hw
      · refine holds_modHere _ (h.value w hw) p5 (fun n e i hi he => ?_) (fun n e => ?_)
        · rw [Stream.vec_put _ _ _ _ _ hi]
          cases d with
          | v m =>
            simp only
            rw [if_neg]
            rintro ⟨hm, -⟩
            rcases hws w hw with k | k
            · rw [k] at e; cases e
            · exact k (by rw [e, show n = m from Fin.ext hm])
          | _ => rfl
        · rw [Stream.uni_put _ _ hx]
          cases d with
          | s m =>
            simp only
            rw [if_neg]
            intro hm
            rcases hws w hw with k | k
            · rw [k] at e; cases e
            · exact k (by rw [e, show n = m from Fin.ext hm])
          | _ => rfl
      · simp only [List.mem_singleton] at hw
        subst hw
        cases d with
        | v n =>
          intro i hi he
          rw [State.here_modHere, Stream.vec_put _ _ _ _ _ hi]; simp [he]
        | s n =>
          show (State.modHere t _).here.uni n.val = _
          rw [State.here_modHere, Stream.uni_put _ _ hx]; simp
        | z => trivial
        | q n => exact absurd ⟨n, rfl⟩ hq
    · intro r i hi hn
      rw [Stream.vec_put _ _ _ _ _ hi, ← h.vec r i hi fun e => hn (touches_append.2 (.inl e))]
      cases d with
      | v m =>
        simp only
        rw [if_neg]
        rintro ⟨rfl, he⟩
        exact hn (touches_append.2 (.inr ⟨_, List.mem_singleton.2 rfl, m, rfl, rfl, he⟩))
      | _ => rfl
    · intro r hr
      rw [Stream.uni_put _ _ hx, ← h.uni r fun w hw => hr w (List.mem_append_left _ hw)]
      cases d with
      | s m =>
        simp only
        rw [if_neg]
        intro e
        exact hr _ (List.mem_append_right _ (List.mem_singleton.2 rfl)) m rfl e.symm
      | _ => rfl
    · intro p hp h0 i hi he
      rw [← h.predValue p hp h0 i hi he]; simp [Stream.pred, p4]
    · intro q i hi hp
      rw [← h.pred q i hi hp]; simp [Stream.pred, p4]

/-- A pair is written (R23): no queue holds one. -/
theorem effect_setPair {s t : State} {ex : Mask} {ps : List (Fin 8 × (Nat → Bool))} {fl : Flags}
    (h : Effect s t ex [] ps fl) (hx : ex ≠ 0) (d : Dst) (hd : ∀ q, d ≠ .q q) (f : Nat → DWord) :
    Effect s (t.setPair d ex f) ex
      [(d, fun i => (f i).setWidth 32), (dstShift d 1, fun i => (f i).extractLsb' 32 32)] ps fl := by
  have h1 := effect_setDst h hx d (fun i => (f i).setWidth 32) (by simp)
  refine effect_setDst h1 hx (dstShift d 1) (fun i => (f i).extractLsb' 32 32) ?_
  intro w hw
  simp only [List.nil_append, List.mem_singleton] at hw
  subst hw
  cases d with
  | v n =>
    right; intro e
    simp only [dstShift, Dst.v.injEq, Fin.ext_iff, Fin.ofNat] at e
    omega
  | s n =>
    right; intro e
    simp only [dstShift, Dst.s.injEq, Fin.ext_iff, Fin.ofNat] at e
    omega
  | z => exact .inl rfl
  | q n => exact absurd rfl (hd n)

/-! ### The lanes pass on -/

/-- Nothing is injected where no record is armed for the group. -/
theorem inject_plain {s t : State} (hp : s.plain = true) (hb : t.benches = s.benches) (hd : t.myGroup.dmr = s.myGroup.dmr)
    (hc : t.myTeam.coreId = s.myTeam.coreId) (hid : t.cur.id = s.cur.id) (us : List Use) (ex : Mask) : t.inject us ex = t := by
  simp only [State.plain, Bool.and_eq_true, Bool.not_eq_true'] at hp
  have hg : t.cur.grp = s.cur.grp := (State.cur_fields hid).2.1
  have hi : t.injectHere = s.injectHere := by
    simp only [State.injectHere, State.myCore, State.bench, hb, hc, hd, hg]
    rfl
  unfold State.inject
  rw [hi, hp.2]; rfl

/-- The whole of an instruction on registers. -/
theorem result_of_effect {s t : State} {g : Guard} {ws : List (Dst × (Nat → Word))} {ps : List (Fin 8 × (Nat → Bool))}
    {fl : Flags} (hp : s.plain = true) (h : Effect s t (s.ctx g).ex ws ps fl) (us : List Use) :
    Result s (t.passed us (s.ctx g)) (s.ctx g) ws ps fl := by
  unfold State.passed
  rw [inject_plain hp h.benches h.dmr h.coreId h.id]
  have hid : (s.ctx g).id = t.cur.id := h.id.symm
  let f : Stream → Stream := fun st => st.setPcs ((s.ctx g).iss &&& (t.stream (s.ctx g).id).amask) fun i => nextPc (st.pc i)
  have ha : t.advance (s.ctx g).id ((s.ctx g).iss &&& (t.stream (s.ctx g).id).amask) = t.modHere f := by
    rw [State.advance, State.modHere, ← hid]
  rw [ha]
  have hf : ∀ st : Stream, f st = { st with lpc := (f st).lpc } := fun st => Stream.setPcs_eq ..
  have hh : (t.modHere f).here = f t.here := State.here_modHere f
  have hm : t.stream (s.ctx g).id = t.here := by rw [hid]; rfl
  have hma : t.here.amask = s.here.amask := by
    have := h.system
    simp only [Stream.system, Prod.mk.injEq] at this
    exact this.2.1
  refine {
    toLeaves := leaves_modHere h.toLeaves h.id (by rw [hf]; rfl)
    value := fun w hw => holds_modHere _ (h.value w hw) (by rw [hf]) (fun n _ i _ _ => ?_) fun n _ => ?_
    vec := fun r i hi hn => ?_
    uni := fun r hr => ?_
    predValue := fun p hps h0 i hi he => ?_
    pred := fun q i hi hq => ?_
    fstat := ?_
    pc := fun i => ?_ }
  · rw [hf]; exact Stream.vec_congr rfl rfl rfl _ _
  · rw [hf]; rfl
  · rw [hh, hf, ← h.vec r i hi hn]; exact Stream.vec_congr rfl rfl rfl _ _
  · rw [hh, hf, ← h.uni r hr]; rfl
  · rw [hh, hf, ← h.predValue p hps h0 i hi he]; rfl
  · rw [hh, hf, ← h.pred q i hi hq]; rfl
  · rw [hh, hf, ← h.fstat]
  · have hpc : ∀ j, t.here.pc j = s.here.pc j := fun j => by simp [Stream.pc, h.lpc]
    rw [hh]
    show (t.here.setPcs _ _).pc i = _
    rw [Stream.pc_setPcs, hm, hma, hpc]
    simp only [BitVec.getLsbD_and, Bool.and_eq_true]

/-- A pair's destination is no queue in an admitted instruction (R18, R61). -/
theorem noQueue_of_admits {u : Info} {s : State} (h : u.admits s = true) {d : Dst} (hu : Use.dst d 2 ∈ u.uses) (q : Fin 4) :
    d ≠ .q q := by
  rintro rfl
  simp only [Info.admits, Bool.and_eq_true, Option.isNone_iff_eq_none] at h
  have hd := h.1.1.1.1.1.1.2
  unfold State.checkDecode at hd
  simp only at hd
  split at hd
  · cases hd
  · split at hd
    · cases hd
    · next hall =>
      have hall : (u.uses.all fun w => w.ok s.myGroup s.cur.x) = true := by
        revert hall; cases (u.uses.all fun w => w.ok s.myGroup s.cur.x) <;> simp
      have := List.all_eq_true.1 hall _ hu
      simp [Use.ok] at this

/-! ### Whole instructions -/

theorem result_setDst {s : State} {u : Info} (h : u.executes s = true) (hp : s.plain = true) (d : Dst) (f : Nat → Word) :
    Result s (((s.begun u.uses).setDst d (s.ctx u.g).ex f).passed u.uses (s.ctx u.g)) (s.ctx u.g) [(d, f)] [] 0 :=
  result_of_effect hp (effect_setDst (effect_begun u.uses hp _) (Info.ex_of_executes h) d f (by simp)) _

theorem result_setPair {s : State} {u : Info} (h : u.executes s = true) (hp : s.plain = true) (d : Dst)
    (hu : Use.dst d 2 ∈ u.uses) (f : Nat → DWord) :
    Result s (((s.begun u.uses).setPair d (s.ctx u.g).ex f).passed u.uses (s.ctx u.g)) (s.ctx u.g)
      [(d, fun i => (f i).setWidth 32), (dstShift d 1, fun i => (f i).extractLsb' 32 32)] [] 0 :=
  result_of_effect hp (effect_setPair (effect_begun u.uses hp _) (Info.ex_of_executes h) d
    (fun q => noQueue_of_admits (Info.admits_of_executes h) hu q) f) _

theorem result_setRes {s : State} {u : Info} (h : u.executes s = true) (hp : s.plain = true) (d : Dst)
    (f : Nat → Nat × Flags) :
    Result s (((s.begun u.uses).setRes d (s.ctx u.g).ex f).passed u.uses (s.ctx u.g)) (s.ctx u.g)
      [(d, fun i => BitVec.ofNat 32 (f i).1)] [] (orFlags (s.ctx u.g).ex fun i => (f i).2) := by
  have := effect_raise (effect_setDst (effect_begun u.uses hp _) (Info.ex_of_executes h) d
    (fun i => BitVec.ofNat 32 (f i).1) (by simp)) (orFlags (s.ctx u.g).ex fun i => (f i).2)
  have r := result_of_effect hp this u.uses
  rw [show (0 : Flags) ||| _ = _ from BitVec.zero_or] at r
  exact r

theorem result_setRes64 {s : State} {u : Info} (h : u.executes s = true) (hp : s.plain = true) (d : Dst)
    (hu : Use.dst d 2 ∈ u.uses) (f : Nat → Nat × Flags) :
    Result s (((s.begun u.uses).setRes64 d (s.ctx u.g).ex f).passed u.uses (s.ctx u.g)) (s.ctx u.g)
      [(d, fun i => (BitVec.ofNat 64 (f i).1).setWidth 32),
       (dstShift d 1, fun i => (BitVec.ofNat 64 (f i).1).extractLsb' 32 32)] []
      (orFlags (s.ctx u.g).ex fun i => (f i).2) := by
  have := effect_raise (effect_setPair (effect_begun u.uses hp _) (Info.ex_of_executes h) d
    (fun q => noQueue_of_admits (Info.admits_of_executes h) hu q) fun i => BitVec.ofNat 64 (f i).1)
    (orFlags (s.ctx u.g).ex fun i => (f i).2)
  have r := result_of_effect hp this u.uses
  rw [show (0 : Flags) ||| _ = _ from BitVec.zero_or] at r
  exact r

theorem result_setPred {s : State} {u : Info} (hp : s.plain = true) (p : Fin 8) (f : Nat → Bool) :
    Result s (((s.begun u.uses).setPred p (s.ctx u.g).ex f).passed u.uses (s.ctx u.g)) (s.ctx u.g) [] [(p, f)] 0 :=
  result_of_effect hp (effect_setPredOf (effect_begun u.uses hp _) p f) _

end Sys2Proof.Machine
end

