-- ==== Sys2Proof/Tests/Slice0.lean ====
section
/-!
SUPPORT. Tests of the decoder on words laid out by hand from 02 R46-R66, of each check of WellFormed, of worked examples of the
manual, and for each statement with hypotheses a state and operands that meet them together.
-/

open Sys2Proof Sys2Proof.Machine

namespace Sys2Proof.Tests

section
set_option Elab.async false

/-- The guard p0, which every lane passes. -/
def g0 : Guard := ⟨false, 0⟩

/-! ## Decoding -/

/-- The decoder reads the instruction from the word. -/
def reads (p : Nat × Instr) : Bool := decodeTableWord 96 p.1 == some p.2

theorem test_decode_control : [
    (0x000000000000000000000000, (.nop : Instr)),
    (0xFFFFFFFFF300000000109001, (.bra ⟨true, 1⟩ true 3 0x1FFFFFFFFE : Instr)),
    (0x000000000000000400000002, (.brx g0 false (.v 4) : Instr)),
    (0x000000000800000028000003, (.call g0 false (.v 40) 0 1 : Instr)),
    (0x00000000000000C600100004, (.ret g0 true (.s 6) : Instr)),
    (0x000000000000000000001005, (.exit ⟨false, 1⟩ : Instr)),
    (0x000000000000000000000006, (.yield g0 : Instr)),
    (0x0000000B40F0F0E205000107, (.poll g0 .ne true .package (.v 5) ⟨2, .z, 0x40⟩ .z : Instr)),
    (0x0000000000C4F0E205000008, (.lwait g0 (.v 5) 2 (.s 4) : Instr)),
    (0x000000000000000003000009, (.enrol g0 3 : Instr)),
    (0x00000000000000000200000A, (.park g0 2 : Instr)),
    (0x00000000000000000100000B, (.strike g0 1 : Instr)),
    (0x00000000C80000000000000C, (.brk g0 200 : Instr))].all reads = true := by decide

theorem test_decode_integer : [
    (0x000000000000030201100110, (.iadd g0 true true (.v 1) (.v 2) (.v 3) : Instr)),
    (0xFFFFFFFF0000FEC2C1000011, (.isub g0 false false (.s 1) (.s 2) (.imm 0xFFFFFFFF) : Instr)),
    (0x000000000000F5F4F1000012, (.imul g0 false false (.q 0) (.q 3) .lane : Instr)),
    (0x000000000000030201000113, (.imulh g0 true (.v 1) (.v 2) (.v 3) : Instr)),
    (0x000000000004030201000014, (.imad g0 false false (.v 1) (.v 2) (.v 3) (.v 4) : Instr)),
    (0x000000000000030201000015, (.imin g0 false (.v 1) (.v 2) (.v 3) : Instr)),
    (0x000000000000030201000116, (.imax g0 true (.v 1) (.v 2) (.v 3) : Instr)),
    (0x000000000000000201100017, (.iabs g0 true (.v 1) (.v 2) : Instr)),
    (0xFFFFFFFF0000FE0202000118, (.iadd64 g0 true false (.v 2) (.v 2) (.imm 0xFFFFFFFF) : Instr)),
    (0x000000000008070502000019, (.imad64 g0 false false (.v 2) (.v 5) (.v 7) (.v 8) : Instr)),
    (0x000000000000070402000B1A, (.lea g0 true 3 (.v 2) (.v 4) (.v 7) : Instr)),
    (0x00000000000603020100001B, (.sel g0 (.v 1) (.v 2) (.v 3) 6 : Instr)),
    (0x000000040000FE000100021C, (.icmp g0 .lt 1 (.v 0) (.imm 4) : Instr)),
    (0x00000000000003020117001D, (.idiv g0 7 false true (.v 1) (.v 2) (.v 3) : Instr)),
    (0x0000000000000302010F011E, (.irem g0 15 true (.v 1) (.v 2) (.v 3) : Instr))].all reads = true := by decide

theorem test_decode_bits : [
    (0x000000000000030201000020, (.and g0 (.v 1) (.v 2) (.v 3) : Instr)),
    (0x000000000000030201000021, (.or g0 (.v 1) (.v 2) (.v 3) : Instr)),
    (0x000000000000030201000022, (.xor g0 (.v 1) (.v 2) (.v 3) : Instr)),
    (0x000000000000030201000023, (.shl g0 (.v 1) (.v 2) (.v 3) : Instr)),
    (0x000000000000030201000024, (.shr g0 (.v 1) (.v 2) (.v 3) : Instr)),
    (0x000000000000030201000025, (.sar g0 (.v 1) (.v 2) (.v 3) : Instr)),
    (0x000000000000030201000126, (.rot g0 true (.v 1) (.v 2) (.v 3) : Instr)),
    (0x000000000000000201000027, (.popc g0 (.v 1) (.v 2) : Instr)),
    (0x000000000000000201000028, (.clz g0 (.v 1) (.v 2) : Instr)),
    (0x000000000000000201000029, (.brev g0 (.v 1) (.v 2) : Instr)),
    (0x00000000000003020100002A, (.bfe g0 false (.v 1) (.v 2) (.v 3) : Instr)),
    (0x00000000000403020100002B, (.bfi g0 (.v 1) (.v 2) (.v 3) (.v 4) : Instr)),
    (0x00000000000000040200012C, (.mov g0 true (.v 2) (.v 4) : Instr)),
    (0x000000090000FE00BF00002C, (.mov g0 false (.v 191) (.imm 9) : Instr)),
    (0x00000000000003020100032D, (.plop g0 .andn 1 2 3 : Instr)),
    (0x000000FF0000FE000300012E, (.pmov g0 (.set 3 (.imm 0xFF)) : Instr)),
    (0x00000000000000050900002E, (.pmov g0 (.mask (.v 9) 5) : Instr)),
    (0x00000010000000000400002F, (.movsr g0 (.v 4) .clk : Instr)),
    (0x0000001B000000000500002F, (.movsr g0 (.v 5) .gatedepth : Instr))].all reads = true := by decide

theorem test_decode_lanes : [
    (0x000000000000000201000430, (.vote g0 (.count (.v 1)) 2 : Instr)),
    (0x000000000000000203000130, (.vote g0 (.some 3) 2 : Instr)),
    (0x000000010000FE0102000431, (.shfl g0 .rol (.v 2) (.v 1) (.imm 1) : Instr)),
    (0x000000000300000405000832, (.redg g0 .fadd .rd (.v 5) (.v 4) : Instr)),
    (0x000000000002000405000933, (.scan g0 .addx (some 2) .rn (.v 5) (.v 4) : Instr)),
    (0x000000000000000405000433, (.scan g0 .max none .rn (.v 5) (.v 4) : Instr)),
    (0x000000080000FE0000000034, (.part g0 (.imm 8) : Instr)),
    (0xFFFFFF800000FE0405000035, (.matchLanes g0 false (.v 5) (.v 4) (.imm 0xFFFFFF80) : Instr)),
    (0xFFFFFFFF0003FEF506000036, (.compact g0 (.v 6) .lane (.imm 0xFFFFFFFF) 3 : Instr)),
    (0x000000000000C3C228000037, (.regrp g0 (.v 40) (.s 2) (.s 3) : Instr))].all reads = true := by decide

theorem test_decode_floats : [
    (0x000000008400030201000040, (.fadd g0 ⟨.rna, false, false, false, false, true⟩ (.v 1) (.v 2) (.v 3) : Instr)),
    (0x3F8000000800FE0201000041, (.fmul g0 ⟨.rn, true, false, false, false, false⟩ (.v 1) (.v 2) (.imm 0x3F800000) : Instr)),
    (0x000000002104030201000042, (.ffma g0 ⟨.rz, false, false, true, false, false⟩ (.v 1) (.v 2) (.v 3) (.v 4) : Instr)),
    (0x000000001000030201000043, (.fmin g0 ⟨.rn, false, true, false, false, false⟩ (.v 1) (.v 2) (.v 3) : Instr)),
    (0x000000004000030201000044, (.fmax g0 ⟨.rn, false, false, false, true, false⟩ (.v 1) (.v 2) (.v 3) : Instr)),
    (0x000000000000030201000745, (.fcmp g0 .nan ⟨.rn, false, false, false, false, false⟩ 1 (.v 2) (.v 3) : Instr)),
    (0x000000000200000201000046, (.frnd g0 ⟨.ru, false, false, false, false, false⟩ (.v 1) (.v 2) : Instr)),
    (0x000000000000030201000148, (.hadd2 g0 true ⟨.rn, false, false, false, false, false⟩ (.v 1) (.v 2) (.v 3) : Instr)),
    (0x000000000000030201000049, (.hmul2 g0 false ⟨.rn, false, false, false, false, false⟩ (.v 1) (.v 2) (.v 3) : Instr)),
    (0x00000000000403020100004A, (.hfma2 g0 false ⟨.rn, false, false, false, false, false⟩ (.v 1) (.v 2) (.v 3) (.v 4) : Instr)),
    (0x000000000000060402000050, (.dadd g0 ⟨.rn, false, false, false, false, false⟩ (.v 2) (.v 4) (.v 6) : Instr)),
    (0x000000000000060402000051, (.dmul g0 ⟨.rn, false, false, false, false, false⟩ (.v 2) (.v 4) (.v 6) : Instr)),
    (0x000000000008060402000052, (.dfma g0 ⟨.rn, false, false, false, false, false⟩ (.v 2) (.v 4) (.v 6) (.v 8) : Instr)),
    (0x000000000000060402000053, (.dmin g0 ⟨.rn, false, false, false, false, false⟩ (.v 2) (.v 4) (.v 6) : Instr)),
    (0x000000000000060402000054, (.dmax g0 ⟨.rn, false, false, false, false, false⟩ (.v 2) (.v 4) (.v 6) : Instr)),
    (0x000000000000060402000655, (.dcmp g0 .num ⟨.rn, false, false, false, false, false⟩ 2 (.v 4) (.v 6) : Instr)),
    (0x000000000100000201000756, (.fcvt g0 .n32f32 ⟨.rz, false, false, false, false, false⟩ (.v 1) (.v 2) : Instr))].all reads = true := by decide

theorem test_decode_special_functions : [
    (0x000000000000000201000060, (.rcp g0 0 false false (.v 1) (.v 2) : Instr)),
    (0x000000000800000201010061, (.rsq g0 1 true false (.v 1) (.v 2) : Instr)),
    (0x000000004000000201020062, (.sqrt g0 2 false true (.v 1) (.v 2) : Instr)),
    (0x000000004800000201030063, (.ex2 g0 3 true true (.v 1) (.v 2) : Instr)),
    (0x000000000000000201040064, (.lg2 g0 4 false false (.v 1) (.v 2) : Instr)),
    (0x000000000800000201050065, (.sin g0 5 true false (.v 1) (.v 2) : Instr)),
    (0x000000004000000201060066, (.cos g0 6 false true (.v 1) (.v 2) : Instr)),
    (0x000000004800000201070067, (.tanh g0 7 true true (.v 1) (.v 2) : Instr)),
    (0x000000000004030201020068, (.tblev g0 2 (.v 1) (.v 2) (.v 3) (.v 4) : Instr)),
    (0x000000000000000000000069, (.tblsw g0 : Instr)),
    (0x00000000000000040200006A, (.drcp g0 0 false false (.v 2) (.v 4) : Instr)),
    (0x00000000000000040200006B, (.dsqrt g0 0 false false (.v 2) (.v 4) : Instr))].all reads = true := by decide

theorem test_decode_narrow : [
    (0x000A000FFF00030201000170, (.qnt g0 true .sr (.v 1) (.v 2) (.v 3) 4095 : Instr)),
    (0x000000000900030201000071, (.dqnt g0 (.v 1) (.v 2) (.v 3) 9 : Instr)),
    (0x000000000900030201000072, (.bscale g0 (.v 1) (.v 2) (.v 3) 9 : Instr)),
    (0x000000000900000201000173, (.cvtf g0 true .rn (.v 1) (.v 2) 9 : Instr)),
    (0x000000000000000201000074, (.pack6 g0 (.v 1) (.v 2) : Instr)),
    (0x000000000000000201000175, (.unpk6 g0 true (.v 1) (.v 2) : Instr)),
    (0x000000000000000201000076, (.pack4 g0 (.v 1) (.v 2) : Instr)),
    (0x000000000000000201000077, (.unpk4 g0 false (.v 1) (.v 2) : Instr)),
    (0x000000000900030201000078, (.smooth g0 (.v 1) (.v 2) (.v 3) 9 : Instr))].all reads = true := by decide

theorem test_decode_memory : [
    (0x00000000400806E301000280, (.openLine g0 .rw false 1 ⟨3, .v 6, 0x40⟩ (.v 8) : Instr)),
    (0x000000000000F0E700000380, (.openReopen g0 7 : Instr)),
    (0x000000007F0006E301100081, (.opens g0 true 1 ⟨3, .v 6, 127⟩ : Instr)),
    (0x000000000000F0EF00000082, (.close g0 15 : Instr)),
    (0x000000000000F0EE00000085, (.flush g0 14 : Instr)),
    (0x0000000B100007E208030483, (.ld g0 3 .q true .package (.v 8) ⟨2, .v 7, 0x10⟩ : Instr)),
    (0x000000131005F0E200000284, (.st g0 .w true .package ⟨2, .z, 0x10⟩ (.v 5) : Instr)),
    (0x000000000000F0E204000086, (.linfo g0 0 (.v 4) 2 : Instr)),
    (0x000000000000F0E204000387, (.llk g0 0 true (.v 4) ⟨2, .z, 0⟩ : Instr)),
    (0x000000000005F0E200000288, (.sul g0 false ⟨2, .z, 0⟩ (.v 5) : Instr)),
    (0x0000001A8806F00401010889, (.amo g0 1 .cas .acqrel .die (.v 1) ⟨.v 4, .z, 8⟩ (.v 6) : Instr)),
    (0x000000000006F0040000098A, (.red g0 .dadd false .group ⟨.v 4, .z, 0⟩ (.v 6) : Instr)),
    (0x00000000001816140000018B, (.scat g0 .fadd false .group ⟨.v 20, .v 22, 0⟩ (.v 24) : Instr)),
    (0x0000000000C305E1C600018C, (.cmcast g0 (some 6) ⟨1, .v 5, 0⟩ (.s 3) : Instr)),
    (0x000000000005F0E10000008D, (.mst g0 .b false .group ⟨1, .z, 0⟩ (.v 5) : Instr))].all reads = true := by decide

theorem test_decode_ordering : [
    (0x0000C0000000000000000190, (.fence g0 .rel .ls .package : Instr)),
    (0x000102000000000000000290, (.fence g0 .acqrel .cl .system : Instr)),
    (0x00002C800000000000000091, (.xfence g0 .cp .fr .team : Instr)),
    (0x000000000000000000000092, (.afence g0 : Instr)),
    (0x000020000000000000000093, (.bar g0 .team : Instr)),
    (0x0000C0000000000A00000194, (.bara g0 .dadd .package (.v 10) : Instr)),
    (0x000060000000000004000095, (.barw g0 .cluster (.v 4) : Instr)),
    (0x000000000005F0E000000096, (.sbinit g0 ⟨0, .z, 0⟩ (.v 5) : Instr)),
    (0x000000000005F0E000000097, (.sbexp g0 ⟨0, .z, 0⟩ (.v 5) : Instr)),
    (0x000000000005F0E000000098, (.sbarv g0 ⟨0, .z, 0⟩ (.v 5) : Instr)),
    (0x0000000000F0C9E0F0000099, (.sbwait g0 .z ⟨0, .s 9, 0⟩ .z : Instr)),
    (0x000000000000C2C1C300009A, (.cjoin g0 (.s 3) (.s 1) (.s 2) : Instr)),
    (0x00000000000000000000009B, (.cleave g0 : Instr))].all reads = true := by decide

theorem test_decode_engines : [
    (0x00000010000D0C0A000020A0, (.cpy ⟨false, 2⟩ false 1 (.v 10) (.v 12) (.v 13) : Instr)),
    (0x0000007000000000000000A1, (.cpwait g0 7 : Instr)),
    (0x0000000000030002010000A2, (.kick g0 (.v 1) (.v 2) (.v 3) : Instr)),
    (0x0000000009040302010000A3, (.gthr g0 (.v 1) (.v 2) (.v 3) (.v 4) 9 : Instr)),
    (0x0000000009000002010000A4, (.emb g0 (.v 1) (.v 2) 9 : Instr)),
    (0x0000003000000000040100A5, (.cpstBt g0 1 3 (.v 4) : Instr)),
    (0x0000000000000009040001A5, (.cpstTkt g0 0 (.v 4) (.v 9) : Instr))].all reads = true := by decide

theorem test_decode_matrix : [
    (0x0000000001D5D410011000B0, (.mma g0 0 true 0 1 16 20 21 1 : Instr)),
    (0x0000000005D5D42803100AB1, (.mmas g0 0 true 2 .n16 3 40 20 21 5 : Instr)),
    (0x0000000000000000030000B2, (.maccZero g0 0 3 : Instr)),
    (0x0000000000000000030001B2, (.maccInit g0 0 3 : Instr)),
    (0x0000000000000002030002B2, (.maccMov g0 0 3 2 : Instr)),
    (0x00000000000009021E0003B2, (.maccRd g0 0 30 2 (.v 9) : Instr)),
    (0x000000000000091E030004B2, (.maccWr g0 0 3 30 (.v 9) : Instr)),
    (0x00000000000000021E0005B2, (.maccRdst g0 0 30 2 : Instr)),
    (0x000000000000001E030006B2, (.maccWrst g0 0 3 30 : Instr)),
    (0x0000000000000000030007B2, (.maccDecl g0 0 3 : Instr)),
    (0x0000000000000000000000B3, (.mrel g0 : Instr)),
    (0x0000000000000002010400B4, (.smax g0 4 1 2 : Instr)),
    (0x0000000000000002010000B5, (.sexp g0 0 none 1 2 : Instr)),
    (0x0000000007000002010001B5, (.sexp g0 0 (some 7) 1 2 : Instr)),
    (0x0000000000000002010000B6, (.smerge g0 0 1 2 : Instr)),
    (0x0000000000000000070000B7, (.cred g0 0 7 : Instr))].all reads = true := by decide

theorem test_decode_tasks_and_key_values : [
    (0x0000000000000003000000C0, (.tdone g0 (.v 3) : Instr)),
    (0x00000000FF000003000003C1, (.gcond g0 .umax 255 (.v 3) : Instr)),
    (0x0000000006000000000000C2, (.gsig g0 6 : Instr)),
    (0x000000000014F0E4011000D0, (.kvopen g0 false true 1 4 (.v 20) : Instr)),
    (0x0000000005C7C6C5040000D1, (.kvfill g0 (.v 4) (.s 5) (.s 6) (.s 7) 5 : Instr)),
    (0x0100000000000E0C080000D2, (.kvmap g0 0 8 (.v 12) (.v 14) : Instr)),
    (0x0100000000000E0C080000D3, (.kvfork g0 0 8 (.v 12) (.v 14) : Instr)),
    (0x010000000000000C080200D4, (.kvdrop g0 2 8 (.v 12) : Instr))].all reads = true := by decide

theorem test_decode_system : [
    (0x0000000009000000C90010E0, (.gcall ⟨false, 1⟩ (.s 9) 9 : Instr)),
    (0x01000000000000F0000000E1, (.gret g0 .z : Instr)),
    (0x0000000007000000000000E2, (.trap g0 7 : Instr)),
    (0x0100000000000000001000E3, (.eret g0 true : Instr)),
    (0x01000019000000C4000000E4, (.setsr g0 .kvroot (.s 4) : Instr)),
    (0x0000001200000004000000E4, (.setsr g0 .fstat (.v 4) : Instr)),
    (0x0100001300000004000000E4, (.setsrAmask g0 (.v 4) : Instr)),
    (0x0100001400000004000000E4, (.setsrLpc g0 (.v 4) : Instr)),
    (0x0000000000000000C30000E5, (.dmrbeg g0 (.s 3) : Instr)),
    (0x0000000000000000000000E6, (.dmrend g0 : Instr)),
    (0x0000030000000000000000E7, (.rgn g0 3 : Instr)),
    (0x0100000000000000000000E8, (.halt g0 : Instr)),
    (0x010000000000C4C2000001E9, (.tlbinv g0 (.page (.s 2) (.s 4)) : Instr)),
    (0x0100000000000000000002E9, (.tlbinv g0 .all : Instr)),
    (0x010000000000C4C2000000EA, (.recall g0 (.va (.s 2) (.s 4)) : Instr))].all reads = true := by decide

/-! ## Every check of WellFormed refuses an ill-formed term -/

/-- Refused by `wf`. -/
def bad (l : List Instr) : Bool := l.all fun i => !WellFormed.wf i

theorem test_wf_guard : bad [.exit ⟨true, 0⟩] = true := by decide
theorem test_wf_sources : bad [
    .iadd g0 false false (.v 1) (.imm 3) (.v 2), .imad g0 false false (.v 1) (.v 2) (.v 3) (.imm 1), .tdone g0 .lane,
    .gcond g0 .set 0 (.q 0), .shfl g0 .pick (.v 1) .lane (.v 2), .pack6 g0 (.v 1) (.q 0), .compact g0 (.v 1) (.q 1) .z 1,
    .bscale g0 (.v 1) (.q 0) (.v 2) 1, .smooth g0 (.v 1) (.q 0) (.v 2) 1, .matchLanes g0 false (.v 1) (.q 0) .z, .gret g0 .lane] =
    true := by decide
theorem test_wf_pairs : bad [
    .brx g0 false (.v 3), .ret g0 false .lane, .iadd64 g0 false false (.v 3) (.v 2) (.v 4), .iadd64 g0 false false (.v 2) (.v 5) (.v 4),
    .iadd64 g0 false false (.v 2) (.v 4) (.s 5), .lea g0 false 0 (.q 0) (.v 2) .z, .matchLanes g0 true (.v 1) (.v 3) .z,
    .mov g0 true (.v 1) (.v 2), .movsr g0 (.v 1) .clk, .setsr g0 .kvroot (.v 5), .dsqrt g0 0 false false (.v 1) (.v 2),
    .kvopen g0 false false 1 0 (.v 3), .cpy g0 false 0 (.q 0) .z .z, .barw g0 .team (.v 1), .amo g0 0 .dadd .relaxed .group (.v 3) ⟨.v 2, .z, 0⟩ (.v 4)] =
    true := by decide
theorem test_wf_quadruples : bad [
    .linfo g0 0 (.v 2) 1, .ld g0 0 .q false .group (.q 0) ⟨0, .z, 0⟩, .st g0 .q false .group ⟨0, .z, 0⟩ (.v 6), .cpstBt g0 0 0 .z,
    .kvmap g0 0 6 (.v 2) (.v 4)] = true := by decide
theorem test_wf_destinations : bad [
    .lwait g0 (.q 0) 1 .z, .poll g0 .eq false .group .z ⟨0, .z, 0⟩ .z, .kick g0 (.q 1) (.v 1) (.v 2), .gcall g0 (.v 1) 3, .dmrbeg g0 (.q 0),
    .regrp g0 (.s 1) (.s 2) (.s 3)] = true := by decide
theorem test_wf_uniform : bad [.regrp g0 (.v 1) (.v 2) (.s 3), .lwait g0 (.v 1) 1 (.v 2), .part g0 (.v 1)] = true := by decide
theorem test_wf_modes : bad [
    .fadd g0 ⟨.sr, false, false, false, false, false⟩ (.v 1) (.v 2) (.v 3), .fadd g0 ⟨.rn, false, false, true, false, false⟩ (.v 1) (.v 2) (.v 3),
    .fmin g0 ⟨.rz, false, false, false, false, false⟩ (.v 1) (.v 2) (.v 3), .fmin g0 ⟨.rn, false, false, false, false, true⟩ (.v 1) (.v 2) (.v 3),
    .frnd g0 ⟨.rn, false, true, false, false, false⟩ (.v 1) (.v 2), .redg g0 .add .rz (.v 1) (.v 2), .scan g0 .max none .ru (.v 1) (.v 2)] = true := by decide
theorem test_wf_conversions : bad [
    .fcvt g0 .f64f32 ⟨.rz, false, false, false, false, false⟩ (.v 2) (.v 4), .fcvt g0 .i32f32 ⟨.rn, false, false, false, false, true⟩ (.v 1) (.v 2),
    .fcvt g0 .f32i32 ⟨.rn, true, false, false, false, false⟩ (.v 1) (.v 2), .fcvt g0 .f64f32 ⟨.rn, false, false, false, false, false⟩ (.v 1) (.v 2),
    .fcvt g0 .f32f64 ⟨.rn, false, false, false, false, false⟩ (.v 1) (.v 3)] = true := by decide
theorem test_wf_memory : bad [
    .st g0 .w false .team ⟨0, .z, 0⟩ (.v 1), .ld g0 0 .w false .group (.v 1) ⟨0, .imm 4, 0⟩, .red g0 .add false .group ⟨.v 3, .z, 0⟩ (.v 1),
    .red g0 .cas false .group ⟨.v 2, .z, 0⟩ (.v 4), .scat g0 .cas false .group ⟨.v 2, .z, 0⟩ (.v 4), .amo g0 0 .cas .relaxed .group (.v 1) ⟨.v 2, .z, 0⟩ (.v 5),
    .cmcast g0 (some 3) ⟨0, .z, 0⟩ (.v 1)] = true := by decide
theorem test_wf_ordering : bad [
    .fence g0 .rel .ho .team, .xfence g0 .cp .cp .team, .xfence g0 .ho .cp .team, .bar g0 .group, .bara g0 .none .team (.v 2),
    .bara g0 .dadd .team (.v 3)] = true := by decide
theorem test_wf_remaining : bad [
    .plop g0 .not 1 2 3, .smax g0 0 2 2, .sexp g0 0 none 1 1, .smerge g0 0 3 3, .setsr g0 .grp (.v 1), .setsr g0 .amask (.v 1),
    .tlbinv g0 (.page (.v 1) (.v 3)), .recall g0 (.pa (.v 3)), .sul g0 true ⟨0, .z, 0⟩ (.v 3)] = true := by decide

/-- Words that no instruction has: reserved codes, reserved fields, the guard !p0, a wrong PRIV (R47, R57, R59, R62). -/
theorem test_decode_refuses : [
    0x00000000000000000000000D, 0x00000000000000000000001F, 0x0000000000000000000000FF, 0xFFFFFFFFFFFFFFFFFFFFFFFF,
    0x0000000000000000000000E8, 0x0100000000000000000000E2, 0x000000000000030201008010, 0x00000000000003F601000010,
    0x00000000000003FE01000010, 0x000000000001030201000010, 0x000000000100030201000010, 0x000000000000030201010010,
    0x000000000000030201000210, 0x000000000000030201100020, 0x0000000000FE030201000014, 0x000000000500000000000001,
    0x000000000000FE0400000002, 0x000120000000000000000090, 0x000003000000000000000090, 0x0000010000000000000000E2,
    0x000000000000000000001000, 0x000000000000040302000018, 0x000000000000030201200010].all
    (fun w => decodeTableWord 96 w == none) = true := by decide

/-! ## States and operands that meet the hypotheses of the statements -/

/-- A privileged fused group of 32 lanes at slot 0 of line 0, its instruction at the cursor. -/
def probe : State :=
  { State.reset.setTeam 0 probeTeam with cur := ⟨0, 0, false, 0, BitVec.allOnes 32, 0, []⟩ }

/-- Every instruction of the list executes in a state. -/
def runs (s : State) (us : List Info) : Bool := us.all fun u => u.executes s

/-- The same, and the statement of what is left applies. -/
def runsPlain (s : State) (us : List Info) : Bool := s.plain && runs s us

/-- An instruction of the guard p0 with uses. -/
def inf (us : List Use) : Info := { g := g0, uses := us }
def infX (us : List Use) : Info := { g := g0, cls := .x, uses := us }

theorem witness_IntegerWraps : runsPlain probe [Claims.info1 g0 (.v 127) (.s 31), Claims.info2 g0 .z (.v 0) .lane,
    Claims.info3 g0 (.s 31) (.v 127) .z (.imm 4)] = true := by decide
theorem witness_IntegerSaturates : runsPlain probe [Claims.info1 g0 (.v 127) (.imm 0x80000000), Claims.info2 g0 .z (.v 0) .lane,
    Claims.info3 ⟨true, 1⟩ (.s 31) (.v 127) .z (.imm 4)] = true := by decide
theorem witness_PairsAndDivision : runsPlain probe [inf [d2 (.v 126), u2 (.s 30), u2 (.imm 4)],
    inf [d2 (.v 2), u1 (.v 3), u1 (.v 4), u2 (.v 126)], inf [d2 (.s 0), u2 (.v 0), u1 .lane], inf [d2 .z, u2 .z],
    { inf [d1 (.v 1), u1 (.v 2), u1 .z] with la := some 15 }] = true := by decide
theorem witness_BitsAndFields : runsPlain probe [Claims.info1 g0 (.v 127) (.s 31), Claims.info2 g0 .z (.v 0) (.imm 32),
    Claims.info3 g0 (.s 31) (.v 127) .z (.imm 4), inf [d1 (.v 1), u1 (.v 2), u1 (.v 3), .pin 7]] = true := by decide
theorem witness_PredicateInstructions : runsPlain probe [inf [.pout 7, u1 (.v 127), u1 .lane], inf [.pout 0, .pin 0, .pin 7],
    inf [d1 (.s 31), .pin 7], inf [.pout 1, u1 (.imm 5)]] = true := by decide
theorem witness_ReadSpecialRegister : runsPlain probe [inf [d1 (.v 1)], inf [d2 (.v 2)]] = true ∧
    (sregWide .fstat, sregWide .clk, probe.here.flagsPending) = (false, true, false) := by decide
theorem witness_FloatArithmetic : runsPlain probe [infX [d1 (.v 1), u1 (.v 2), u1 (.imm 0x3F800000)],
    infX [d1 (.v 1), u1 (.v 2), u1 (.v 3), u1 .z], infX [d1 (.v 1), u1 (.v 2)], infX [d2 (.v 0), u2 (.v 126), u2 (.s 30)],
    infX [d2 (.v 0), u2 (.v 126), u2 (.s 30), u2 .z]] = true := by decide
theorem witness_FloatCompare : runsPlain probe [infX [.pout 1, u1 (.v 2), u1 .z], infX [.pout 7, u2 (.v 126), u2 (.s 30)]] = true := by
  decide
theorem witness_Conversions : runsPlain probe [infX [d2 (.v 2), u1 (.v 1)], infX [d1 (.v 2), u2 (.v 4)], infX [d1 (.v 2), u1 (.v 4)]] =
    true ∧ ((cvtTo .f64f32).width, (cvtFrom .f32f64).width, (cvtTo .f32i32).width) = (64, 64, 32) := by decide
theorem witness_SpecialFunctionsAndTable :
    runs probe [{ infX [d1 (.v 1), u1 (.v 2)] with la := some 0 }, { infX [d2 (.v 2), u2 (.v 4)] with la := some 15 },
      { infX [d1 (.v 1), u1 (.v 2), u1 (.v 3), u1 .z] with la := some 3, noCalleeSp := true, path := some .mx },
      { inf [] with noCalleeSp := true }] = true ∧
    Claims.passes (tblPoison (probe.ctx g0) probe fun _ => some 3) := ⟨by decide, fun _ => rfl⟩
theorem witness_VoteAndTiles : runsPlain probe [inf [.pout 1, .pin 2], inf [d1 (.v 1), .pin 7],
    { inf [u1 (.imm 32)] with lanes := false }, { inf [u1 (.imm 3)] with lanes := false }] = true ∧
    (probe.src (.imm 32) 0, probe.src (.imm 2) 0, probe.src (.imm 3) 0) = (32, 2, 3) := by decide
theorem witness_MovesAcrossLanes : runsPlain probe [inf [d1 (.v 1), u1 (.v 2), u1 (.imm 31)], inf [d1 (.v 1), u2 (.v 2), u1 .z],
    inf [d1 (.v 1), u1 (.v 2), u1 .z, .pin 1], inf [d1 (.v 1), u1 (.v 2)], inf [d1 (.v 1), u1 (.v 2), .pin 7]] = true := by decide
theorem witness_Packing : runsPlain probe [infX [d1 (.v 1), u1 (.v 2)]] = true := by decide

/-! ### Checks that pass -/

/-- A table entry is read through a translation that the core holds. -/
theorem entry_holds (c : Ctx) (tid : Nat) (s : State) (t : Trans) (e : Tensor)
    (h1 : (s.group c.id.team c.id.grp).c.ttbase ≠ 0)
    (h2 : (s.translate (s.teamCore c.id.team) .openRead (s.group c.id.team c.id.grp).c.asid
      (tensorAddr (s.group c.id.team c.id.grp).c.ttbase tid) c.iss c.id.grp 0 (2 * c.id.team + bit01 c.id.x) false).1 = .ok t)
    (h2' : (s.translate (s.teamCore c.id.team) .openRead (s.group c.id.team c.id.grp).c.asid
      (tensorAddr (s.group c.id.team c.id.grp).c.ttbase tid) c.iss c.id.grp 0 (2 * c.id.team + bit01 c.id.x) false).2 = s)
    (h3 : Tensor.ofNat (leNat ((List.range 64).map fun i =>
      s.readTr t (s.teamCore c.id.team).die (tensorAddr (s.group c.id.team c.id.grp).c.ttbase tid + i))) = e)
    (h4 : e.bad = false) (h5 : e.space ≠ 1 ∨ (s.group c.id.team c.id.grp).shares = true)
    (h6 : t.host = false := by rfl) : Claims.entry c tid s e s := by
  intro go
  simp only [tensorAt, h1, h2, h2', h3, h4, h6, if_false]
  rcases h5 with h5 | h5 <;> simp [h5]

/-- Targets in lines that are fetched pass where their TGT bits are set. -/
theorem targets_hold (s : State) (c : Ctx) (m : Mask) (f : Nat → DWord) (l : List Nat)
    (h : (l.all fun i => match s.fetchedLine c.id (pcLine (f i)) with | some x => x.tgt (pcSlot (f i)) | none => false) = true) :
    Claims.gives (fun go => s.checkTargets c m f go l) s := by
  intro go
  induction l with
  | nil => rfl
  | cons i l ih =>
    simp only [List.all_cons, Bool.and_eq_true] at h
    simp only [State.checkTargets]
    split
    · exact ih h.2
    · have h1 := h.1
      simp only [State.checkTarget]
      cases hf : s.fetchedLine c.id (pcLine (f i)) with
      | none => simp [hf] at h1
      | some x =>
        simp only [hf] at h1
        simp only [h1, if_true]
        exact ih h.2

/-- A release that every lane has begun and that is complete. -/
theorem released_holds (c : Ctx) (s : State) (done : Nat → State → Bool)
    (h : ((maskLanes c.ex).all fun i => match SMap.get none s.here.relWait i with | some d => done d s | none => false) = true) :
    Claims.released c s done := by
  intro i hi
  have h1 := List.all_eq_true.1 h i hi
  cases hd : SMap.get none s.here.relWait i with
  | none => simp [hd] at h1
  | some d => exact ⟨d, rfl, by simpa [hd] using h1⟩

/-- Scratchpad that is present and not poisoned is read. -/
theorem pad_holds (c : Ctx) (s : State) (l : List (Nat × Nat)) (h1 : spansBeyond (s.team c.id.team).spadSize l = none)
    (h2 : ∀ g ∈ granulesOf l, s.present c.id.team (g / 8) = true ∧ s.spadPoison c.id.team (16 * g) = false) :
    Claims.passes (readPad c s l) := by
  intro go
  have h3 : ((granulesOf l).all fun g => s.present c.id.team (g / 8)) = true := List.all_eq_true.2 fun g hg => (h2 g hg).1
  have h4 : (granulesOf l).find? (fun g => s.spadPoison c.id.team (16 * g)) = none :=
    List.find?_eq_none.2 fun g hg => by simp [(h2 g hg).2]
  simp only [readPad, h1, h3, h4, Bool.not_true, Bool.false_eq_true, if_false]

/-- A translation of the first page, that the core holds. -/
def page0 : Trans := ⟨0, 65536, true, true, false, false, 0⟩
def mapped (s : State) : State := s.tlbPut ⟨0, 0⟩ 0 0 page0

/-- The 64 bytes of a table entry of elements of 4 bits (R92), or of binary32, of one row. -/
def codes4 (blk smode : Nat) : Nat :=
  0x2000 + 325 * 2 ^ 72 + 2 ^ 96 + 4 * 2 ^ 128 + 16 * 2 ^ 160 + (if blk = 0 then 0 else 0x3000 * 2 ^ 224) + blk * 2 ^ 290 +
    3 * 2 ^ 292 + smode * 2 ^ 304
def floats : Nat := 2 ^ 64 + 6 * 2 ^ 68 + 2 ^ 96 + 4 * 2 ^ 128 + 16 * 2 ^ 160

/-- Entries 1 to 3 of a table at 0x1000. -/
def tabled : State :=
  let s := (mapped probe).modMyGroup fun g => { g with c.ttbase := 0x1000 }
  (((s.writeNat 0 0x1040 64 (codes4 0 0)).writeNat 0 0x1080 64 (codes4 2 1)).writeNat 0 0x10C0 64 floats)

theorem witness_NarrowConversions : 
    let q := inf [d1 (.v 1), u1 (.v 2), u1 (.v 0)]
    (runs tabled [{ q with cls := .x }, infX [d1 (.v 1), u1 (.v 2)], { q with cls := .x, path := some .mx }] = true) ∧
    Claims.entry (tabled.ctx g0) 1 (tabled.begun q.uses) (Tensor.ofNat (codes4 0 0)) (tabled.begun q.uses) ∧
    Claims.entry (tabled.ctx g0) 2 (tabled.begun q.uses) (Tensor.ofNat (codes4 2 1)) (tabled.begun q.uses) ∧
    Claims.entry (tabled.ctx g0) 3 (tabled.begun q.uses) (Tensor.ofNat floats) (tabled.begun q.uses) ∧
    (quantEntry (Tensor.ofNat (codes4 0 0)) (.v 0) && cvtfMode (Tensor.ofNat (codes4 0 0)) false .sr &&
      (Tensor.ofNat floats).smooths (Tensor.ofNat (codes4 2 1)).cols) = true ∧
    ((Tensor.ofNat (codes4 2 1)).etype, (Tensor.ofNat (codes4 2 1)).blk, (Tensor.ofNat (codes4 2 1)).smode,
      (Tensor.ofNat (codes4 2 1)).smid, (Tensor.ofNat floats).space) = (0, 2, 1, 3, 1) ∧
    Claims.passes (readPad (tabled.ctx g0) (tabled.begun q.uses) ((Tensor.ofNat floats).spans [(0, 0), (0, 3)])) := by
  refine ⟨by decide +kernel, entry_holds _ _ _ page0 _ (by decide +kernel) (by decide +kernel) rfl (by decide +kernel) (by decide +kernel) (by decide +kernel),
    entry_holds _ _ _ page0 _ (by decide +kernel) (by decide +kernel) rfl (by decide +kernel) (by decide +kernel) (by decide +kernel),
    entry_holds _ _ _ page0 _ (by decide +kernel) (by decide +kernel) rfl (by decide +kernel) (by decide +kernel) (by decide +kernel), by decide +kernel, by decide +kernel, ?_⟩
  exact pad_holds _ _ _ (by decide +kernel) fun _ _ => ⟨rfl, rfl⟩

/-- Lines 0 and 5 are fetched, every TGT bit set. -/
def fetched (s : State) : State :=
  (s.setFetched ⟨0, 0, false⟩ 0 (some (BitVec.allOnes 512))).setFetched ⟨0, 0, false⟩ 5 (some (BitVec.allOnes 512))

theorem witness_Branches :
    let s := fetched probe
    let i : Info := { g := g0, lanes := false }
    let j : Info := { inf [d2 (.v 126)] with lanes := false }
    let k : Info := { inf [u2 (.imm 0x144)] with lanes := false }
    let c := s.ctx g0
    let f := fun _ : Nat => branchPc c.pc 4 5
    let h := fun n => (s.begun k.uses).srcPair (.imm 0x144) n
    runs s [i, j, k] = true ∧ c.ex = c.iss ∧ (∀ n ∈ maskLanes c.ex, f n = f (low c.ex) ∧ pcValid (f n) = true) ∧
    (∀ n ∈ maskLanes c.ex, h n = h (low c.ex) ∧ pcValid (h n) = true) ∧
    Claims.gives (fun go => (s.begun i.uses).checkTargets c c.ex f go (maskLanes c.ex)) (s.begun i.uses) ∧
    Claims.gives (fun go => (s.begun j.uses).checkTargets c c.ex f go (maskLanes c.ex)) (s.begun j.uses) ∧
    Claims.gives (fun go => (s.begun k.uses).checkTargets c c.ex h go (maskLanes c.ex)) (s.begun k.uses) :=
  ⟨by decide +kernel, by decide +kernel, by decide +kernel, by decide +kernel, targets_hold _ _ _ _ _ (by decide +kernel),
    targets_hold _ _ _ _ _ (by decide +kernel), targets_hold _ _ _ _ _ (by decide +kernel)⟩

theorem witness_BranchTraps :
    let s := probe.modHere fun st => st.setVec 2 1 64
    let k := fun a : Src => ({ inf [u2 a] with lanes := false } : Info)
    let c := s.ctx g0
    let f := fun a n => (s.begun (k a).uses).srcPair a n
    runs s [k (.v 2), k (.imm 5)] = true ∧ (∃ n ∈ maskLanes c.ex, f (.v 2) n ≠ f (.v 2) (low c.ex)) ∧
    0 ∈ maskLanes c.ex ∧ pcValid (f (.imm 5) 0) = false ∧ (∀ j ∈ maskLanes c.ex, j < 0 → pcValid (f (.imm 5) j) = true) := by
  decide +kernel

theorem witness_NopChangesNothing : runsPlain probe [{ g := ⟨false, 0⟩ }] = true := by decide

/-- A team of a wave. -/
def waving : State := probe.modMyTeam fun t => { t with wave := true }

theorem witness_LeaveAndRejoin : runs probe [{ g := g0 }, { g := g0, noHandler := true, noCallee := true },
    { inf [.rejoin 3] with level := 1, noHandler := true }] = true ∧
    runs waving [{ inf [u1 (.imm 1)] with noHandler := true, noCallee := true, wave := true }] = true := by decide

/-- A stream in its handler; lanes that run apart from others of the stream. -/
def handling : State := probe.modHere fun st => { st with mode := .handler }
def apart : State := { probe with cur := { probe.cur with lanes := 1 } }

theorem witness_TrapInstructions :
    let u : Info := { g := g0, noHandler := true, lanes := false }
    let e : Info := { g := g0, level := 1, handlerOnly := true, lanes := false, illegal := false }
    (runs probe [{ g := g0 }, u] && runs apart [u] && runs handling [e]) = true ∧ probe.cur.lanes = probe.here.amask ∧
    apart.cur.lanes ≠ apart.here.amask ∧ handling.cur.lanes = handling.here.amask ∧ handling.here.mode = .handler ∧
    probe.here.live = true ∧ probe.here.mode = .normal ∧ probe.checkDecode e = none := by decide

theorem witness_WriteSpecialRegisters :
    let m : Info := { inf [u1 (.imm 1)] with level := 1 }
    let l : Info := { inf [u2 (.imm 0x144)] with level := 1 }
    let c := (fetched probe).ctx g0
    (runs probe [Claims.setsr g0 .fstat (.imm 31), Claims.setsr g0 .tcause (.imm 131071), Claims.setsr g0 .tadr (.v 126),
      Claims.setsr g0 .tlane (.v 127), Claims.setsr g0 .rgncnt .z, Claims.setsr g0 .kvroot (.imm 64), Claims.setsr g0 .asid (.imm 65535),
      m, l] && runs handling [Claims.setsr g0 .tcause .z, Claims.setsr g0 .tadr (.v 126), Claims.setsr g0 .tlane (.v 127), m, l] &&
      runs (fetched probe) [l]) = true ∧
    probe.here.mode = .normal ∧ handling.here.mode ≠ .normal ∧ probe.here.flagsPending = false ∧ probe.myGroup.c.lines = [] ∧
    ((probe.src (.imm 31) 0).toNat, (probe.src (.imm 131071) 0).toNat, (probe.srcPair (.imm 64) 0).toNat,
      (probe.src (.imm 65535) 0).toNat) = (31, 131071, 64, 65535) ∧
    (∀ i ∈ maskLanes c.ex, pcValid (((fetched probe).begun l.uses).srcPair (.imm 0x144) i) = true) ∧
    Claims.gives (fun go => ((fetched probe).begun l.uses).checkTargets c c.ex
      (fun i => ((fetched probe).begun l.uses).srcPair (.imm 0x144) i) go (maskLanes c.ex)) ((fetched probe).begun l.uses) :=
  ⟨by decide +kernel, by decide, by decide, by decide, by decide, by decide +kernel, by decide +kernel,
    targets_hold _ _ _ _ _ (by decide +kernel)⟩

/-- An open register whose accesses are aligned and within its line is accessed (R223). -/
theorem line_holds (c : Ctx) (s : State) (ln : Fin 16) (n : Nat) (o : Nat → Nat) (modes : LineReg → Bool) (park : Bool)
    (h1 : (s.lineAt (s.lineRef c.id ln)).st = .opened) (h2 : modes (s.lineAt (s.lineRef c.id ln)) = true)
    (h3 : (maskOf fun i => c.ex.getLsbD i && o i % n != 0) = 0) (h4 : (maskOf fun i => c.ex.getLsbD i && decide (128 < o i + n)) = 0)
    (h5 : (s.lineAt (s.lineRef c.id ln)).mode ≠ 3 ∨ s.present c.id.team (s.lineAt (s.lineRef c.id ln)).line = true) :
    Claims.line c s ln n o modes park (s.lineRef c.id ln) (s.lineAt (s.lineRef c.id ln)) := by
  rcases h5 with h5 | h5 <;> simp [Claims.line, State.checkLine, h1, h2, h3, h4, h5]

/-- No comparator stops an access of a core without armed comparators. -/
theorem match_holds (s : State) (c : Ctx) (l : LineReg) (n : Nat) (o : Nat → Nat) (rd wr : Bool)
    (h : (s.dataMatch c ((maskLanes c.ex).map fun i => (i, 128 * l.line + o i)) n rd wr).isNone = true) :
    Claims.passes (s.lineMatch c l n o rd wr) := by
  intro go
  simp only [State.lineMatch]
  split
  · rfl
  · rw [Option.isNone_iff_eq_none.1 h]

/-- A line without poison is read. -/
theorem poison_holds (s : State) (c : Ctx) (l : LineReg) (o : Nat → Nat)
    (h : ((maskLanes c.ex).all fun i => !({ s.entry s.myCore l.key with log := (s.entry s.myCore l.key).log ++
      ((s.here.sq.filter fun w => w.line == l.key).map fun w => LWrite.mk' c.id.team c.id.grp s.time w.multi w.bytes) } : Entry).poisonAt
        (o i / 16)) = true) : Claims.passes (s.linePoison c l o) := by
  intro go
  have h2 := List.find?_eq_none (l := maskLanes c.ex) (p := fun i => ({ s.entry s.myCore l.key with log := (s.entry s.myCore l.key).log ++
      ((s.here.sq.filter fun w => w.line == l.key).map fun w => LWrite.mk' c.id.team c.id.grp s.time w.multi w.bytes) } : Entry).poisonAt
        (o i / 16)) |>.2 fun i hi => by have := List.all_eq_true.1 h i hi; simpa using this
  simp only [State.linePoison, h2]

/-- Line registers 0 empty, 1 read, 2 write, 3 read and write, 4 scratchpad line 0, 5 key-value, 6 recalled, 7 opening, 15 a
scratchpad line beyond 32 lanes' words. -/
def reg (st : LState) (mode line key : Nat) : LineReg :=
  ⟨st, mode, line, key, 128 * line, 65536, false, true, 0, BitVec.allOnes 32, false, 0, 0, 0, 1, none⟩
def opened (s : State) : State := s.modMyGroup fun g => { g with c.lines := [(1, reg .opened 0 5 20), (2, reg .opened 1 6 24),
  (3, reg .opened 2 7 28), (4, reg .opened 3 0 1), (5, reg .opened 4 8 34), (6, reg .recalled 2 9 36), (7, reg .opening 2 9 36)] }

/-- An operand B of zero and an offset. -/
def at0 (ln : Fin 16) (off : BitVec 7) : LOp := ⟨ln, .z, off⟩

/-- A key-value space of 512 bytes a row, a page of 64 KiB, every count at its widest, at KVROOT 0x1000. -/
def keyed (s : State) : State :=
  (s.modMyGroup fun g => { g with c.kvroot := 0x1000 }).writeNat 0 0x1000 64 (2 + 512 * 2 ^ 8 + (2 ^ 20 - 1) * 2 ^ 32 + 255 * 2 ^ 52 + 255 * 2 ^ 64)

theorem witness_OpenLines :
    let s := keyed probe
    let o : Info := { inf [.pout 1, u1 .z, u2 (.imm 0x1000), .line 15] with cls := .a, path := some .ls }
    let p : Info := { inf [.pout 1, u1 .z, .line 15] with cls := .a, noCalleeSp := true, path := some .ls }
    let q : Info := { inf [.pout 1, u2 (.imm 8), .line 15] with cls := .a, path := some .ls }
    let ref := (s.begun q.uses).lineRef s.cur.id 15
    runs s [o, p, q] = true ∧ (s.begun o.uses).leaveRoom ref = true ∧ inWindow 0x1000 = false ∧
    ((s.begun o.uses).srcPair (.imm 0x1000) 0).toNat = 0x1000 ∧ (s.begun p.uses).lineOff (at0 15 127) 0 = 127 ∧
    (s.begun p.uses).myTeam.spadSize = 0x180000 ∧ (s.begun q.uses).myGroup.c.kvroot ≠ 0 ∧
    (maskOf fun k => (s.ctx g0).ex.getLsbD k && 127 / 128 == 127 / 128) = (s.ctx g0).ex ∧
    ((((s.begun q.uses).kvDesc (s.begun q.uses).myGroup.c.kvroot).map fun k => k.inRange 8) = some true) := by
  decide +kernel

theorem witness_AccessTraps :
    let s := probe.modHere fun st => (st.setVec 2 1 128)
    let o : Info := { inf [.pout 1, u1 (.v 2), u2 .z, .line 1] with cls := .a, path := some .ls }
    let o' : Info := { inf [.pout 1, u1 .z, u2 (.imm 0x80000000), .line 1] with cls := .a, path := some .ls }
    let p : Info := { inf [.pout 1, u1 (.imm 0x180000), .line 1] with cls := .a, noCalleeSp := true, path := some .ls }
    let q : Info := { inf [.pout 1, u2 .z, .line 1] with cls := .a, path := some .ls }
    let x := opened s
    let c := s.ctx g0
    runs s [o, o', p, q] = true ∧ (∃ k ∈ maskLanes c.ex, (s.begun o.uses).lineOff ⟨1, .v 2, 0⟩ k / 128 ≠
      (s.begun o.uses).lineOff ⟨1, .v 2, 0⟩ 0 / 128) ∧
    2 ^ 56 ≤ ((s.begun o'.uses).srcPair (.imm 0x80000000) 0).toNat ∧
    (s.begun p.uses).myTeam.spadSize ≤ (s.begun p.uses).lineOff ⟨1, .imm 0x180000, 0⟩ 0 / 128 * 128 ∧
    (s.begun q.uses).myGroup.c.kvroot = 0 ∧
    ((x.lineAt (x.lineRef c.id 0)).st, (x.lineAt (x.lineRef c.id 3)).st, (x.lineAt (x.lineRef c.id 6)).st,
      (x.lineAt (x.lineRef c.id 7)).st, c.id.x) = (.empty, .opened, .recalled, .opening, false) ∧
    (maskOf fun i => c.ex.getLsbD i && 1 % 4 != 0) ≠ 0 ∧ (maskOf fun i => c.ex.getLsbD i && decide (128 < 128 + 4)) ≠ 0 ∧
    (maskOf fun i => c.ex.getLsbD i && 124 % 4 != 0) = 0 ∧ (maskOf fun i => c.ex.getLsbD i && decide (128 < 124 + 4)) = 0 ∧
    (maskOf fun i => c.ex.getLsbD i && (decide (2 ^ 56 ≤ 2 ^ 56) || inWindow (2 ^ 56))) ≠ 0 := by
  decide +kernel

theorem witness_LineUpkeep :
    let s := opened probe
    let u : Fin 16 → Info := fun n => { inf [.line n] with cls := .a, path := some .ls }
    let f : Info := { inf [.line 3] with path := some .ls }
    let l : Info := { inf [.dst (.v 124) 4, .line 15] with la := some 15 }
    let st : Fin 16 → LState := fun n => ((s.begun (u n).uses).lineAt ((s.begun (u n).uses).lineRef s.cur.id n)).st
    runs s [u 6, u 7, u 3, u 0, f, l] = true ∧ s.here.mode = .normal ∧ (st 6, st 7, st 3, st 0) = (.recalled, .opening, .opened, .empty) ∧
    (s.begun (u 3).uses).leaveRoom ((s.begun (u 3).uses).lineRef s.cur.id 3) = true := by decide +kernel

/-- Every lane has begun a release at date 5, and a checkpoint of date 6 is safe. -/
def begun (s : State) : State :=
  (s.modHere fun st => { st with relWait := lanes.map fun i => (i, some 5) }).modMyTeam fun t => { t with safe := { t.safe with date := 6 } }

theorem witness_LoadAndStore :
    let s := begun (opened probe)
    let u : Info := { inf [.dst (.v 127) 1, u1 .z, .line 1] with la := some 0, path := some .ls }
    let v : Info := { inf [u1 .z, .src (.v 2) 1, .line 2] with path := some .ls }
    let r := s.begun u.uses
    let q := s.begun v.uses
    let c := s.ctx g0
    let lr := fun n => r.lineAt (r.lineRef c.id n)
    runs s [u, v] = true ∧
    Claims.line c r 1 4 (r.lineOff (at0 1 124)) (fun x => x.mode != 1) true (r.lineRef c.id 1) (lr 1) ∧
    Claims.passes (r.lineMatch c (lr 1) 4 (r.lineOff (at0 1 124)) true false) ∧
    Claims.passes (r.linePoison c (lr 1) (r.lineOff (at0 1 124))) ∧
    Claims.passes ((r.refreshLine c.id.team c.id.grp (lr 1)).getD r |>.linePoison c (lr 1) (r.lineOff (at0 1 124))) ∧
    (runs s [{ v with cls := .a }] && r.myGroup.dmr == .alone && (r.refreshLine c.id.team c.id.grp (lr 1)).isSome &&
      q.journalRoom q.myCore c.id.team 24 && q.lehrTakes q.myCore c.id.team 4) = true ∧
    Claims.released c q (fun d x => x.releaseDone c.id .system d) ∧
    Claims.passes (q.lineMatch c (q.lineAt (q.lineRef c.id 2)) 4 (q.lineOff (at0 2 124)) false true) ∧
    Claims.line c q 2 4 (q.lineOff (at0 2 124)) (fun x => x.mode != 0 && (x.mode != 4 || x.w || x.st == .opening)) true
      (q.lineRef c.id 2) (q.lineAt (q.lineRef c.id 2)) ∧
    Claims.line c q 2 4 (q.lineOff (at0 2 124)) (fun x => x.mode == 1 || x.mode == 2) true
      (q.lineRef c.id 2) (q.lineAt (q.lineRef c.id 2)) ∧
    (let x := opened probe
     runs x [v] = true ∧ (∀ i ∈ maskLanes c.ex, SMap.get none (x.begun v.uses).here.relWait i = none) ∧
     coreOrWider ((x.begun v.uses).scopeOf c.id.team .core) = true) :=
  ⟨by decide +kernel, line_holds _ _ _ _ _ _ _ (by decide +kernel) (by decide +kernel) (by decide +kernel) (by decide +kernel) (by decide +kernel),
    match_holds _ _ _ _ _ _ _ (by decide +kernel), poison_holds _ _ _ _ (by decide +kernel), poison_holds _ _ _ _ (by decide +kernel),
    by decide +kernel, released_holds _ _ _ (by decide +kernel), match_holds _ _ _ _ _ _ _ (by decide +kernel),
    line_holds _ _ _ _ _ _ _ (by decide +kernel) (by decide +kernel) (by decide +kernel) (by decide +kernel) (by decide +kernel),
    line_holds _ _ _ _ _ _ _ (by decide +kernel) (by decide +kernel) (by decide +kernel) (by decide +kernel) (by decide +kernel),
    by decide +kernel⟩

/-- A staging object of two arrivals at offset 0, and one that has failed at offset 16. -/
def staged : State :=
  ((opened probe).putStage 0 0 0 0 (⟨0, 0, 2, 1, 7, false, false, 0, true, 0⟩, false)).putStage 0 0 0 16 (⟨0, 0, 2, 1, 7, true, false, 5, true, 0⟩, false)

theorem witness_LocksAndStaging :
    let s := staged
    let c := s.ctx g0
    let one : Ctx := { c with ex := BitVec.twoPow 32 (low c.ex) }
    let u : Info := { inf [d1 (.v 1), u1 .z, .line 4] with la := some 3, noCalleeSp := true, path := some .ls }
    let v : Info := { inf [u1 .z, u1 (.v 2), .line 4] with noCalleeSp := true, path := some .ls }
    let w : Info := { inf [u1 .z, u1 (.imm 32), .line 4] with noCalleeSp := true, path := some .ls }
    let x : Info := { inf [d1 (.v 1), u1 .z, u1 (.imm 8), .line 4] with noCalleeSp := true, path := some .ls }
    let r := s.begun u.uses
    let lr := r.lineAt (r.lineRef c.id 4)
    let o := r.lineOff (at0 4 120)
    let q := r.takeLocks c.id (bitOf lr o) (maskLanes c.ex)
    runs s [u, v, w, x] = true ∧
    Claims.line c r 4 4 o (fun x => x.mode == 3) false (r.lineRef c.id 4) lr ∧
    Claims.line one r 4 16 (r.lineOff (at0 4 0)) (fun x => x.mode == 3) false (r.lineRef c.id 4) lr ∧
    Claims.line one r 4 16 (r.lineOff (at0 4 112)) (fun x => x.mode == 3) false (r.lineRef c.id 4) lr ∧
    (∀ i ∈ maskLanes c.ex, r.holdsOther c.id (bitOf lr o i) i = false) ∧ (maskOf fun i => q.1.contains i) = 1 ∧
    r.journalRoom r.myCore c.id.team lr.key = true ∧
    ((r.stage 0 0).init, (r.stage 0 0).rsvd, (r.stage 0 0).err, (r.stage 0 0).phase, (r.stage 0 16).err, (r.stage 0 112).init) =
      (true, 0, false, 7, true, false) ∧
    Claims.passes (q.2.linePoison { c with iss := 1, ex := 1 } lr o) :=
  ⟨by decide +kernel, line_holds _ _ _ _ _ _ _ (by decide +kernel) (by decide +kernel) (by decide +kernel) (by decide +kernel) (by decide +kernel),
    line_holds _ _ _ _ _ _ _ (by decide +kernel) (by decide +kernel) (by decide +kernel) (by decide +kernel) (by decide +kernel),
    line_holds _ _ _ _ _ _ _ (by decide +kernel) (by decide +kernel) (by decide +kernel) (by decide +kernel) (by decide +kernel),
    by decide +kernel, by decide +kernel, by decide +kernel, by decide +kernel, poison_holds _ _ _ _ (by decide +kernel)⟩

theorem witness_PollAndWatch :
    let s := opened probe
    let c := s.ctx g0
    let u : Info := { inf [d1 (.v 1), u1 .z, u1 .z, .line 3] with noDmr := true, path := some .ls }
    let v : Info := { inf [d1 (.v 1), u1 (.imm 9), .line 3] with noDmr := true, path := some .ls }
    let r := s.begun u.uses
    let lr := r.lineAt (r.lineRef c.id 3)
    let o := r.lineOff (at0 3 124)
    let t := (r.refreshLine c.id.team c.id.grp lr).getD r
    let n := { r with wrote := SMap.set 0 r.wrote (r.watchKey r.myAsid r.myCore.die lr) 2 }
    (runs s [u, v] && runs n [v]) = true ∧ Claims.line c r 3 4 o (fun x => x.mode != 1) false (r.lineRef c.id 3) lr ∧
    Claims.line c r 3 1 (fun _ => 0) (fun _ => true) false (r.lineRef c.id 3) lr ∧
    Claims.passes (r.lineMatch c lr 4 o true false) ∧ Claims.passes (t.linePoison c lr o) ∧
    (∀ i ∈ maskLanes c.ex, BitVec.ofNat 32 (t.lineNat c.id lr (o i) 4) = t.src .z i) ∧
    r.contentsDate c.id.team lr < SMap.get 0 n.wrote (r.watchKey r.myAsid r.myCore.die lr) ∧
    SMap.get 0 r.wrote (r.watchKey r.myAsid r.myCore.die lr) ≤ r.contentsDate c.id.team lr ∧
    r.watchesFull (r.watchKey r.myAsid r.myCore.die lr) = false :=
  ⟨by decide +kernel, line_holds _ _ _ _ _ _ _ (by decide +kernel) (by decide +kernel) (by decide +kernel) (by decide +kernel) (by decide +kernel),
    line_holds _ _ _ _ _ _ _ (by decide +kernel) (by decide +kernel) (by decide +kernel) (by decide +kernel) (by decide +kernel),
    match_holds _ _ _ _ _ _ _ (by decide +kernel), poison_holds _ _ _ _ (by decide +kernel), by decide +kernel, by decide +kernel,
    by decide +kernel, by decide +kernel⟩

/-- Aligned far addresses below 2^56 and outside the window pass. -/
theorem far_holds (c : Ctx) (n : Nat) (a : Nat → DWord)
    (h1 : (maskOf fun i => c.ex.getLsbD i && (a i).toNat % n != 0) = 0)
    (h2 : (maskOf fun i => c.ex.getLsbD i && (decide (2 ^ 56 ≤ (a i).toNat) || inWindow (a i).toNat)) = 0) :
    Claims.passes (farCheck c n a) := by
  intro go
  simp only [farCheck, h1, h2, ne_eq, not_true_eq_false, if_false]
theorem farMatch_holds (s : State) (c : Ctx) (n : Nat) (a : Nat → DWord)
    (h : (s.dataMatch c ((maskLanes c.ex).map fun i => (i, (a i).toNat)) n true true).isNone = true) : Claims.passes (s.farMatch c n a) := by
  intro go
  simp only [State.farMatch, Option.isNone_iff_eq_none.1 h]

theorem witness_FarOperations :
    let a : AOp := ⟨.imm 0x40000000, .lane, 0⟩
    let s := begun (probe.modHere fun st => { st with p := [(1, 0x10)] })
    let g : Guard := ⟨false, 1⟩
    let c := s.ctx g
    let u : Info := { g := g, uses := [.dst (.v 1) 1, u2 a.a, u1 a.b, .src (.v 2) 1], la := some 1, cls := .a, path := some .fr }
    let v : Info := { g := g, uses := [u2 a.a, u1 a.b, .src (.v 2) 1], cls := .a, path := some .fr }
    let r := s.begun u.uses
    let adr := r.farAddr a
    runsPlain s [u, v] = true ∧ Claims.passes (farCheck c 4 adr) ∧ Claims.passes (r.farMatch c 4 adr) ∧
    r.wordWaits c.id 4 ((maskLanes c.ex).map adr) = false ∧ (r.here.amos, (s.team c.id.team).replay) = ([], []) ∧
    r.lehrTakes r.myCore c.id.team 32 = true ∧
    Claims.released c r (fun d x => x.pathDone c.id .fr .system d [] && (!coreOrWider (x.scopeOf c.id.team .system) || x.safeSince c.id.team d)) :=
  ⟨by decide +kernel, far_holds _ _ _ (by decide +kernel) (by decide +kernel), farMatch_holds _ _ _ _ (by decide +kernel), by decide +kernel,
    by decide +kernel, by decide +kernel, released_holds _ _ _ (by decide +kernel)⟩

theorem witness_Fences : runs probe [{ inf [] with path := some .ls }, { inf [] with path := some .cl }, { inf [] with path := some .fr },
    { inf [] with path := some .cp }, { inf [] with path := some .mx }, { inf [] with path := some .ho }] = true ∧
    (let r := (probe.begun []).drainQueue probe.cur.id
     (r.team 0).pending = none ∧ ((r.drainQueue probe.cur.id).departAll (r.teamCore 0) 0 0).allOut (r.teamCore 0) = true) := by decide +kernel

/-- The group's barrier at a scope has released. -/
def released : State :=
  (probe.modMyGroup fun g => g.setSlot .team (.released 5 false)).modHere fun st => st.setHolds (BitVec.allOnes 32) (some (.barrier .team))

theorem witness_Barriers :
    let us := [barInfo g0 .team [], barInfo g0 .team [u2 (.v 2)], { barInfo g0 .team [d2 (.v 2)] with path := none }]
    (runs probe us && runs released us) = true ∧ ((probe.begun []).team 0).pending = none ∧
    (((probe.begun []).drainQueue probe.cur.id).departAll (probe.teamCore 0) 0 0).allOut (probe.teamCore 0) = true ∧ (probe.begun []).myGroup.slot .team = .clear ∧
    (released.begun []).myGroup.slot .team = .released 5 false ∧
    (released.ctx g0).ex &&& (released.begun []).here.heldFor (.barrier .team) = (released.ctx g0).ex := by decide +kernel

/-- The group's team and a second one, members 0 and 15 of a complete cluster. -/
def clustered (s : State) : State :=
  ((s.modMyTeam fun t => { t with cluster := some (3, 0) }).setTeam 9 { Team.off with live := true, spadSize := 128 }).modBench 0 fun b =>
    { b with clusters := [⟨3, 0, 7, 16, [(0, some 0), (15, some 9)], 16, true⟩] }

theorem witness_Multicast :
    let s := clustered (opened probe)
    let u : Info := { inf [u1 .z, u1 (.imm 0x8001), .line 4, u2 (.s 30)] with cls := .a, noCalleeSp := true, noDmr := true, path := some .cl }
    let r := s.begun u.uses
    let c := s.ctx g0
    let one : Ctx := { c with ex := BitVec.twoPow 32 (low c.ex) }
    (runs s [u] && runs (opened probe) [u]) = true ∧
    Claims.line one r 4 128 (fun _ => 0) (fun x => x.mode == 3) false (r.lineRef c.id 4) (r.lineAt (r.lineRef c.id 4)) ∧
    r.lineOff (at0 4 0) 0 % 128 = 0 ∧ (r.src (.imm 0x8001) 0).toNat < 65536 ∧ castMembers (r.clusterOf c.id.team) 0x8001 = .inr [0, 9] ∧
    castMembers none 0 = .inr [] ∧ (∀ t ∈ [0, 9], 0 < (r.team t).spadSize) ∧ r.lehrTakes r.myCore c.id.team 2 = true :=
  ⟨by decide +kernel, line_holds _ _ _ _ _ _ _ (by decide +kernel) (by decide +kernel) (by decide +kernel) (by decide +kernel) (by decide +kernel),
    by decide +kernel, by decide +kernel, by decide +kernel, by decide +kernel, by decide +kernel, by decide +kernel⟩

/-- The same of one that a handler, a callee and a redundant pair may not issue. -/
def alone (us : List Use) : Info := { inf us with noHandler := true, noCallee := true, noDmr := true }

/-- The group's team has entered a cluster of two that is complete, and one that waits for its second member. -/
def entered : State := (probe.modMyTeam fun t => { t with cluster := some (3, 1) }).modBench 0 fun b =>
  { b with clusters := [⟨3, 0, 7, 2, [(0, some 9), (1, some 0)], 2, true⟩] }
def awaited : State := (begun probe).modBench 0 fun b => { b with clusters := [⟨3, 0, 7, 2, [(0, some 9)], 1, false⟩] }

/-- What REGRP asks of a group. -/
def mayRegroup (r : State) (c : Ctx) : Bool :=
  c.iss == r.here.amask && !r.inSet && decide (64 ≤ r.myGroup.window false) && ([0, 1, 2, 3].all fun k => r.myGroup.signed k == 0 &&
    r.myGroup.enrolled k == 0) && !r.holdsLock c.ex && !r.here.movePending 64

theorem witness_ClustersAndRegrouping :
    let j := fun n : Word => ({ alone [d1 (.v 1), u1 (.imm 7), u1 (.imm n)] with cls := .a, path := some .cl } : Info)
    let l : Info := { alone [] with cls := .a, path := some .cl }
    let s := (probe.modHere fun st => (st.setUni 0 1).setUni 31 64)
    let q := (s.modHere fun st => st.setUni 0 2).modCore ⟨0, 0⟩ fun k => { k with sets := [⟨0, 0, 0, 0, 2, 64, 127, [(9, 0, 1)]⟩] }
    let e := begun entered
    let v := fun s : State => ({ alone [d1 (.v 127), u1 (.s 0), u1 (.s 31)] with illegal := s.myGroup.split, lanes := false } : Info)
    (runs entered [j 2, l] && runs awaited [j 2] && runs probe [j 1, j 17, l] && runs e [l] && runs s [v s] && runs q [v q]) = true ∧
    ((entered.begun []).enteredCluster 0).isSome = true ∧ (awaited.begun []).enteredCluster 0 = none ∧
    (((awaited.begun []).bench 0).forming 0 7).isSome = true ∧ (probe.begun []).clusterOf 0 = none ∧ (e.begun []).clusterOf 0 ≠ none ∧
    (∀ q ∈ ((e.begun []).team 0).st.groups, SMap.get .clear q.2.barriers (scopeCode .cluster) = .clear) ∧
    (e.begun l.uses).recallTakes 0 ((e.begun l.uses).windowRegs 0) = true ∧
    Claims.released (e.ctx g0) (e.begun l.uses) (fun d x => x.releaseDone (e.ctx g0).id .cluster d && !x.writesTo 0 d) ∧
    Claims.released (awaited.ctx g0) (awaited.begun (j 2).uses) (fun d x => x.releaseDone (awaited.ctx g0).id .bench d) ∧
    ([s, q].all fun s => mayRegroup (s.begun []) (s.ctx g0)) = true ∧
    (s.begun []).formingSet = none ∧ (q.begun []).formingSet = some ⟨0, 0, 0, 0, 2, 64, 127, [(9, 0, 1)]⟩ :=
  ⟨by decide +kernel, by decide +kernel, by decide +kernel, by decide +kernel, by decide +kernel, by decide +kernel, by decide +kernel,
    by decide +kernel, released_holds _ _ _ (by decide +kernel), released_holds _ _ _ (by decide +kernel), by decide +kernel, by decide +kernel,
    by decide +kernel⟩

theorem witness_MatrixMultiplySets :
    let u := mmaInfo g0 0 7 127 0 31
    let s := probe.modMyGroup fun g => g.setDecl 3 0xFFFF
    (runs probe [u] && runs s [u]) = true ∧ (probe.ctx g0).ex &&& ~~~(probe.begun u.uses).myGroup.decl 3 = 0 ∧
    (let r := probe.begun u.uses
     (r.accHeld (probe.ctx g0).id (r.mmaAccs (probe.ctx g0).id (.mma g0 0 false 3 7 127 0 31 1)) (some 3) ||
      r.accHeld (probe.ctx g0).id (r.mmaAccs (probe.ctx g0).id (.mmas g0 0 false 3 Sparsity.n8 7 127 0 31 1)) (some 3)) = false) ∧ (probe.begun u.uses).myGroup.c.mma = [] ∧
    (s.ctx g0).ex &&& ~~~(s.begun u.uses).myGroup.decl 3 ≠ 0 := by decide +kernel

theorem witness_AccumulatorMoves :
    let s := probe.modMyGroup fun g => g.setSigned 3 1
    let d := accInfo g0 0 []
    (runs probe [{ g := g0, cls := .x, noHandler := true, path := some .mx }, accInfo g0 15 [.acc 7], accInfo g0 0 [.acc 7, .acc 0],
      accInfo g0 0 [.dst (.v 120) 8, .acc 7, u1 (.s 31)], accInfo g0 0 [.dst (.v 122) 6, .acc 7], accInfo g0 0 [.acc 7, .src (.v 120) 8, u1 .z],
      accInfo g0 0 [.acc 7, .src (.v 122) 6], d] && runs s [d]) = true ∧ (probe.begun []).accHeld (probe.ctx g0).id [7, 0] none = false ∧
    (probe.begun []).myGroup.signed 3 = 0 ∧ (s.begun []).myGroup.signed 3 ≠ 0 := by decide +kernel

theorem witness_RowTriples :
    let u := accInfo g0 0 [.acc 7, .acc 0]
    let v : Info := { inf [.acc 7] with cls := .x, la := some 0, noHandler := true, noCallee := true, noDmr := true, path := some .cl }
    (runs tabled [u] && runs entered [v]) = true ∧ (tabled.begun u.uses).accHeld (tabled.ctx g0).id [7, 0] none = false ∧
    Claims.entry (tabled.ctx g0) 1 (tabled.begun u.uses) (Tensor.ofNat (codes4 0 0)) (tabled.begun u.uses) ∧
    ((Tensor.ofNat (codes4 0 0)).etype, (Tensor.ofNat (codes4 0 0)).blk) = (0, 0) ∧ (entered.begun v.uses).clusterOf 0 ≠ none ∧
    (∀ p ∈ (entered.begun v.uses).here.pend, p.cred = none) ∧ (entered.begun v.uses).lehrTakes ⟨0, 0⟩ 0 1 = true :=
  ⟨by decide +kernel, by decide +kernel, entry_holds _ _ _ page0 _ (by decide +kernel) (by decide +kernel) rfl (by decide +kernel) (by decide +kernel)
    (by decide +kernel), by decide +kernel, by decide +kernel, by decide +kernel, by decide +kernel⟩

theorem witness_CopyEngine :
    let s := probe.modHere fun st => { st with p := [(1, 1)] }
    let g : Guard := ⟨false, 1⟩
    let u := engInfo g [u2 (.v 126), u1 (.imm 0x17FFE0), u1 (.imm 32)]
    let w : Info := { g := g, noCalleeSp := true }
    let r := s.begun u.uses
    runs s [u, w, { inf [.dst (.v 124) 4] with la := some 15, noCalleeSp := true },
      { inf [.dst (.v 124) 4, u1 (.v 2)] with la := some 0, noCalleeSp := true }] = true ∧
    Claims.passes (cpyCheck (s.ctx g) r.myTeam.spadSize (r.srcPair (.v 126)) (fun i => (r.src (.imm 0x17FFE0) i).toNat)
      fun i => (r.src (.imm 32) i).toNat) ∧ r.queueRoom r.myCore 1 = true ∧ r.presentRange 0 0x17FFE0 32 = true ∧
    (let y := (s.begun w.uses).tagAt 0 0 0 7
     (∀ i ∈ maskLanes (s.ctx g).ex, (y.landed - (SMap.get none (s.begun w.uses).here.cpwait i).getD y.issued).toNat < 2 ^ 31) ∧ y.err = false) := by
  refine ⟨by decide +kernel, fun go => ?_, by decide +kernel, by decide +kernel, by decide +kernel⟩
  simp only [cpyCheck]
  rw [if_neg (by decide +kernel), if_neg (by decide +kernel), if_neg (by decide +kernel)]

/-- Extents that are aligned and within the scratchpad pass. -/
theorem extent_holds (c : Ctx) (size : Nat) (al ext : List (Nat × Nat)) (h1 : (al.all fun p => p.1 % p.2 == 0) = true)
    (h2 : (ext.all fun p => decide (p.1 + p.2 ≤ size)) = true) : Claims.passes (extentCheck c size al ext) := by
  intro go
  have h3 : al.find? (fun p => p.1 % p.2 != 0) = none := List.find?_eq_none.2 fun p hp => by simpa using List.all_eq_true.1 h1 p hp
  have h4 : ext.find? (fun p => decide (size < p.1 + p.2)) = none := List.find?_eq_none.2 fun p hp => by
    simpa using List.all_eq_true.1 h2 p hp
  simp only [extentCheck, h3, h4]

/-- Entry 4 of the table names sequence 0 of the key-value space. -/
def kvEntry : Nat := 2 * 2 ^ 64 + 6 * 2 ^ 68 + 64 * 2 ^ 96 + 2 ^ 128
def kvTabled : State := (keyed tabled).writeNat 0 0x1100 64 kvEntry

set_option maxRecDepth 4096 in
theorem witness_EngineCommands :
    let s := kvTabled
    let c := s.ctx g0
    let k := fun n : Word => engInfo g0 [d1 (.v 1), u1 .z, u1 (.imm n)]
    let h := engInfo g0 [d1 (.v 1), u1 .z, u1 .z, u2 (.imm 1)]
    let m := engInfo g0 [d1 (.v 1), u1 .z]
    let f := engInfo g0 [d1 (.v 1), u1 (.imm 0xFFFFC0), u1 .z, u1 .z]
    let e := Tensor.ofNat (codes4 0 0)
    let t := s.begun m.uses
    let raw := t.readNat 0 t.myGroup.c.kvroot.toNat 64
    runs s [k 0, k 64, h, engInfo g0 [d1 (.v 1), u1 .z, u1 .z, u2 (.imm 0)], m, f] = true ∧
    ((t.presentRange 0 0 4096 && t.queueRoom t.myCore 64) = true) ∧ recOk t.myTeam.spadSize (t.spadNat 0 0 64) = true ∧
    ((e.space, e.layout, e.etype) = (0, 0, 0)) ∧
    Claims.entry c 1 (s.begun h.uses) e (s.begun h.uses) ∧ Claims.entry c 1 t e t ∧
    Claims.entry c 4 (s.begun f.uses) (Tensor.ofNat kvEntry) (s.begun f.uses) ∧
    Claims.passes (extentCheck c t.myTeam.spadSize [(0, 4), (0, 16), (0, 16)] [(0, 4), (0, round16 e.rowBytes + e.scaleBytes), (0, 16)]) ∧
    Claims.passes (extentCheck c t.myTeam.spadSize [(0, 64)] [(0, 64)]) ∧ embReserved (t.spadNat 0 0 64) = false ∧
    Claims.passes (extentCheck c t.myTeam.spadSize [(embIdx 0, 4), (embDst 0, 16), (embSb 0, 16)] (embExtents e 0)) ∧
    (Tensor.ofNat kvEntry).space = 2 ∧ 64 ≤ (Tensor.ofNat kvEntry).rows ∧ t.myGroup.c.kvroot ≠ 0 ∧
    ((KvDesc.ofNat raw).map fun k => k.hasSeq (kvCoord 0 0 0 0 0xFFFFC0 0)) = some true ∧ 0xFFFFC0 + 64 ≤ 2 ^ 24 ∧
    Claims.passes (extentCheck c t.myTeam.spadSize [(0, 16), (0, 16)] [(0, 64 * 512), (0, 16)]) := by
  refine ⟨by decide +kernel, by decide +kernel, by decide +kernel, by decide +kernel,
    entry_holds _ _ _ page0 _ (by decide +kernel) (by decide +kernel) rfl (by decide +kernel) (by decide +kernel) (by decide +kernel),
    entry_holds _ _ _ page0 _ (by decide +kernel) (by decide +kernel) rfl (by decide +kernel) (by decide +kernel) (by decide +kernel),
    entry_holds _ _ _ page0 _ (by decide +kernel) (by decide +kernel) rfl (by decide +kernel) (by decide +kernel) (by decide +kernel),
    extent_holds _ _ _ _ (by decide +kernel) (by decide +kernel), extent_holds _ _ _ _ (by decide +kernel) (by decide +kernel), by decide +kernel,
    extent_holds _ _ _ _ (by decide +kernel) (by decide +kernel), by decide +kernel, by decide +kernel, by decide +kernel, by decide +kernel,
    by decide +kernel, extent_holds _ _ _ _ (by decide +kernel) (by decide +kernel)⟩

theorem witness_KeyValueManagement :
    let s := begun probe
    let c := s.ctx g0
    let u : Info := { inf [.dst (.v 124) 4, u2 (.v 2), u2 (.v 4)] with cls := .a, la := some 0, level := 1 }
    let v : Info := { inf [.dst (.v 124) 4, u2 (.v 2)] with cls := .a, la := some 15, level := 1 }
    let r := s.begun u.uses
    let t := r.clearRel c.id c.ex
    runsPlain s [u, v] = true ∧ Claims.released c r (fun dt x => x.allReleased c.id dt) ∧ (s.team c.id.team).replay = [] ∧
    (∀ o ∈ [KvOp.map, .fork, .drop], t.recallTakes c.id.team (t.recalledBy (t.kvLanes o r.myGroup.c.kvroot
      ((maskLanes c.ex).map fun i => (i, r.srcPair (.v 2) i, r.srcPair (.v 4) i))).2) = true) :=
  ⟨by decide +kernel, released_holds _ _ _ (by decide +kernel), by decide +kernel, by decide +kernel⟩

/-- Gate 9 of a table at 0xA000 admits callers of class 0, with an address space whose record lies at 0x8000. -/
def gated : State :=
  ((probe.modPkg fun p => { p with asTable := 0x8000, domTable := 0x9000, gateTable := 0xA000 }).writeNat 0 0x8000 1 1).writeNat 0 0xA240 64
    (2 ^ 156 + 2 ^ 162 + 2 ^ 192 + 2 ^ 256 + 2 ^ 266)
/-- The group runs in a gate that it called. -/
def called : State := probe.modMyGroup fun g =>
  { g with depth := 1, frames := [⟨0, 9, g.c, .s 0, 1, BitVec.allOnes 32, false, 0, false, true, 16, true, 0⟩] }

theorem witness_Gates :
    let u : Info := { inf [d1 (.s 31)] with cls := .a, noHandler := true, noDmr := true, lanes := false, illegal := !gateDst (.s 31) }
    let v := fun w : Word => ({ inf [u1 (.imm w)] with cls := .a, level := 1, callee := true, lanes := false } : Info)
    (runs gated [u] && runs probe [u] && runs called [v 0xFFFFFEFF, v 0xFFFFFF00]) = true ∧ (gated.ctx g0).iss = (gated.begun u.uses).here.amask ∧
    (called.ctx g0).iss = (called.begun (v 0).uses).here.amask ∧
    (probe.begun u.uses).refuseCall 9 = some 0xFFFFFF01 ∧ (gated.begun u.uses).refuseCall 9 = none ∧
    (gated.begun u.uses).callWaits ⟨0, 0, false⟩ = false ∧ (gated.begun u.uses).callWaits ⟨0, 0, true⟩ = false ∧
    (called.begun (v 0).uses).calleeOver 0 0 = true := by decide +kernel

/-- Every core of the bench but the group's holds a team of the largest scratchpad; the bench has eight pairs; the group leads one. -/
def crowded : State := (List.range 15).foldl (fun s k => s.setTeam (k + 1) { Team.off with live := true, core := k + 1, spadSize := 0x180000 }) probe
def pair (id leader trailer : Nat) : Pair := ⟨id, leader, trailer, [], [], [], 0, 0, none, none, 0, 0⟩
def paired : State := probe.modBench 0 fun b => { b with pairs := (List.range 8).map fun k => pair k (20 + k) (40 + k) }
def leading : State :=
  ((((begun probe).setTeam 9 ({ probeTeam with core := 9 } : Team)).modTeam 9 fun t => t.mapCores false fun k => k.modGroup 0 fun g =>
    { g with c.a.relWait := [(128, some 0)] }).modBench 0 fun b => { b with pairs := [pair 3 0 9] }).modMyGroup fun g => { g with dmr := .leader 3 }

theorem witness_RedundancyAndSystem :
    let bad := fun s : State => !gateDst (.s 0) || s.myGroup.split || decide (1 < s.myTeam.st.groups.length) || s.myTeam.cluster.isSome
    let u := fun s : State => ({ alone [d1 (.s 0)] with cls := .a, lanes := false, illegal := bad s } : Info)
    let e : Info := { g := g0, cls := .a, noHandler := true, noCallee := true, dmrOnly := true, lanes := false }
    let x := leading.modHere fun st => { st with relWait := [(128, some 0)] }
    let m := probe.modHere fun st => { st with relWait := [(64, some 0), (96, some 0)] }
    let v := probe.modHere fun st => { st with mode := .save }
    let tl : TlbForm → Info := fun f => { inf (tlbUses f) with cls := .a, level := 2 }
    let rc : List Use → Info := fun us => { inf us with cls := .a, level := 2 }
    (([probe, crowded, paired].all fun s => runs s [u s]) && runs x [e] && runs probe [{ g := g0, level := 1 }] && runs v [{ g := g0, level := 1 }] &&
      runs m [tl .all, tl (.asid (.s 0)), tl (.page (.s 0) (.s 2)), rc [u1 (.s 0), u2 (.s 2)], rc [u2 (.s 30)]]) = true ∧
    ([probe, crowded, paired].all fun s => (s.ctx g0).iss == (s.begun []).here.amask && !(s.begun []).teamCmds 0 &&
      !(s.begun []).here.busy) = true ∧
    (probe.begun []).trailCore 0 ≠ none ∧ (crowded.begun []).trailCore 0 = none ∧ ¬ ((paired.begun []).bench 0).pairs.length < 8 ∧
    (x.ctx g0).iss = (x.begun []).here.amask ∧ (x.begun []).myGroup.dmr = .leader 3 ∧ ((x.begun []).dmrPair 0 0).isSome = true ∧
    SMap.get none (x.begun []).here.relWait (recordMark (x.ctx g0).ex) = some 0 ∧
    (((x.begun []).dmrPair 0 0).map fun q => q.recsL.isEmpty && q.recsT.isEmpty && (x.begun []).trailerAt q) = some true ∧ (probe.begun []).here.mode = .normal ∧
    (∀ b, (probe.begun []).resultsIn ⟨0, 0, b⟩ = true) ∧ (v.begun []).here.mode = .save ∧
    ((m.begun []).tlbWhat .all 0).isSome = true ∧ SMap.get none (m.begun []).here.relWait (waitLo (m.ctx g0).ex) = some 0 ∧
    SMap.get none (m.begun []).here.relWait (waitHi (m.ctx g0).ex) = some 0 ∧ ((m.begun []).departed 0 0 && (m.begun []).unitsOver 0) = true := by
  decide +kernel

def id0 : StreamId := ⟨0, 0, false⟩

/-- The program counters of a stream whose lanes stand at one place. -/
theorem pcs_at (st : Stream) (n : Nat) (h : ((maskLanes st.amask).map fun i => (st.pc i).toNat).eraseDups = [n]) :
    st.pcs = [BitVec.ofNat 64 n] := by simp [Stream.pcs, h]
theorem needs_at (s : State) (id : StreamId) (n : Nat)
    (h1 : (s.teamRuns id.team && s.groupRuns id.team id.grp) = true)
    (h2 : ((maskLanes (s.stream id).amask).map fun i => ((s.stream id).pc i).toNat).eraseDups = [n])
    (h3 : (s.pcReady id (BitVec.ofNat 64 n) && !s.pcFetched id (BitVec.ofNat 64 n)) = true) :
    s.needsFetch id = some (BitVec.ofNat 64 n) := by
  simp only [State.needsFetch, h1, if_true, pcs_at _ n h2, List.find?_cons, h3]
theorem ready_at (s : State) (id : StreamId) (n : Nat)
    (h1 : (s.teamRuns id.team && s.groupRuns id.team id.grp) = true)
    (h2 : ((maskLanes (s.stream id).amask).map fun i => ((s.stream id).pc i).toNat).eraseDups = [n])
    (h3 : (s.pcReady id (BitVec.ofNat 64 n) && s.pcFetched id (BitVec.ofNat 64 n)) = true) :
    s.readyPcs id = [BitVec.ofNat 64 n] := by
  simp only [State.readyPcs, h1, if_true, pcs_at _ n h2, List.filter_cons, h3, List.filter_nil]

/-- The stream stands in its partition's rotation, and in no other. -/
def turning : State := (fetched probe).modCore ⟨0, 0⟩ fun k => { k with parts := [(0, ⟨[⟨0, 0, false, 1, [], 0⟩], 0⟩)] }

def hosted (s : State) : State := s.tlbPut ⟨0, 0⟩ 0 0 { page0 with host := true }
def odd (s : State) : State := s.writePa 0 0 1
def result (after : Option (Nat × Nat)) : State := probe.modHere fun st => { st with pend := [⟨3, [.uni 1 5], [], [], none, after⟩] }
def trapped1 : TrapRec := ⟨10, 0, 6, 1⟩
def watching : WatchRec := ⟨4, 1, .v 1, 1, 0, 0, some 0, none⟩

theorem witness_FrontEndAndResults :
    (∀ s ∈ [hosted probe, mapped probe, odd (mapped probe)], s.needsFetch id0 = some 0) ∧
    (∀ s ∈ [hosted probe, mapped probe, odd (mapped probe)], (s.stream id0).check = false ∧
      (s.translate ⟨0, 0⟩ .fetch 0 0 ((s.stream id0).lanesAt 0) 0 0 0 false).2 = s) ∧
    ((hosted probe).translate ⟨0, 0⟩ .fetch 0 0 ((probe.stream id0).lanesAt 0) 0 0 0 false).1 = .ok { page0 with host := true } ∧
    (∀ s ∈ [mapped probe, odd (mapped probe)], (s.translate ⟨0, 0⟩ .fetch 0 0 ((s.stream id0).lanesAt 0) 0 0 0 false).1 = .ok page0) ∧
    (((mapped probe).lineBytes page0 0 0).parityOk, ((mapped probe).lineBytes page0 0 0 ^^^ 1).parityOk) = (true, false) ∧
    (((odd (mapped probe)).lineBytes page0 0 0).parityOk, ((odd (mapped probe)).lineBytes page0 0 0 ^^^ 0).parityOk) = (false, false) ∧
    turning.pick ⟨0, 0⟩ 0 = some (0, ⟨0, 0, false, 1, [], 0⟩) ∧ turning.pick ⟨0, 0⟩ 3 = none ∧
    (apart.firstSlot id0 [0, 64], apart.secondSlot ⟨0, 0, false, 1, [(64, 32)], 0⟩ [0, 64],
      apart.secondSlot ⟨0, 0, false, 1, [(64, 31)], 0⟩ [0, 64]) = (some 0, some 64, some 0) ∧
    (∀ a ∈ [none, some (0, 7)], ((result a).stream id0).pend.find? (fun p => p.id == 3) = some ⟨3, [.uni 1 5], [], [], none, a⟩ ∧
      (result a).pendReady ⟨3, [.uni 1 5], [], [], none, a⟩ = true) ∧
    (let s := probe.modHere fun st => { st with entering := some trapped1 }
     let t := probe.modHere fun st => { st with traps := [trapped1] }
     (s.group 0 0).dmr = .alone ∧ s.entryReady id0 trapped1 = true ∧ t.entryReady id0 trapped1 = true ∧ (t.stream id0).entering = none ∧
     (t.stream id0).mode = .normal ∧ (t.group 0 0).halted = false) ∧
    ((probe.modHere fun st => { st with watch := some watching }).wakeHolds id0 watching 3 = true) := by
  refine ⟨?_, by decide +kernel, by decide +kernel, by decide +kernel, by decide +kernel, by decide +kernel, ?_, by decide +kernel, by decide +kernel,
    by decide +kernel, by decide +kernel, by decide +kernel⟩
  · intro s hs
    have h : (s.teamRuns 0 && s.groupRuns 0 0 && s.pcReady id0 (BitVec.ofNat 64 0) && !s.pcFetched id0 (BitVec.ofNat 64 0) &&
      (((maskLanes (s.stream id0).amask).map fun i => ((s.stream id0).pc i).toNat).eraseDups == [0])) = true := by
      revert s; decide +kernel
    simp only [Bool.and_eq_true, beq_iff_eq] at h
    exact needs_at s id0 0 (Bool.and_eq_true _ _ ▸ h.1.1.1) h.2 (Bool.and_eq_true _ _ ▸ ⟨h.1.1.2, h.1.2⟩)
  · have h := ready_at turning id0 0 (by decide +kernel) (by decide +kernel) (by decide +kernel)
    have h1 : (SMap.get ⟨[], 0⟩ (turning.core ⟨0, 0⟩).parts 0).order = [(0, ⟨0, 0, false, 1, [], 0⟩)] := by decide +kernel
    have h2 : turning.weak id0 = false := by decide +kernel
    have h3 : Rot.id ⟨0, 0, false, 1, [], 0⟩ = id0 := rfl
    simp [State.pick, State.candidates, h1, h3, h, h2]

def ref0 : LineRef := ⟨0, 0, 0, false, false, 1⟩

/-- Register 1 is opening a line. -/
def opening (s : State) (mode line : Nat) : State := s.modMyGroup fun g => { g with c.lines := [(1, reg .opening mode line 20)] }
def home (m : Nat) : Nat := (windowBase + m * 0x200000) / 128

/-- A write of the lehr that has been sent. -/
def sentBy (w : LWork) : LehrEntry := ⟨7, 0, 0, false, 0, 0, true, 0, w⟩
def leaving (s : State) (w : LWork) : State := s.modCore ⟨0, 0⟩ fun k => { k with lehr := [sentBy w] }

/-- A write whose page the core translates goes on. -/
theorem lookup_holds (s : State) (c : CoreId) (e : LehrEntry) (k : FaultKind) (asid : BitVec 16) (va : Nat) (m : Mask) (t : Trans)
    (h1 : (decide (128 ≤ (s.core c).cullet.length) || (s.core c).behind e || s.lookBefore c e k asid) = false)
    (h2 : (s.core c).logged e = false) (h3 : (s.translate c k asid va m e.grp 0 e.who true).1 = .ok t)
    (h4 : (s.translate c k asid va m e.grp 0 e.who true).2 = s) (h5 : t.host = false) :
    ∀ go, s.writeLookup c e k asid va m go = go t s := by
  intro go
  simp only [State.writeLookup, h1, h2, h3, h4, h5, Bool.false_eq_true, if_false, Bool.false_and]

def outs : UnitOut := ⟨[(0, 5)], [], [], [], false, [⟨0, 0, page0⟩]⟩
def cast1 : Cast := ⟨4, 0, 0, some 0, [], 0, 0⟩
def amo1 : Amo := ⟨5, 0, .add, false, .system, .v 1, false, [⟨0, 64, 1, 0, false, false, none⟩], [], [], 0, none⟩

theorem witness_LinesAndWrites :
    (∀ p ∈ [(1, 9), (3, 0), (0, home 0), (1, home 15), (2, home 15), (0, 2 ^ 49), (2, 511)], let s := opening (clustered (mapped probe)) p.1 p.2
      let l := s.lineAt ref0
      (l.st, l.fault, l.mode, l.line, keyKind l.key) = (.opening, none, p.1, p.2, 0)) ∧
    (let l := fun p : Nat × Nat => (opening (clustered (mapped probe)) p.1 p.2).lineAt ref0
     ((l (1, 9)).windowed, (l (0, home 0)).windowed, (l (1, home 15)).windowed, (l (2, 511)).windowed, (l (0, 2 ^ 49)).windowed) =
      (false, true, true, false, false)) ∧
    (let s := opening (clustered (mapped probe)) 3 0
     s.present 0 0 = true ∧ s.windowTarget 0 (128 * home 0) = none ∧ s.windowTarget 0 (128 * home 15) = some (9, 0) ∧
     (s.modEntry ⟨0, 0⟩ 20 fun x => { x with win := some (9, 0) }).present 9 0 = true) ∧
    (let s := opening (clustered (mapped probe)) 2 511
     s.translate ⟨0, 0⟩ .openRw 0 (128 * 511) (BitVec.allOnes 32) 0 0 0 false = (.ok page0, s)) ∧
    (let s := opening (clustered (mapped probe)) 0 (2 ^ 49)
     s.translate ⟨0, 0⟩ .openRead 0 (2 ^ 56) (BitVec.allOnes 32) 0 0 0 false = (.fatal, s)) ∧
    (let w : LWork := .depart 0 128 .mem none [⟨127, 5, 0, 0⟩] []
     ∀ go, (leaving (mapped probe) w).writeLookup ⟨0, 0⟩ (sentBy w) .departure 0 128 0 go = go page0 (leaving (mapped probe) w)) ∧
    (let w : LWork := .update .add 0 65532 1 65532 1
     ∀ go, (leaving (mapped probe) w).writeLookup ⟨0, 0⟩ (sentBy w) .red 0 65532 1 go = go page0 (leaving (mapped probe) w)) ∧
    (∀ w ∈ [LWork.depart 0 0 (.window 9 0) none [⟨0, 5, 0, 0⟩] [], .depart 0 0 (.kv 0x2000 1) none [⟨0, 5, 0, 0⟩] [], .engine 0 0 0 outs],
      ((leaving probe w).core ⟨0, 0⟩).behind (sentBy w) = false ∧ ((leaving probe w).core ⟨0, 0⟩).logged (sentBy w) = false) ∧
    (∀ v ∈ outs.via, v.tr.host = false) ∧ (leaving probe (.land 4 0 0 [] [])).journalRoom ⟨0, 0⟩ 0 (scratchKey 0 0) = true ∧
    (let s := probe.modCore ⟨0, 0⟩ fun k => { k with casts := [cast1] }
     (s.core ⟨0, 0⟩).casts.find? (fun k => k.id == 4) = some cast1 ∧ cast1.at_ = some 0 ∧ cast1.left = 0 ∧ (0 : DWord).toNat ≤ (s.clk 0).toNat) ∧
    (let s := probe.modHere fun st => { st with amos := [amo1] }
     (s.group 0 0).depth = 0 ∧ ((s.stream id0).amos.any fun a => a.id == 5) = true) := by
  refine ⟨by decide +kernel, by decide +kernel, by decide +kernel, ?_, ?_, ?_, ?_, by decide +kernel, by decide +kernel, by decide +kernel, by decide +kernel,
    by decide +kernel⟩
  · exact Prod.ext (by decide +kernel) rfl
  · exact Prod.ext (by decide +kernel) rfl
  · exact lookup_holds _ _ _ _ _ _ _ _ (by decide +kernel) (by decide +kernel) (by decide +kernel) rfl rfl
  · exact lookup_holds _ _ _ _ _ _ _ _ (by decide +kernel) (by decide +kernel) (by decide +kernel) rfl rfl


/-- The team and package slots hold arrivals that have not been sent, and that have. -/
def arriving : State := begun (probe.modMyGroup fun g => (g.setSlot .team (.pending .iadd 3 true false 5)).setSlot .package (.pending .none 0 false false 5))
def arrived : State := probe.modMyGroup fun g => g.setSlot .bench (.pending .smax 3 true true 5)
/-- A member's reduction is open. -/
def reducing : State := (clustered probe).modHere fun st => { st with pend := [⟨3, [], [accRegKey 7], [], some 0, none⟩] }
/-- The group's gate is being aborted; `trapc` says how the caller learns of it. -/
def aborting (trapc : Bool) : State := called.modMyGroup fun g =>
  { g with abort := some 9, frames := g.frames.map fun f => { f with trapc := trapc } }
def comparing (b : Byte) : State := probe.modBench 0 fun k =>
  { k with pairs := [{ pair 3 0 9 with recsL := [(5, 1, [(0, 7)])], recsT := [(5, 1, [(0, b)])] }] }

theorem witness_Meetings :
    ((arriving.group 0 0).slot .team = .pending .iadd 3 true false 5 ∧ arriving.isWide 0 .team = false ∧
      (arriving.group 0 0).slot .package = .pending .none 0 false false 5 ∧ arriving.releaseDone id0 .package 5 = true) ∧
    (arrived.group 0 0).slot .bench = .pending .smax 3 true true 5 ∧
    ((reducing.team 0).cluster = some (3, 0) ∧ (reducing.clusterOf 0).isSome = true ∧ (reducing.group 0 0).openCred.isSome = true) ∧
    (∀ b, ((aborting b).group 0 0).abort = some 9 ∧ ((aborting b).team 0).live = true ∧ (aborting b).calleeOver 0 0 = true ∧
      (((aborting b).group 0 0).frames.map (·.trapc)) = [b]) ∧
    (∀ b, (((comparing b).bench 0).pairs.find? fun q => q.id == 3) =
      some { pair 3 0 9 with recsL := [(5, 1, [(0, 7)])], recsT := [(5, 1, [(0, b)])] }) ∧
    ((7 : Byte) = 7 ∧ (7 : Byte) ≠ 8) :=
  ⟨by decide +kernel, by decide +kernel, by decide +kernel, by decide +kernel, fun _ => rfl, by decide⟩

/-- A command of the core. -/
def cmdOf (kind : CmdKind) (state : Nat) : Cmd :=
  ⟨6, 0, 0, false, 0, 0, 0, 0, 0, 0, if cmdTagged kind then none else some 0, kind, state, [], 0, 0, false, [], [], [], 1, 32, []⟩
where
  cmdTagged : CmdKind → Bool
    | .cpyGs _ _ => true
    | .cpySg _ _ => true
    | _ => false
def serving (s : State) (k : Cmd) : State := s.modCore ⟨0, 0⟩ fun x => { x with cmds := [k] }

def copy (va : DWord) (v state : Nat) : Cmd := cmdOf (.cpyGs 0 [(0, va, 0, v)]) state
/-- An embedding request of one bag and one row, whose lists lie in the scratchpad, over a table of five rows. -/
def embDesc : Nat := 2 ^ 32 + 4 * 2 ^ 64 + 2 ^ 96
def embTensor : Tensor := { Tensor.ofNat floats with rows := 5, ecm := 0 }
def embCmd : Cmd := cmdOf (.emb 3 embTensor embDesc [] [] [] [] false) 1
def embState : State := serving (probe.spadWrite 0 0 0 0 0 (leBytes 12 (5 + 2 ^ 64)) []) embCmd

/-- Page tables of one page of 2^30 bytes, and the tables of one page of a key-value space. -/
def tables (leaf : Nat) : State :=
  ((((keyed probe).modPkg fun p => { p with asTable := 0x8000 }).writeNat 0 0x8000 8 0x10001).writeNat 0 0x10000 8 0x20001).writeNat 0 0x20000 8
    0x30001 |>.writeNat 0 0x30000 8 leaf
def kvTables (pe : Nat) : State :=
  (((((keyed probe).writeNat 0 0x1010 8 0x40000).writeNat 0 0x40000 8 0x41001).writeNat 0 0x41000 8 0x42001).writeNat 0 0x42000 8 0x43001).writeNat 0
    0x43000 8 0x44001 |>.writeNat 0 0x44000 16 pe
def walkOf (need : FaultKind) (phase : WPhase) (slot : Nat) : Walk :=
  ⟨8, need == .kvRead, 0, 0, need, 1, 0, 0, 0, 0x1000, phase, slot, false, false, 0⟩
def walking (s : State) (w : Walk) : State := s.modCore ⟨0, 0⟩ fun k => { k with walks := [w] }
/-- A die's ring at 0x60000 whose record 0 has an answer. -/
def answered (resp : Nat) : State :=
  ((walking probe (walkOf .red .faulted 1)).modDie 0 fun d => { d with ringBase := 0x60000, ringHead := 1 }).writeNat 0 0x60000 1 (16 * resp)
def record0 : FaultRec := ⟨.red, false, 0, 1, 0, 0, 0, 0, 0, 0⟩

/-- An engine cannot read beyond the address space. -/
theorem beyond_fails (c : CoreId) (k : Cmd) (host : Bool) (va n : Nat) (s : State) (go : (Nat → Byte) → (Nat → Bool) → State → Serve)
    (h : n ≠ 0) (h2 : 2 ^ 56 < va + n) : engGlobal c k host va n s go = .fail 2 va s := by
  simp only [engGlobal, h, if_false, decide_eq_true h2, Bool.true_or, if_true]

theorem witness_EnginesAndFaults :
    (let s := serving (mapped probe) (copy 0 0 0)
     s.cmd ⟨0, 0⟩ 6 = some (copy 0 0 0) ∧ s.queuedBefore ⟨0, 0⟩ (copy 0 0 0) = false ∧ s.svcTurn ⟨0, 0⟩ (copy 0 0 0) = true) ∧
    (∀ k ∈ [copy 0 0 1, copy 65504 32 1, copy 0x00FFFFFFFFFFFFE1 32 1], (serving probe k).cmd ⟨0, 0⟩ 6 = some k ∧ k.state ≠ 0 ∧
      (k.landed ++ k.sent ++ k.failed).contains 0 = false ∧ k.barred 0 = false ∧ k.inTurn 0 = true) ∧
    (∃ o t, serveUnit ⟨0, 0⟩ (copy 0 0 1) 0 (serving probe (copy 0 0 1)) = .out o t) ∧
    (∃ t b, serveUnit ⟨0, 0⟩ (copy 65504 32 1) 0 (serving probe (copy 65504 32 1)) = .wait t b) ∧
    (∃ n a t, serveUnit ⟨0, 0⟩ (copy 0x00FFFFFFFFFFFFE1 32 1) 0 (serving probe (copy 0x00FFFFFFFFFFFFE1 32 1)) = .fail n a t) ∧
    (let idx := embState.padWords 0 (embIdx embDesc) 1
     let bag := embState.padWords 0 (embBag embDesc) 2
     (idx.map (·.1), bag.map (·.1)) = ([5], [0, 1]) ∧ embTensor.ecm = 0 ∧ embOk embTensor embDesc (bag.map (·.1)) [] = true ∧
     (embSplit [] [] [5]).1 = [5] ∧ embFirst embDesc + 5 % embOwners embDesc = embState.pkg.id ∧ embTensor.rows ≤ 5 / embOwners embDesc) ∧
    (∃ q, embGather ⟨0, 0⟩ embCmd embTensor embDesc [] embState (fun rows s => .out (padUnit [] false) (s.modCmd ⟨0, 0⟩ 6 fun x =>
      { x with kind := .emb 3 embTensor embDesc [(5, false)] [(0, false), (1, false)] [] rows true, stopped := [] })) [5] =
        .out (padUnit [] false) q ∧ (q.cmd ⟨0, 0⟩ 6).isSome = true) ∧
    (∀ w ∈ [walkOf .red .walking 0, walkOf .kvRead .walking 0], (((walking probe w).core ⟨0, 0⟩).walks.find? fun w => w.id == 8) = some w ∧
      ((walking probe w).core ⟨0, 0⟩).lowerWalks w = false) ∧
    ((tables 15).walkFor .red 0 0 = .ok ⟨0, 2 ^ 30, true, true, false, false, 0⟩ ∧ (tables 0).walkFor .red 0 0 = .missing ∧
      (tables 11).walkFor .red 0 0 = .missing ∧ probe.walkFor .red 0 0 = .fatal) ∧
    (((kvTables (2 ^ 64 + 0x50003)).kvWalkIn ((kvTables 0).kvDesc 0x1000) 0 0 true) = .ok ⟨0, 0, 0x44000, 0x50000, true, 0⟩ ∧
      (kvTables 0).kvWalkIn ((kvTables 0).kvDesc 0x1000) 0 0 true = .missing ∧ ((kvTables 0).kvDesc 0x1000).isSome = true) ∧
    (∀ r < 4, field ((answered r).readNat 0 (ringAddr ((answered r).die 0) 0) 1) 4 2 = r) ∧ slotName 0 0 = 1 ∧
    (walking probe (walkOf .red .faulted 0)).recordAway ⟨0, 0⟩ (walkOf .red .faulted 0) = true ∧
    (let s := walking (probe.modDie 0 fun d => { d with ringBase := 0x60000 }) (walkOf .red .faulted 0)
     (s.die 0).waiting = [] ∧ s.sentBefore 0 ⟨0, 0⟩ 8 = false ∧
     (((s.modDie 0 fun d => { d with waiting := [(⟨0, 0⟩, 8, record0)] }).putRecord 0).die 0).waiting = []) := by
  refine ⟨by decide +kernel, by decide +kernel, ⟨_, _, rfl⟩, ?_, ?_, by decide +kernel, ⟨_, rfl, by decide +kernel⟩, by decide +kernel, by decide +kernel,
    by decide +kernel, by decide +kernel, by decide +kernel, by decide +kernel, by decide +kernel⟩
  · exact ⟨_, _, rfl⟩
  · refine ⟨2, _, _, Eq.trans (b := engGlobal ⟨0, 0⟩ (copy 0x00FFFFFFFFFFFFE1 32 1) true (0x00FFFFFFFFFFFFE1 : DWord).toNat 32
      (serving probe (copy 0x00FFFFFFFFFFFFE1 32 1)) fun b po s =>
        .out (padUnit (bytesAt 0 32 fun i => if i < 32 then b i else 0) (anyIn 32 po)) s) rfl (beyond_fails _ _ _ _ _ _ _ (by decide) (by decide))⟩

/-- Address space 0 maps one page of 2^30 bytes at 0; further cells of memory lie above the tables. -/
def pageCells : List Host.Cell := [(0x8000, 1), (0x8002, 1), (0x10000, 1), (0x10002, 2), (0x20000, 1), (0x20002, 3), (0x30000, 15)]
def paged (s : State) (l : List Host.Cell) : State :=
  { s.modPkg fun p => { p with asTable := 0x8000 } with mem := pageCells ++ l }
def page1 : Trans := { page0 with size := 2 ^ 30 }

/-- What the tables of a paged state say, and the walk that follows. -/
def tablesRead (s : State) : Bool :=
  s.asRecord 0 == some (0x10000, 0) && s.readNat 0 0x10000 8 == 0x20001 && s.readNat 0 0x20000 8 == 0x30001 && s.readNat 0 0x30000 8 == 15
theorem walk_page (s : State) (h : tablesRead s = true) (va : Nat) (hv : va < 2 ^ 30) : s.walk 0 va = .ok page1 := by
  simp only [tablesRead, Bool.and_eq_true, beq_iff_eq] at h
  obtain ⟨⟨⟨h0, h1⟩, h2⟩, h3⟩ := h
  have f0 : field va 48 8 = 0 := by simp only [field]; omega
  have f1 : field va 39 9 = 0 := by simp only [field]; omega
  have f2 : field va 30 9 = 0 := by simp only [field]; omega
  have hb : ¬ 2 ^ 56 ≤ va := by omega
  simp only [State.walk, hb, if_false, h0]
  unfold State.walkFrom
  simp only [walkIndex, f0, h1, Nat.mul_zero, Nat.add_zero]
  unfold State.walkFrom
  simp only [walkIndex, f1, Nat.mul_zero, Nat.add_zero, show field 131073 12 40 * 4096 = 0x20000 by decide, h2]
  unfold State.walkFrom
  simp only [walkIndex, f2, Nat.mul_zero, Nat.add_zero, show field 196609 12 40 * 4096 = 0x30000 by decide, h3]
  simp [field, page1, page0]
theorem readVirt_page (s : State) (h : tablesRead s = true) (a n : Nat) (hn : a + n ≤ 2 ^ 30) :
    s.readVirt 0 0 a n = some (leNat ((List.range n).map fun i => s.readPa 0 (a + i))) := by
  have hw : ∀ i ∈ List.range n, (s.virt .engRead 0 (a + i)).map (fun t => s.readTr t 0 (a + i)) = some (s.readPa 0 (a + i)) := by
    intro i hi
    have hi := List.mem_range.1 hi
    have hlt : a + i < 2 ^ 30 := by omega
    have ht : page1.addr 0 (a + i) = a + i := by simp [Trans.addr, page1, page0]; omega
    simp only [State.virt, State.walkFor, walk_page s h _ hlt, permits, needsW, Bool.not_false, Bool.true_or, if_true, Option.map_some, State.readTr]
    rw [ht]; rfl
  have hm : (List.range n).map (fun i => (s.virt .engRead 0 (a + i)).map (fun t => s.readTr t 0 (a + i))) =
      (List.range n).map fun i => some (s.readPa 0 (a + i)) := List.map_congr_left hw
  simp only [State.readVirt, hm]
  simp [List.map_map, Function.comp_def]
/-- The same, with the value of the bytes. -/
theorem readVirt_is (s : State) (h : tablesRead s = true) (a n x : Nat) (hn : a + n ≤ 2 ^ 30)
    (hx : leNat ((List.range n).map fun i => s.readPa 0 (a + i)) = x) : s.readVirt 0 0 a n = some x := hx ▸ readVirt_page s h a n hn
theorem virtWritable_page (s : State) (h : tablesRead s = true) (a n : Nat) (hn : a + n ≤ 2 ^ 30) : s.virtWritable 0 a n = true := by
  simp only [State.virtWritable, List.all_eq_true, List.mem_range]
  intro i hi
  have hlt : a + i < 2 ^ 30 := by omega
  simp only [State.virt, State.walkFor, walk_page s h _ hlt]
  rfl
def asked : State := probe.modMyTeam fun t => { t with wantCkpt := true }
def pending5 : State := probe.modMyTeam fun t => { t with pending := some ⟨t.st, 5⟩ }
def struck : State := probe.modMyTeam fun t => { t with blocked := some 3 }
def aging : State := probe.modCore ⟨0, 0⟩ fun k => { k with lehr := [⟨7, 0, 0, false, 0, 2, false, 0, .sig 0 0⟩] }

theorem witness_CheckpointsAndFailures :
    ((asked.team 0).live = true ∧ (asked.team 0).wantCkpt = true ∧ (asked.team 0).pending = none ∧ (asked.team 0).busy = false ∧
      (asked.team 0).blocked = none ∧ asked.teamReleasing 0 = false ∧ (asked.teamPair 0).isNone = true) ∧
    ((pending5.team 0).blocked = none ∧ ((pending5.team 0).pending.map (·.date)) = some 5 ∧ pending5.linksOf 0 5 = [] ∧
      (pending5.teamPair 0).isNone = true) ∧
    ((struck.team 0).live = true ∧ (struck.team 0).blocked ≠ none ∧ struck.together [0] = [0] ∧ (struck.teamPair 0).isNone = true) ∧
    ((aging.team 0).live = true ∧ (aging.team 0).pending = none ∧ (aging.team 0).safe.date ≤ 0 ∧
      ((aging.core (aging.team 0).coreId).lehr.any fun e => e.team == 0 && !e.sent) = true) ∧ (71 < 72 ∧ 8 ≤ 8 ∧ 7 < 8 ∧ 114 < 115 ∧ 115 ≤ 115) := by
  decide +kernel

/-- The team is being saved to an area at 0x100000; its one stream has ended its routine; another team's context stands there. -/
def weakTeam : State := probe.modMyTeam fun t => { t with cls := .weak }
def draining : State := probe.modMyTeam fun t => { t with drain := some .gaffer }
def saving : State := probe.modMyTeam fun t => { t with saving := some 0x100000 }
def spilling : State :=
  ((saving.modHere fun st => { st with mode := .save, amask := 0 }).tlbPut ⟨0, 0⟩ 0 0 page1)
def savedOut (l : List Host.Cell) : State :=
  ((paged probe l).setTeam 1 { probeTeam with live := false, out := true, started := false }).modPkg fun p => { p with booted := true, saved := [⟨1, 0x100000, 0, none⟩] }
def clusteredOut : State := ((savedOut []).modTeam 1 fun t => { t with cluster := some (3, 0) }).modBench 0 fun b =>
  { b with clusters := [⟨3, 0, 7, 2, [(0, some 1), (1, some 5)], 2, true⟩] }
def header1 : Nat := 0x45564153 + 2 ^ 32 + 2 ^ 40 + 2 ^ 64 * 0x180000
def areaAt : State := savedOut ((leBytes 12 header1).zipIdx.filterMap fun p => if p.1 = 0 then none else some (0x100000 + p.2, p.1))
/-- A team to restore, admitted and not yet loaded. -/
def restoring (area : DWord) (src : Option Nat) : State :=
  ((probe.tlbPut ⟨0, 0⟩ 0 0 page1).modMyTeam fun t => { t with started := false, saving := some area }).modPkg fun p => { p with booted := true, saved := [⟨0, area, 0, src⟩] }

theorem leNat_zero : ∀ l : List Byte, (∀ b ∈ l, b = 0) → leNat l = 0
  | [], _ => rfl
  | b :: l, h => by simp [leNat, h b (by simp), leNat_zero l fun x hx => h x (by simp [hx])]
theorem read_outside (a : Nat) : ∀ m : Memory, (∀ c ∈ m, c.1 ≠ a) → Memory.read m a = 0
  | [], _ => rfl
  | (k, v) :: m, h => by
    have h1 : k ≠ a := h (k, v) (by simp)
    have h2 := read_outside a m fun c hc => h c (by simp [hc])
    simp only [Memory.read, SMap.get] at h2 ⊢
    split
    · exact absurd ‹a = k›.symm h1
    · exact h2
/-- Memory of one key's pages that lists nothing in a range reads as zeros there. -/
theorem readVirt_zero (s : State) (h : tablesRead s = true) (a n : Nat) (hn : a + n ≤ 2 ^ 30)
    (h1 : s.memTag = [] ∧ s.keyTag 0 = 0 ∧ s.veils = []) (h2 : s.mem.all (fun c => decide (c.1 < a) || decide (a + n ≤ c.1)) = true) :
    s.readVirt 0 0 a n = some 0 := by
  rw [readVirt_page s h a n hn, leNat_zero]
  intro b hb
  obtain ⟨i, hi, rfl⟩ := List.mem_map.1 hb
  have hi := List.mem_range.1 hi
  have h3 : wrapPa (a + i) = a + i := Nat.mod_eq_of_lt (by omega)
  have h4 : hasMemory (a + i) = true := by
    simp only [hasMemory, Bool.or_eq_true, decide_eq_true_eq]
    left
    show a + i < 12 * (96 * 2 ^ 30) - 0x10000000
    omega
  have h5 : Memory.read s.mem (a + i) = 0 := read_outside _ _ fun c hc => by
    have := List.all_eq_true.1 h2 c hc
    simp at this; omega
  simp only [State.readPa, h3, h4, h5, h1, State.veilAt, SMap.get, List.find?_nil]
  rfl

/-- Its save, to an older area of its gaffer's pool, has not been delivered. -/
def renamed : State := (saving.modMyTeam fun t => { t with pooled := true }).later 5 (.saveRequest 0)
/-- Member 1 of its cluster has not been asked. -/
def unasked : State := ((saving.modMyTeam fun t => { t with cluster := some (3, 0) }).setTeam 9 { Team.off with live := true, core := 9, cluster := some (3, 1) }).modBench 0
  fun b => { b with clusters := [⟨3, 0, 7, 2, [(0, some 0), (1, some 9)], 2, true⟩] }
/-- Its area lies beyond the address space. -/
def misplaced : State := spilling.modMyTeam fun t => { t with saving := some 0x0100000000000000 }

theorem witness_Preemption :
    ((weakTeam.team 0).live = true ∧ (weakTeam.team 0).trails = false ∧ (weakTeam.team 0).drain = none ∧ (weakTeam.team 0).saving = none ∧
      (weakTeam.team 0).cls = .weak ∧ (weakTeam.team 0).wave = false) ∧
    ([saving, renamed].all fun s => (s.team 0).live && !(s.team 0).trails && (s.team 0).drain == none && (s.team 0).saving == some 0x100000 &&
      !(s.team 0).inSave) = true ∧ (∃ e ∈ renamed.agenda, e.2 = .saveRequest 0) ∧
    ((draining.team 0).drain = some .gaffer ∧ (draining.team 0).live = true) ∧
    ((unasked.team 0).saving = some 0x100000 ∧ (unasked.team 0).live = true ∧ (unasked.team 0).liveGroups ≠ [] ∧ (unasked.team 0).inSave = false ∧
      ∃ u ∈ unasked.clusterTeams 0, (unasked.team u).saving = none) ∧
    ((saving.team 0).saving = some 0x100000 ∧ (saving.team 0).live = true ∧ (saving.team 0).liveGroups ≠ [] ∧ (saving.team 0).inSave = false ∧
      (saving.team 0).restoring = false ∧ (saving.team 0).blocked = none ∧ (saving.team 0).quiet = true ∧ saving.recallRoom (saving.teamRegs 0) = true ∧
      (∀ u ∈ saving.clusterTeams 0, (saving.team u).saving ≠ none) ∧ (saving.teamPair 0).isNone = true) ∧
    ([spilling, misplaced].all fun s => (s.team 0).live && (s.team 0).inSave && (s.team 0).routinesOver && (s.routineRegs 0).isEmpty &&
      s.writesOver 0 && s.spillReady 0 && s.clusterTeams 0 == [0] && !(s.team 0).out) = true ∧
    ((spilling.team 0).saving, (misplaced.team 0).saving) = (some 0x100000, some 0x0100000000000000) ∧
    spilling.lookArea 0 = (.ok page1, spilling) ∧ misplaced.lookArea 0 = (.fatal, misplaced) ∧ probe.pkg.booted = false := by
  refine ⟨by decide +kernel, by decide +kernel, by decide +kernel, by decide +kernel, by decide +kernel, by decide +kernel, by decide +kernel, by decide +kernel,
    Prod.ext (by decide +kernel) rfl, Prod.ext (by decide +kernel) rfl, rfl⟩

theorem witness_Preemption_areas :
    (savedOut []).pkg.booted = true ∧ (savedOut []).readVirt 0 0 0x100000 256 = some 0 ∧ (savedOut []).readVirt 0 0 0x100100 0x1F00 = some 0 ∧
    field 0 40 6 = 0 ∧ (∀ die, (savedOut []).areaRefused die 0 [] = true) ∧
    areaAt.pkg.booted = true ∧ areaAt.readVirt 0 0 0x100000 256 = some header1 ∧ areaAt.readVirt 0 0 0x100100 0x1F00 = some 0 ∧
    areaAt.readVirt 0 0 0x118000 256 = some 0 ∧ areaAt.readVirt 0 0 0x118100 256 = some 0 ∧ areaAt.readVirt 0 0 0x118200 256 = some 0 ∧
    areaAt.readVirt 0 0 0x109000 512 = some 0 ∧ areaAt.readVirt 0 0 0x111000 512 = some 0 ∧
    (field header1 40 6 = 1 ∧ areaAt.areaRefused (areaAt.areaDie 0 0x100000 header1 [0]) header1 [0] = false ∧ linesBad 0 = false ∧ tagsBad 0 = false ∧
      partBad 0 = false ∧ (areaAt.pkg.saved.find? fun v => v.area == 0x100000 && v.asid == 0) = some ⟨1, 0x100000, 0, none⟩) ∧
    ((areaAt.modTeam 1 fun x => { x with saving := some 0x100000, led := false }).setAsked 1 = true) ∧
    ((clusteredOut.modTeam 1 fun x => { x with saving := some 0x100000, led := false }).setAsked 1 = false) := by
  refine ⟨rfl, readVirt_is _ (by decide +kernel) _ _ _ (by decide) (by decide +kernel),
    readVirt_zero _ (by decide +kernel) _ _ (by decide) (by decide +kernel) (by decide +kernel), by decide, fun _ => rfl, rfl,
    readVirt_is _ (by decide +kernel) _ _ _ (by decide) (by decide +kernel),
    readVirt_zero _ (by decide +kernel) _ _ (by decide) (by decide +kernel) (by decide +kernel),
    readVirt_zero _ (by decide +kernel) _ _ (by decide) (by decide +kernel) (by decide +kernel),
    readVirt_zero _ (by decide +kernel) _ _ (by decide) (by decide +kernel) (by decide +kernel),
    readVirt_zero _ (by decide +kernel) _ _ (by decide) (by decide +kernel) (by decide +kernel),
    readVirt_zero _ (by decide +kernel) _ _ (by decide) (by decide +kernel) (by decide +kernel),
    readVirt_zero _ (by decide +kernel) _ _ (by decide) (by decide +kernel) (by decide +kernel),
    by decide +kernel, by decide +kernel, by decide +kernel⟩

theorem witness_Preemption_restores :
    (([0x100000, 0x0100000000000000] : List DWord).all fun a => [none, some 4].all fun f => let s := restoring a f
      (s.team 0).saving == some a && (s.pkg.saved.find? fun v => v.team == 0) == some ⟨0, a, 0, f⟩ && (s.team 0).live && !(s.team 0).started &&
      !(s.die 0).throttled && s.pkg.booted) = true ∧
    (restoring 0x100000 none).translateSpan ⟨0, 0⟩ .engRead 0 0x100000 0x1C8000 0 0 0 0 = (.ok page1, restoring 0x100000 none) ∧
    (restoring 0x100000 (some 4)).translateSpan ⟨0, 0⟩ .engRead 0 0x100000 0x1C8000 0 0 0 0 = (.ok page1, restoring 0x100000 (some 4)) ∧
    (restoring 0x0100000000000000 none).translateSpan ⟨0, 0⟩ .engRead 0 0x0100000000000000 0x1C8000 0 0 0 0 =
      (.fatal, restoring 0x0100000000000000 none) := by
  refine ⟨by decide +kernel, Prod.ext (by decide +kernel) rfl, Prod.ext (by decide +kernel) rfl, Prod.ext (by decide +kernel) rfl⟩

/-- A launch block at 0x100000: one role of one group; the images of three graphs: at 0x200000 one batch of one task, at
0x210000 one node of kind 2, at 0x220000 a header without nodes. -/
def workCells : List Host.Cell :=
  [(0x100000, 1), (0x100008, 1), (0x100009, 1), (0x10000A, 1), (0x100091, 1), (0x100092, 4), (0x100094, 1),
   (0x200000, 1), (0x200440, 1), (0x200441, 1), (0x200444, 1), (0x210000, 1), (0x210440, 2), (0x210441, 1), (0x210443, 1)]
def working : State := paged probe workCells
def blockX : Nat := 1 + 2 ^ 64 + 2 ^ 72 + 2 ^ 80 + 2 ^ 1024 * (2 ^ 136 + 4 * 2 ^ 144 + 2 ^ 160)

def launchOf (va tstart : DWord) (roles : List Role) (graph : Option (Nat × Nat)) : Launch :=
  { id := 2, va := va, asid := 0, kvroot := 0, cls := .parallel, priv := true, idem := false, roles := roles, rings := [], dies := [], timed := false,
    tstart := tstart, src := some (0, 0), icount := 0, geo := (0, 0, 0), cluster := 0, spad := 0, grid := (0, 0, 0), ttbase := 0, graph := graph,
    irq := none, next := [], live := 0, ended := 0, state := 0 }
def launched (s : State) (l : Launch) : State := s.modPkg fun p => { p with launches := [l] }
/-- The group has ended. -/
def ended : State := probe.modMyGroup fun g => { g with live := false, c.a.live := false }

def node1 (running : Bool) : GNode := { GNode.zero with running := running, launch := 2 }
def graphOf (va : DWord) (running nodeRuns : Bool) : Graph := ⟨4, 0, va, 0, 0, [(0, node1 nodeRuns)], [], running, true, none, none⟩
def graphed (s : State) (g : Graph) : State := s.modPkg fun p => { p with graphs := [g] }
def task0 (n : Nat) : Task := ⟨4, 0, n, 0, 0, []⟩
/-- A batch whose last task is at the queue of core 0, a cycle after its wait is over. -/
def waving1 : State :=
  let s := graphed (launched working (launchOf 0 0 [roleOf (roleBits blockX 0)] none)) { graphOf 0x200000 true true with nodes := [(0, { node1 true with dealt := 1 })] }
  { s.modCore ⟨0, 5⟩ fun k => { k with tasks := [task0 0] } with time := 256 }
def stealing : State := probe.modCore ⟨0, 5⟩ fun k => { k with tasks := [task0 0, task0 1] }

theorem header_is (s : State) (h : tablesRead s = true) (g : Graph) (x : Nat) (h1 : g.die = 0 ∧ g.asid = 0 ∧ g.va.toNat + 64 ≤ 2 ^ 30)
    (hx : leNat ((List.range 64).map fun i => s.readPa 0 (g.va.toNat + i)) = x) : s.header g = x := by
  simp only [State.header, h1.1, h1.2.1, readVirt_is s h _ _ x h1.2.2 hx, Option.getD_some]
theorem node_is (s : State) (h : tablesRead s = true) (g : Graph) (n x : Nat) (h1 : g.die = 0 ∧ g.asid = 0 ∧ g.nodeAt n + 64 ≤ 2 ^ 30)
    (hx : leNat ((List.range 64).map fun i => s.readPa 0 (g.nodeAt n + i)) = x) : s.nodeRec g n = .ofNat x := by
  simp only [State.nodeRec, h1.1, h1.2.1, readVirt_is s h _ _ x h1.2.2 hx, Option.getD_some]
theorem image_holds (s : State) (h : tablesRead s = true) (g : Graph) (h1 : g.die = 0 ∧ g.asid = 0 ∧ g.va.toNat + 64 + (1024 + 64 * 512) ≤ 2 ^ 30) :
    s.imageReady g = true := by
  have hn : s.nnode g < 512 := by simp only [State.nnode, field]; omega
  simp only [State.imageReady, h1.1, h1.2.1, readVirt_page s h g.va.toNat 64 (by omega), virtWritable_page s h g.va.toNat 64 (by omega),
    virtWritable_page s h (g.va.toNat + 64) (1024 + 64 * s.nnode g) (by omega), Option.isSome_some, Bool.and_self]

theorem witness_LaunchesAndTasks :
    (∀ va ∈ [0x100000, 0x220000], let l := launchOf (BitVec.ofNat 64 va) 0 [] none
      let s := launched working l
      s.launch 2 = some l ∧ l.state = 0 ∧ l.roles = [] ∧ s.submittedBefore l = false ∧ l.graph = none ∧ l.home = 0 ∧ l.asid = 0) ∧
    (let s := launched working (launchOf 0x100000 0 [] none)
     s.virtWritable 0 (0x100000 + 40) 16 = true ∧ s.readVirt 0 0 0x100000 256 = some blockX) ∧
    (let s := launched working (launchOf 0x220000 0 [] none)
     s.virtWritable 0 (0x220000 + 40) 16 = true ∧ s.readVirt 0 0 0x220000 256 = some 0) ∧
    (((launchOf 0x100000 0 [] none).take blockX).reason blockX true = 0 ∧ ((launchOf 0x220000 0 [] none).take 0).reason 0 true ≠ 0) ∧
    ((0 : DWord).toNat ≤ (probe.clk 0).toNat ∧ (probe.clk 0).toNat < (1 : DWord).toNat) ∧
    (let s := probe.modDie 0 fun d => { d with order := [8] }
     (s.die 0).throttled = false ∧ (s.admitHead 0 false).isSome = true ∧ ((s.admitHead 0 false).map fun t => t.waits 0 false) = some false) ∧
    ((ended.team 0).live = true ∧ (ended.team 0).trails = false ∧ (ended.team 0).liveGroups = [] ∧ ended.teamOver 0 = true ∧
      ended.blockReady (ended.team 0) = true ∧ ended.recallRoom (ended.windowRegs 0) = true ∧ (ended.teamPair 0).isNone = true ∧
      (ended.team 0).cluster = none ∧ (ended.team 0).wave = false) ∧
    (let g := graphOf 0x200000 true true
     let s := graphed (launched working (launchOf 0 0 [] none)) g
     s.graph 4 = some g ∧ (g.node 0).running = true ∧ (s.launch (g.node 0).launch).isSome = true ∧ (g.node 0).dealt = 0 ∧
     s.imageReady g = true ∧ (s.nodeRec g 0).count = 1) ∧
    (let s := waving1
     (s.core ⟨0, 5⟩).tasks = [task0 0] ∧ ((s.graph 4).bind fun g => s.launch (g.node 0).launch).isSome = true ∧
     (((s.graph 4).bind fun g => s.launch (g.node 0).launch).bind fun l => l.roles.head?.bind fun r => s.wavePart ⟨0, 5⟩ l r).isSome = true ∧
     (s.die 0).throttled = false ∧ (s.core ⟨0, 5⟩).waveAt + 256 ≤ s.time) ∧
    ((stealing.nextWave ⟨0, 5⟩).isNone = true ∧ (stealing.core ⟨0, 5⟩).tasks.length = 2) := by
  refine ⟨by decide +kernel, ⟨virtWritable_page _ (by decide +kernel) _ _ (by decide), readVirt_is _ (by decide +kernel) _ _ _ (by decide) (by decide +kernel)⟩,
    ⟨virtWritable_page _ (by decide +kernel) _ _ (by decide), readVirt_is _ (by decide +kernel) _ _ _ (by decide) (by decide +kernel)⟩, by decide +kernel, by decide +kernel,
    by decide +kernel, by decide +kernel, ⟨rfl, rfl, rfl, rfl, image_holds _ (by decide +kernel) _ (by decide +kernel), ?_⟩, by decide +kernel, by decide +kernel⟩
  rw [node_is _ (by decide +kernel) _ _ (1 + 2 ^ 8 + 2 ^ 32) (by decide +kernel) (by decide +kernel)]
  decide +kernel

theorem witness_GraphWork :
    (let s := launched (begun probe) { launchOf 0 0 [] (some (4, 0)) with id := 0 }
     let us := ({ inf [] with noCallee := true, noDmr := true, graph := true, path := some .cl } : Info)
     runs s [us, { us with uses := [u1 (.imm 5)] }] = true ∧ s.graphOf 0 = some 4 ∧ s.lehrTakes ⟨0, 0⟩ 0 1 = true ∧
     Claims.released (s.ctx g0) (s.begun []) (fun d x => x.allReleased s.cur.id d)) ∧
    (∀ va ∈ [0x200000, 0x210000, 0x220000], ∀ b, let g := graphOf (BitVec.ofNat 64 va) b true
      let s := graphed working g
      s.graph 4 = some g ∧ g.running = b ∧ s.updateBefore ⟨⟨0, 0, false⟩, 3, 4⟩ = false ∧ (g.node 0).running = true ∧ (g.node 1).running = false ∧
      (s.pkg.graphs.filter fun h => h.die == g.die && h.running).length < 64 ∧
      ((s.pkg.graphs.filter fun h => h.die == g.die).takeWhile fun h => h.id != 4).all (fun h => h.running) = true) ∧
    (let g := graphOf 0x200000 false true
     (graphed working g).imageReady g = true ∧ (graphed working g).header g = 1) ∧
    (let g := graphOf 0x220000 false true
     (graphed working g).imageReady g = true ∧ (graphed working g).header g = 0) ∧
    (let g := graphOf 0x210000 true true
     (graphed working g).imageReady g = true ∧ ((graphed working g).nodeRec g 0).kind = 2) ∧
    ((field 1 0 9, field 1 9 7, field 1 24 40, field 1 64 448, field 1 16 8) = (1, 0, 0, 0, 0)) := by
  refine ⟨⟨by decide +kernel, by decide +kernel, by decide +kernel, released_holds _ _ _ (by decide +kernel)⟩, by decide +kernel,
    ⟨image_holds _ (by decide +kernel) _ (by decide +kernel), header_is _ (by decide +kernel) _ _ (by decide +kernel) (by decide +kernel)⟩,
    ⟨image_holds _ (by decide +kernel) _ (by decide +kernel), header_is _ (by decide +kernel) _ _ (by decide +kernel) (by decide +kernel)⟩,
    ⟨image_holds _ (by decide +kernel) _ (by decide +kernel), ?_⟩, by decide +kernel⟩
  rw [node_is _ (by decide +kernel) _ _ (2 + 2 ^ 8 + 2 ^ 24) (by decide +kernel) (by decide +kernel)]
  decide +kernel

/-- Queues whose entries are of KIND 0, of a reserved KIND, and collectives with a good and a bad descriptor. -/
def hostCells : List Host.Cell :=
  [(0x301000, 3), (0x302000, 2), (0x30200A, 0x31), (0x303000, 2), (0x30300A, 0x32), (0x320000, 12)]
def hostState (base tail : Nat) : State :=
  ((paged probe hostCells).modPkg fun p => { p with booted := true }).setQueueBlock 63 255 ⟨BitVec.ofNat 256 (base + 2 ^ 56), 0, BitVec.ofNat 32 tail⟩

theorem witness_HostAndConfiguration :
    (let b := (hostState 0x300000 1).queue 63 255
     b.en = true ∧ b.size = 64 ∧ ((65 : Word) - b.head).toNat = 65 ∧ ((64 : Word) - b.head).toNat = 64 ∧ (probe.queue 63 255).en = false ∧
     (probe.queue 63 255).head = (probe.queue 63 255).tail ∧ b.head ≠ b.tail) ∧ (hostState 0x300000 1).pkg.booted = true ∧ probe.pkg.booted = false ∧
    (let x := fun base => (hostState base 1).readNat 0 base 64
     (entryBad (x 0x301000), entryBad (x 0x300000), entryBad (x 0x302000), entryBad (x 0x303000)) = (true, false, false, false) ∧
     (field (x 0x300000) 0 4, field (x 0x302000) 0 4, field (x 0x303000) 0 4) = (0, 2, 2) ∧
     (field (x 0x302000) 64 64, field (x 0x303000) 64 64) = (0x310000, 0x320000)) ∧
    (hostState 0x302000 1).readVirt 0 0 0x310000 64 = some 0 ∧ (hostState 0x303000 1).readVirt 0 0 0x320000 64 = some 12 ∧
    (descBad 0, descBad 12) = (false, true) ∧ (managed 0xFFF000000000 1, managed 0xFFF00FFFFFFF 2) = (true, false) ∧
    (let tr := fun (k : FaultKind) (a : Nat) => ((hostState 0 0).virt k 0 a).filter fun t => !t.host
     (tr .engRead (2 ^ 30 - 1)).isSome = true ∧ (tr .engWrite (2 ^ 30 - 1)).isSome = true ∧ tr .engRead (2 ^ 30) = none ∧ tr .engWrite (2 ^ 30) = none) ∧
    ((queueBits (2 ^ 56)).toNat = 2 ^ 56 ∧ ({ (hostState 0 1).queue 63 255 with block := queueBits (2 ^ 56) } : QBlock).en = true) := by
  refine ⟨by decide +kernel, by decide +kernel, by decide +kernel, by decide +kernel, readVirt_is _ (by decide +kernel) _ _ _ (by decide) (by decide +kernel),
    readVirt_is _ (by decide +kernel) _ _ _ (by decide) (by decide +kernel), by decide, by decide, by decide +kernel, by decide +kernel⟩

/-- A gather of 16 bytes a package under group 7, of which this package holds the bytes at 0x310000, and which lands at 0x320000. -/
def coll (desc : List Nat) : Coll := ⟨8, 63, 255, 0x310000, 0, desc, [], [], false, [], none⟩
def gathering : List Nat := [1, 0, 0, 0, 7, 16, 0x310000, 0x320000, 0x330000]
def fabric (groups : List Nat) (desc : List Nat) : State :=
  (hostState 0 0).modPkg fun p => { p with colls := [coll desc], egress := ⟨List.replicate 72 1, [3], groups⟩ }
def halted : State := probe.modMyGroup fun g => { g with halted := true }

theorem witness_FabricAndPackage :
    (let s := fabric [] []
     (s.pkg.colls.find? fun c => c.id == 8) = some (coll []) ∧ (s.pkg.colls.takeWhile fun k => k.id != 8) = []) ∧
    (fabric [] []).readVirt 0 0 0x310000 64 = some 0 ∧
    (let c := coll gathering
     c.desc ≠ [] ∧ 0 ∉ c.done ∧ 0 < c.chunks ∧ (fabric [] gathering).planeOf 0 = some 0 ∧ (fabric [] gathering).contributes c = true ∧
     (fabric [] gathering).mayReach (c.at 4) true = false ∧ (fabric [7] gathering).mayReach (c.at 4) true = true ∧
     (fabric [7] gathering).laneSent 0 + c.unsent 0 ≤ (fabric [7] gathering).pkg.egress.rates.getD 0 0) ∧
    ((fabric [7] gathering).ownPart (coll gathering) 0 0).isSome = true ∧
    (∀ own : List Byte × Bool, own.1.length = 16 → ∀ o ∈ collLands (coll gathering) 0 ((fabric [7] gathering).contributions (coll gathering) own []),
      ∀ b ∈ o.1, (fabric [7] gathering).virt .engWrite 0 b.1 ≠ none) ∧
    (let s := fabric [7] []
     s.pkg.booted = true ∧ 4 ∉ s.pkg.egress.packages ∧ 3 ∈ s.pkg.egress.packages ∧ 7 ∈ s.pkg.egress.groups ∧ s.pkg.egress.rates.getD 71 0 = 1 ∧
     SMap.get 0 s.pkg.egressCount (usecKey 71) = s.time / 800 + 0 ∧ SMap.get 0 s.pkg.egressCount (sentKey 71) = 0 ∧
     (let t := s.setEgress [(sentKey 71, 1)]
      SMap.get 0 t.pkg.egressCount (sentKey 71) = 1)) ∧
    ((halted.group 0 0).halted = true ∧ (halted.team 0).live = true ∧ ((halted.group 0 0).debugRead (.vec false 191 31)).isSome = true ∧
      onX (.vec false 191 31) = false) := by
  refine ⟨by decide +kernel, readVirt_is _ (by decide +kernel) _ _ _ (by decide) (by decide +kernel), by decide +kernel, by decide +kernel, ?_, by decide +kernel,
    by decide +kernel⟩
  intro own hl o ho b hb
  have h1 : (fabric [7] gathering).contributions (coll gathering) own [] = [⟨0, own.1, own.2⟩] := by
    have h3 : ((coll gathering).at 0 = 3) = False := by decide
    have h4 : (fabric [7] gathering).pkg.id = 0 := rfl
    simp [State.contributions, h3, h4]
  have h5 : (coll gathering).at 0 = 1 := rfl
  have h6 : (coll gathering).at 7 + 4096 * 0 + 0 * (coll gathering).bytes = 0x320000 := by decide
  rw [h1] at ho
  simp only [collLands, h5, List.zipIdx_cons, List.zipIdx_nil, List.map_cons, List.map_nil, List.mem_singleton, h6] at ho
  subst ho
  obtain ⟨p, hp, rfl⟩ := List.mem_map.1 hb
  have h2 := List.snd_lt_of_mem_zipIdx hp
  have h7 : 0x320000 + p.2 < 2 ^ 30 := by omega
  simp only [State.virt, State.walkFor, walk_page _ (show tablesRead (fabric [7] gathering) = true by decide +kernel) _ h7]
  decide

/-- A handler stands at 0 for address space 0; the instruction of slot 0 is a NOP, or no instruction. -/
def handled : State := ({ probe with mem := [(0x9010, 1)] } : State).modPkg fun p => { p with handlerTable := 0x9000 }
def upNext (l : FetchLine) : State := { probe.setFetched ⟨0, 0, false⟩ 0 (some l) with toIssue := [probe.cur] }

theorem witness_StepRunsDecoded :
    let q : State := { upNext 0 with toIssue := [] }
    (upNext 0).toIssue = [probe.cur] ∧ q.cursorOk probe.cur = some probe.cur ∧ q.wordAt probe.cur = some 0 ∧ (decode 0).toOption = some .nop ∧
    ∃ t, exec .nop (((q.atWord probe.cur 0).drainFor .nop probe.cur.id).pruneFences probe.cur.id) = .next t :=
  ⟨rfl, by decide +kernel, by decide +kernel, by decide +kernel, _, rfl⟩
theorem witness_IllegalWords :
    let q : State := { upNext (BitVec.allOnes 512) with toIssue := [] }
    (upNext (BitVec.allOnes 512)).toIssue = [probe.cur] ∧ q.cursorOk probe.cur = some probe.cur ∧ q.wordAt probe.cur = some (BitVec.allOnes 96) ∧
    (decode (BitVec.allOnes 96)).toOption = none := ⟨rfl, by decide +kernel, by decide +kernel, by decide +kernel⟩
theorem witness_TrapEntry :
    let s := handled
    let st := s.stream ⟨0, 0, false⟩
    ((s.group 0 0).dmr = .alone ∧ (s.group 0 0).halted = false ∧ (s.group 0 0).depth = 0 ∧ st.live = true ∧ st.mode = .normal ∧ st.sq = [] ∧
      st.pend = [] ∧ st.amos = [] ∧ (15 : Nat) ≠ 14 ∧ (15 : Nat) ≠ 16 ∧ s.handlerEntry 0 false = some 0) ∧
    (let t := probe.modMyGroup fun g => { g with c.level := 1 }
     t.here.live = true ∧ t.cur.lanes ≠ 0 ∧ t.here.mode = .normal ∧ t.myGroup.split = false ∧ t.myGroup.c.level < 2 ∧
     ((tlbUses (.page (.s 31) (.s 30))).all fun u => u.ok t.myGroup t.cur.x) = true ∧ ([u1 (.v 191), u2 (.v 190)].all fun u => u.ok t.myGroup t.cur.x) = true) := by
  decide +kernel
theorem witness_ControlPasses : pcSlot 3 < 4 ∧ pcSlot 4 = 4 ∧ pcValid 0x00FFFFFFFFFFFFC4 = true := by decide
theorem witness_UniformRegisters : (0x80000000 : Mask) ≠ 0 ∧ (0 : Mask) = 0 := by decide
theorem witness_OperandCodes : handling.here.mode ≠ .normal ∧ 176 ≤ (176 : Fin 192).val ∧ probe.here.mode = .normal ∧ (175 : Fin 192).val < 176 := by decide
theorem witness_MemoryReadsBack : memoryForm handled ∧ (0 : Nat) % 2 ^ 52 ≠ (2 ^ 52 - 1) % 2 ^ 52 := ⟨⟨by decide +kernel, by decide +kernel⟩, by decide⟩
theorem witness_StepKeepsMemoryForm : memoryForm State.reset ∧ ∃ t, step State.reset = .next t := ⟨⟨rfl, rfl⟩, _, rfl⟩
theorem witness_EncodingAgrees : WellFormed.wf (.iadd ⟨true, 7⟩ true true (.v 191) (.s 31) (.imm 0xFFFFFFFF)) = true := by decide

/-! ### Further clauses -/

/-- The lanes' targets differ, the highest lane alone at line 5, whose TGT bits are clear. -/
def strayed : State :=
  ((probe.setFetched ⟨0, 0, false⟩ 0 (some (BitVec.allOnes 512))).setFetched ⟨0, 0, false⟩ 5 (some 0)).modHere fun st => st.setVec 2 31 0x144

theorem witness_BranchTraps_shapes :
    let s := probe.setFetched ⟨0, 0, false⟩ 5 (some 0)
    let us := [[], [d2 (.v 126)], [u2 (.v 2)], [u2 (.imm 0x144)], [u2 (.imm 5)]]
    let i := fun g us => ({ g := g, uses := us, lanes := false } : Info)
    let p : Guard := ⟨false, 1⟩
    let part := s.modHere fun st => { st with p := [(1, 1)] }
    let f := fun k => (strayed.begun [u2 (.v 2)]).srcPair (.v 2) k
    runs s (us.map (i g0)) = true ∧ runs part (us.map (i p)) = true ∧ runs strayed [i g0 [u2 (.v 2)]] = true ∧
    (part.ctx p).ex ≠ (part.ctx p).iss ∧
    (s.begun []).fetchedLine (s.ctx g0).id (pcLine (branchPc (s.ctx g0).pc 4 5)) = some 0 ∧
    ((0 : FetchLine).tgt 4, pcValid 0x144, pcValid (branchPc (s.ctx g0).pc 4 5), branchPc (s.ctx g0).pc 4 5) = (false, true, true, 0x144) ∧
    (31 ∈ maskLanes (strayed.ctx g0).ex ∧ f 31 = 0x144 ∧ (strayed.begun [u2 (.v 2)]).fetchedLine (strayed.ctx g0).id (pcLine (f 31)) = some 0 ∧
      ((maskLanes (strayed.ctx g0).ex).all fun j => j == 31 || f j == 0) = true ∧
      (strayed.begun [u2 (.v 2)]).fetchedLine (strayed.ctx g0).id 0 = some (BitVec.allOnes 512) ∧
      FetchLine.tgt (BitVec.allOnes 512) (pcSlot 0) = true) := by decide +kernel

theorem witness_NoLaneExecutes :
    let p : Guard := ⟨false, 1⟩
    let far : List Use := [u2 .z, u1 .lane, .src (.v 2) 1]
    (([Claims.info2 p (.v 127) (.s 31) (.imm 4), { g := p, cls := .x, uses := [d1 (.v 1), u1 (.v 2), u1 .z] },
      { g := p, cls := .x, uses := [.pout 1, u1 (.v 2), u1 .z] }, { g := p, uses := [.pout 1, .pin 7, .pin 7] },
      { g := p, uses := [d1 (.v 1), u1 (.v 2), u1 .z], la := some 15 },
      { g := p, uses := [.dst (.v 1) 1, u1 .z, .line 0], la := some 0, path := some .ls }, { g := p, uses := [u1 .z, .src (.v 2) 1, .line 0], path := some .ls },
      { g := p, uses := .dst (.v 1) 1 :: far, la := some 0, cls := .a, path := some .fr }, { g := p, uses := far, cls := .a, path := some .fr },
      barInfo p .team [], engInfo p [u2 (.v 2), u1 .z, u1 .z], { g := p }, { g := p, noHandler := true, noCallee := true }] : List Info).all
      fun u => u.admits probe) = true ∧ (probe.ctx p).ex = 0 ∧ probe.plain = true := by decide +kernel

theorem witness_TrapReturn_room :
    (handling.begun []).endHolds handling.cur.id (handling.here.kept.m0 &&& handling.here.kept.amask) = false ∧
    (probe.begun []).endHolds probe.cur.id (probe.here.amask &&& ~~~(probe.ctx g0).ex) = false ∧
    (waving.begun [u1 (.imm 1)]).endHolds waving.cur.id (waving.here.amask &&& ~~~(waving.ctx g0).ex) = false ∧
    (probe.begun [u1 (.imm 1)]).endHolds probe.cur.id (probe.here.amask &&& (probe.begun [u1 (.imm 1)]).src (.imm 1) 0) = false := by
  decide +kernel

/-- The stream X of the group at the cursor. -/
def other (s : State) : State :=
  let t := s.modMyGroup fun g => { g with split := true, c.x := { g.c.a with live := true } }
  { t with cur := { t.cur with x := true } }

theorem witness_LineInstructionTraps :
    let s := opened probe
    let ld := fun n => ({ inf [.dst (.v 1) 1, u1 .z, .line n] with la := some 0, path := some .ls } : Info)
    let st := fun n => ({ inf [u1 .z, .src (.v 2) 1, .line n] with path := some .ls } : Info)
    let at_ := fun (u : Info) n => (s.begun u.uses).lineAt ((s.begun u.uses).lineRef s.cur.id n)
    let o := fun (m : BitVec 7) => (s.begun (ld 3).uses).lineOff (at0 3 m)
    let odd := fun f => maskOf fun i => (s.ctx g0).ex.getLsbD i && f i % 4 != 0
    let far := fun f => maskOf fun i => (s.ctx g0).ex.getLsbD i && decide (128 < f i + 4)
    let y := (s.begun (ld 3).uses).lineOff ⟨3, .imm 128, 0⟩
    runs s [ld 0, ld 2, ld 3, ld 6, ld 7, st 0, st 1, st 3, st 6, st 7] = true ∧
    ([0, 1, 2, 3, 6, 7].map fun n => (at_ (ld n) n).st) = [.empty, .opened, .opened, .opened, .recalled, .opening] ∧
    ((at_ (ld 2) 2).mode, (at_ (st 1) 1).mode, (at_ (ld 3) 3).mode, s.cur.id.x) = (1, 0, 2, false) ∧
    odd (o 1) ≠ 0 ∧ odd (o 124) = 0 ∧ odd y = 0 ∧ far y ≠ 0 ∧
    runs (other s) [ld 0, st 0] = true ∧ ((other s).ctx g0).id.x = true ∧
    (((other s).begun (ld 0).uses).lineRef ((other s).ctx g0).id 0).routine = false ∧
    (((other s).begun (ld 0).uses).lineAt (((other s).begun (ld 0).uses).lineRef ((other s).ctx g0).id 0)).st = .empty := by decide +kernel

theorem witness_FarInstructionTraps :
    let us := fun a : Src => ([u2 a, u1 .z, .src (.v 2) 1] : List Use)
    let amo := fun a => ({ inf (.dst (.v 1) 1 :: us a) with la := some 0, cls := .a, path := some .fr } : Info)
    let red := fun a => ({ inf (us a) with cls := .a, path := some .fr } : Info)
    let adr := fun a => (probe.begun (red a).uses).farAddr ⟨a, .z, 0⟩
    let odd := fun a => maskOf fun i => (probe.ctx g0).ex.getLsbD i && (adr a i).toNat % 4 != 0
    let out := fun a => maskOf fun i => (probe.ctx g0).ex.getLsbD i && (decide (2 ^ 56 ≤ (adr a i).toNat) || inWindow (adr a i).toNat)
    runs probe [amo (.imm 2), red (.imm 2), amo (.imm 0x80000000), red (.imm 0x80000000)] = true ∧
    odd (.imm 2) ≠ 0 ∧ odd (.imm 0x80000000) = 0 ∧ out (.imm 0x80000000) ≠ 0 := by decide +kernel

theorem witness_StagingObjects_room :
    let s := staged
    let c := s.ctx g0
    let one : Ctx := { c with ex := BitVec.twoPow 32 (low c.ex) }
    let r := s.begun [u1 .z, u1 (.imm 32), .line 4]
    let x := s.begun [d1 (.v 1), u1 .z, u1 (.imm 7), .line 4]
    r.journalRoom r.myCore 0 (scratchKey 0 0) = true ∧
    ((r.stage 0 32).init, (r.stage 0 0).init, (x.stage 0 0).phase, (x.src (.imm 7) 0).toNat % 65536) = (false, true, 7, 7) ∧
    Claims.line one r 4 16 (r.lineOff (at0 4 32)) (fun x => x.mode == 3) false (r.lineRef c.id 4) (r.lineAt (r.lineRef c.id 4)) :=
  ⟨by decide +kernel, by decide +kernel, line_holds _ _ _ _ _ _ _ (by decide +kernel) (by decide +kernel) (by decide +kernel) (by decide +kernel) (by decide +kernel)⟩

/-- The group's arrival at a scope stands; lanes are held for a barrier. -/
def slotted (x : BarSlot) (held : Mask) : State :=
  (probe.modMyGroup fun g => g.setSlot .team x).modHere fun st => st.setHolds held (some (.barrier .team))

theorem witness_Barriers_wrong :
    let us := [barInfo g0 .team [], barInfo g0 .team [u2 (.v 2)], { barInfo g0 .team [d2 (.v 2)] with path := none }]
    let all := BitVec.allOnes 32
    let standing : BarSlot := .pending .iadd 3 true false 5
    let mine := fun (s : State) => (s.ctx g0).ex &&& (s.begun []).here.heldFor (.barrier .team)
    let q := probe.begun []
    ([slotted standing all, slotted standing 1, slotted (BarSlot.released 5 true) all, slotted (BarSlot.released 5 true) 1, slotted (BarSlot.released 5 false) 0].all
      fun s => runs s us) = true ∧
    ((slotted standing all).begun []).myGroup.slot .team = standing ∧ mine (slotted standing all) = ((slotted standing all).ctx g0).ex ∧
    mine (slotted standing 1) ≠ ((slotted standing 1).ctx g0).ex ∧ ((slotted (BarSlot.released 5 true) all).begun []).myGroup.slot .team = .released 5 true ∧
    mine (slotted (BarSlot.released 5 true) all) = ((slotted (BarSlot.released 5 true) all).ctx g0).ex ∧
    mine (slotted (BarSlot.released 5 true) 1) ≠ ((slotted (BarSlot.released 5 true) 1).ctx g0).ex ∧
    (q.team 0).pending = none ∧ ((q.drainQueue probe.cur.id).departAll (q.teamCore 0) 0 0).allOut (q.teamCore 0) = true := by decide +kernel
theorem witness_Barriers_phase (p : Phase) : ({ p with has := true, op := .iadd } : Phase).has = true ∧
    ({ p with has := true, op := .iadd } : Phase).op ≠ .smax := ⟨rfl, show BarOp.iadd ≠ .smax by decide⟩

/-- A second team has the register of its group bound to a line of the first member's window. -/
def windowed : State :=
  (begun entered).setTeam 9 { probeTeam with cluster := some (3, 0), st := { probeTeam.st with groups := probeTeam.st.groups.map fun p =>
    (p.1, { p.2 with c := { p.2.c with lines := [(1, reg .opened 0 ((windowBase + 0x200000) / 128) 20)] } }) } }

theorem witness_Clusters_leaves :
    let l : Info := { alone [] with cls := .a, path := some .cl }
    let e := begun entered
    (runs e [l] && runs windowed [l]) = true ∧
    ((e.begun []).clearRel (e.ctx g0).id (e.ctx g0).ex).windowRegs 0 = [] ∧
    ((windowed.begun []).clearRel (windowed.ctx g0).id (windowed.ctx g0).ex).windowRegs 0 ≠ [] ∧ (windowed.begun []).clusterOf 0 ≠ none ∧
    (e.begun []).recallTakes 0 ((e.begun []).windowRegs 0) = true ∧
    (windowed.begun []).recallTakes 0 ((windowed.begun []).windowRegs 0) = true ∧
    (∀ q ∈ ((windowed.begun []).team 0).st.groups, SMap.get .clear q.2.barriers (scopeCode .cluster) = .clear) ∧
    Claims.released (windowed.ctx g0) (windowed.begun l.uses)
      (fun d x => x.releaseDone (windowed.ctx g0).id .cluster d && !x.writesTo 0 d) :=
  ⟨by decide +kernel, by decide +kernel, by decide +kernel, by decide +kernel, by decide +kernel, by decide +kernel, by decide +kernel,
    released_holds _ _ _ (by decide +kernel)⟩

theorem witness_MatrixUndeclared_second :
    let u := mmaInfo g0 0 7 127 0 31
    let i : Instr := .mma g0 0 false 3 7 127 0 31 1
    let j : Instr := .mmas g0 0 false 3 Sparsity.n8 7 127 0 31 1
    let s := fun i => probe.modMyGroup fun g => { g with c.mma := [⟨3, i, 0, 0, 0x40⟩] }
    (runs (s i) [u] && runs (s j) [u]) = true ∧ ((s i).ctx g0).ex &&& ~~~((s i).begun u.uses).myGroup.decl 3 = 0 ∧
    (∃ z ∈ ((s i).begun u.uses).myGroup.c.mma, z.cv = 3 ∧ z.i ≠ j) ∧ (∃ z ∈ ((s j).begun u.uses).myGroup.c.mma, z.cv = 3 ∧ z.i ≠ i) := by
  decide +kernel

theorem witness_EngineCommands_entries :
    let u := engInfo g0 [d1 (.v 1), u1 .z, u1 (.imm 64)]
    let r := probe.begun u.uses
    let recs := (List.range 64).map fun k => r.spadNat 0 (0 + 64 * k) 64
    runs probe [u] = true ∧ r.missingEntries (probe.ctx g0) recs = [] := by decide +kernel

theorem witness_Privileged_attempts :
    let t := fun (f : TlbForm) => ({ inf (tlbUses f) with cls := .a, level := 2 } : Info)
    let r := fun us => ({ inf us with cls := .a, level := 2 } : Info)
    let e := begun (opened probe)
    let fs : List TlbForm := [.all, .asid (.imm 0), .page (.imm 0) (.imm 0x280)]
    (fs.all fun f => runs probe [t f] && runs e [t f] && (probe.begun (tlbUses f)).tlbWhat f 0 != none) = true ∧
    runs (opened probe) [r [u1 (.imm 0), u2 (.imm 0x280)], r [u2 (.imm 0x280)]] = true ∧
    SMap.get none (probe.begun []).here.relWait (waitLo (probe.ctx g0).ex) = none ∧
    SMap.get none (e.begun []).here.relWait (waitLo (e.ctx g0).ex) = none ∧
    (∀ i ∈ maskLanes (probe.ctx g0).ex, SMap.get none (probe.begun []).here.relWait i = none) ∧
    Claims.released (e.ctx g0) (e.begun []) (fun d x => x.allReleased (e.ctx g0).id d) ∧
    (let q := (e.begun []).clearRel (e.ctx g0).id (e.ctx g0).ex
     (q.boundBy .all).isEmpty = false ∧ q.recallTakes 0 (q.boundBy .all) = true) ∧
    (let q := (opened probe).begun [u1 (.imm 0), u2 (.imm 0x280)]
     (q.recalled (.va (.imm 0) (.imm 0x280)) 0).isEmpty = false ∧ q.recallTakes 0 (q.recalled (.va (.imm 0) (.imm 0x280)) 0) = true) ∧
    (let ref : LineRef := ⟨0, 0, 0, false, false, 1⟩
     (e.group 0 0).depth = (e.group 0 0).frames.length ∧ (e.lineAt ref).st = .opened ∧ keyKind (e.lineAt ref).key ≠ 3) :=
  ⟨by decide +kernel, by decide +kernel, by decide +kernel, by decide +kernel, by decide +kernel, released_holds _ _ _ (by decide +kernel),
    by decide +kernel, by decide +kernel, by decide +kernel⟩

/-- A second team, weak, has its stream behind the first one's in a partition's rotation. -/
def sharing : State :=
  let s := (probe.setTeam 1 { probeTeam with cls := .weak }).setFetched ⟨0, 0, false⟩ 0 (some 0)
  (s.setFetched ⟨1, 0, false⟩ 0 (some 0)).modCore ⟨0, 0⟩ fun k =>
    { k with parts := [(0, ⟨[⟨1, 0, false, 1, [], 0⟩, ⟨0, 0, false, 1, [], 0⟩], 0⟩)] }

theorem witness_FrontEnd_candidates :
    sharing.candidates ⟨0, 0⟩ 0 = [(1, ⟨0, 0, false, 1, [], 0⟩), (0, ⟨1, 0, false, 1, [], 0⟩)] ∧ sharing.weak ⟨1, 0, false⟩ = true ∧
    sharing.weak id0 = false ∧ sharing.candidates ⟨0, 0⟩ 3 = [] := by
  have h := ready_at sharing id0 0 (by decide +kernel) (by decide +kernel) (by decide +kernel)
  have h' := ready_at sharing ⟨1, 0, false⟩ 0 (by decide +kernel) (by decide +kernel) (by decide +kernel)
  have h1 : (SMap.get ⟨[], 0⟩ (sharing.core ⟨0, 0⟩).parts 0).order =
      [(0, ⟨1, 0, false, 1, [], 0⟩), (1, ⟨0, 0, false, 1, [], 0⟩)] := by decide +kernel
  have h2 : sharing.weak id0 = false := by decide +kernel
  have h3 : sharing.weak ⟨1, 0, false⟩ = true := by decide +kernel
  have h4 : Rot.id ⟨0, 0, false, 1, [], 0⟩ = id0 := rfl
  have h5 : Rot.id ⟨1, 0, false, 1, [], 0⟩ = ⟨1, 0, false⟩ := rfl
  exact ⟨by simp [State.candidates, h1, h4, h5, h, h', h2, h3], h3, h2, by decide +kernel⟩

theorem witness_TranslationFaults_answered :
    (∀ w ∈ [walkOf .red .answered 0, walkOf .kvRead .answered 0], (((walking probe w).core ⟨0, 0⟩).walks.find? fun w => w.id == 8) = some w ∧
      w.phase = .answered ∧ (walking probe w).walkerFree ⟨0, 0⟩ w.kv = true) ∧
    (walkOf .red .walking 0).logged = false ∧ slotName 3 1 ≠ slotName 0 1 ∧
    (∀ r < 4, field ((answered r).readNat 0 (ringAddr ((answered r).die 0) 0) 1) 4 2 = r) := by decide +kernel

theorem witness_Checkpoints_sets :
    (∀ r ∈ (asked.core (asked.team 0).coreId).sets, r.complete = true → r.teams.contains 0 = false) ∧
    (∃ e ∈ (aging.core (aging.team 0).coreId).lehr, 0 ∈ e.owners ∧ e.sent = false) := by decide +kernel

/-- The firmware runs. -/
def booted (s : State) : State := s.modPkg fun p => { p with booted := true }

theorem witness_LaunchesAndTasks_firmware :
    (let s := (booted probe).modDie 0 fun d => { d with order := [8] }
     s.pkg.booted = true ∧ (s.die 0).throttled = false ∧ ((s.admitHead 0 false).map fun t => t.waits 0 false) = some false) ∧
    (probe.pkg.booted = false ∧ probe.waits 0 false = false) ∧
    (stealing.idle ⟨0, 6⟩ = false ∧ stealing.idle ⟨0, 5⟩ = false ∧ stealing.nextWave ⟨0, 5⟩ = none) ∧
    (((stealing.formWave ⟨0, 5⟩).formWave ⟨0, 6⟩).core ⟨0, 5⟩).tasks.length = 2 ∧
    (((probe.formWave ⟨0, 5⟩).formWave ⟨0, 6⟩).core ⟨0, 5⟩).tasks.length = 0 ∧ (probe.formWave ⟨0, 5⟩).idle ⟨0, 6⟩ = false ∧
    (waving1.toIssue = [] ∧ waving1.opened = false ∧ waving1.dueWave = some ⟨0, 5⟩) ∧ (probe.core ⟨0, 5⟩).tasks = [] := by decide +kernel

theorem witness_Fabric_pieces :
    let c := coll gathering
    let s := fabric [7] gathering
    (c.at 0 ≠ 2 ∧ s.contributes c = true ∧ (s.sendPieces 8 0 1).contributes c = true ∧ (s.sendPieces 8 0 1).mayReach (c.at 4) true = true ∧
      (s.sendPieces 8 0 1).piecesSent 8 0 1 = true) ∧
    ((fabric [] gathering).sendPieces 8 0 1).mayReach (c.at 4) true = false ∧
    (let t := s.modPkg fun p => { p with egress := { p.egress with rates := List.replicate 72 0 } }
     (t.sendPieces 8 0 1).mayReach (c.at 4) true = true ∧ (t.sendPieces 8 0 1).piecesSent 8 0 1 = false) ∧
    (let d := coll [3, 0, 0, 5, 7, 16, 0x310000, 0x320000, 0x330000]
     (fabric [7] [3, 0, 0, 5, 7, 16, 0x310000, 0x320000, 0x330000]).contributes d = false ∧ d.at 0 ≠ 2) := by decide +kernel

theorem witness_PackageControl_debug :
    (halted.debugLoc 0 0 (.vec false 191 31)).isSome = true ∧ (halted.debugLoc 0 0 (.line 15 true)).isSome = true ∧
    halted.recallRoom [⟨0, 0, (halted.group 0 0).depth, false, false, 15⟩] = true ∧
    halted.recallRoom (halted.boundRegs.filter fun r => r.team == 0) = true := by decide +kernel

theorem witness_TrapEntry_levels :
    let at_ := fun (n : Nat) => probe.modMyGroup fun g => { g with c.level := n }
    let split := fun (s : State) => s.modMyGroup fun g => { g with split := true, c.va := 4 }
    let ok := fun (s : State) (us : List Use) => us.all fun u => u.ok s.myGroup s.cur.x
    ([at_ 0, at_ 1, split (at_ 0), split (at_ 1)].all fun s => s.here.live && s.cur.lanes != 0 && s.here.mode == .normal && !s.cur.x &&
      ([tlbUses (.page (.s 31) (.s 30)), [u1 (.v 1), u2 (.v 2)], [u1 (.imm 5)], [u2 (.imm 5)], [.rejoin 1], []].all (ok s))) = true ∧
    (ok (at_ 0) [.dst (.v 124) 4, u2 (.v 126), u2 (.s 30)] && ok (split (at_ 0)) [.dst (.v 4) 4, u2 (.v 2), u2 (.s 30)] && ok (at_ 1) [u1 (.v 191), u2 (.v 190)]) = true ∧
    ((at_ 0).myGroup.c.level < 1 ∧ (at_ 1).myGroup.c.level < 2 ∧ (split (at_ 0)).myGroup.split = true) := by decide +kernel

theorem witness_MemoryReadsBack_places : hasMemory 0 = true ∧ hasMemory (0x120 * 2 ^ 32) = false ∧ hasMemory (0xFFF000000000 % 2 ^ 52) = true ∧
    (0 : Nat) % 2 ^ 52 = 2 ^ 52 % 2 ^ 52 := by decide

end

end Sys2Proof.Tests
end

section
/-!
PROOF. Main memory and host memory read back what is written (O58): what a write leaves of the tags and the frames the
device wrote, then one rule per read after a write.
-/

namespace Sys2Proof.Machine

/-! ## Frames that the device wrote -/

/-- A frame's record after a byte at an address is written over what the device left there. -/
def Veil.overwrittenAt (a : Nat) (v : Veil) : Veil :=
  if v.covers a then { v with since := SMap.set false v.since a true } else v

/-- The frame's own byte, as the device wrote it, still stands at an address. -/
def Veil.standsAt (a : Nat) (v : Veil) : Bool := v.covers a && !SMap.get false v.since a

theorem State.veilAt_eq (s : State) (a : Nat) : s.veilAt a = s.veils.find? (Veil.standsAt a) := rfl

@[simp] theorem Veil.overwrittenAt_date (a : Nat) (v : Veil) : (v.overwrittenAt a).date = v.date := by
  unfold Veil.overwrittenAt
  split <;> rfl

@[simp] theorem Veil.overwrittenAt_covers (a a' : Nat) (v : Veil) : (v.overwrittenAt a).covers a' = v.covers a' := by
  unfold Veil.overwrittenAt
  split <;> rfl

/-- No frame's own byte stands where a byte has been written since. -/
@[simp] theorem Veil.overwrittenAt_standsAt_same (a : Nat) (v : Veil) : (v.overwrittenAt a).standsAt a = false := by
  by_cases h : v.covers a = true
  · simp [Veil.overwrittenAt, Veil.standsAt, h]
  · simp [Veil.standsAt, h]

theorem Veil.overwrittenAt_standsAt_ne {a a' : Nat} (h : a' ≠ a) (v : Veil) :
    (v.overwrittenAt a).standsAt a' = v.standsAt a' := by
  by_cases hc : v.covers a = true
  · simp only [Veil.standsAt, Veil.overwrittenAt_covers]
    simp [Veil.overwrittenAt, hc, SMap.get_set_ne _ _ h]
  · simp [Veil.overwrittenAt, hc]

/-! ## What a byte written to main memory changes -/

/-- The state after a write where there is memory. -/
theorem State.writePa_of_hasMemory (s : State) {a : Nat} (h : hasMemory (wrapPa a) = true) (key : Nat) (b : Byte) :
    s.writePa key a b =
      { s with
        mem := Memory.write s.mem (wrapPa a) b
        memTag := SMap.set 0 s.memTag (wrapPa a) (s.keyTag key)
        veils := s.veils.map (Veil.overwrittenAt (wrapPa a)) } := by
  simp only [State.writePa, h, Bool.not_true, Bool.false_eq_true, if_false]
  rfl

theorem State.writePa_mem (s : State) {a : Nat} (h : hasMemory (wrapPa a) = true) (key : Nat) (b : Byte) :
    (s.writePa key a b).mem = Memory.write s.mem (wrapPa a) b := congrArg State.mem (s.writePa_of_hasMemory h key b)

theorem State.writePa_memTag (s : State) {a : Nat} (h : hasMemory (wrapPa a) = true) (key : Nat) (b : Byte) :
    (s.writePa key a b).memTag = SMap.set 0 s.memTag (wrapPa a) (s.keyTag key) :=
  congrArg State.memTag (s.writePa_of_hasMemory h key b)

theorem State.writePa_veils (s : State) {a : Nat} (h : hasMemory (wrapPa a) = true) (key : Nat) (b : Byte) :
    (s.writePa key a b).veils = s.veils.map (Veil.overwrittenAt (wrapPa a)) :=
  congrArg State.veils (s.writePa_of_hasMemory h key b)

/-- Where no memory stands nothing holds the byte (log 37). -/
theorem State.writePa_of_not_hasMemory (s : State) {a : Nat} (h : hasMemory (wrapPa a) = false) (key : Nat) (b : Byte) :
    s.writePa key a b = s := by
  simp [State.writePa, h]

/-- A write leaves no frame's own byte at its address. -/
theorem State.veilAt_writePa_same (s : State) {a : Nat} (h : hasMemory (wrapPa a) = true) (key : Nat) (b : Byte) :
    (s.writePa key a b).veilAt (wrapPa a) = none := by
  rw [State.veilAt_eq, s.writePa_veils h, List.find?_map, Option.map_eq_none_iff, List.find?_eq_none]
  intro v _
  rw [Function.comp_apply, Veil.overwrittenAt_standsAt_same]
  decide

/-- At every other address a write leaves the frame that stands there, by its date. -/
theorem State.veilAt_date_writePa_ne (s : State) {a i : Nat} (h : hasMemory (wrapPa a) = true) (hi : i ≠ wrapPa a)
    (key : Nat) (b : Byte) :
    ((s.writePa key a b).veilAt i).map Veil.date = (s.veilAt i).map Veil.date := by
  have stands : Veil.standsAt i ∘ Veil.overwrittenAt (wrapPa a) = Veil.standsAt i := by
    funext v
    rw [Function.comp_apply, Veil.overwrittenAt_standsAt_ne hi]
  have date : Veil.date ∘ Veil.overwrittenAt (wrapPa a) = Veil.date := by
    funext v
    rw [Function.comp_apply, Veil.overwrittenAt_date]
  rw [State.veilAt_eq, State.veilAt_eq, s.writePa_veils h, List.find?_map, stands, Option.map_map, date]

/-- A key's tag is the package's matter (R296), which a write leaves. -/
@[simp] theorem State.writePa_keyTag (s : State) (key a : Nat) (b : Byte) (k : Nat) :
    (s.writePa key a b).keyTag k = s.keyTag k := by
  simp [State.keyTag]

/-! ## Reads after a write -/

/-- All that a read under a key depends on: the key's tag, the byte at the address, the tag that byte was written under, the
date of a frame that stands there and, where there is no memory, the time. -/
theorem State.readPa_congr {s t : State} {a : Nat} (key : Nat) (time : t.time = s.time)
    (tag : t.keyTag key = s.keyTag key) (mem : Memory.read t.mem (wrapPa a) = Memory.read s.mem (wrapPa a))
    (memTag : SMap.get 0 t.memTag (wrapPa a) = SMap.get 0 s.memTag (wrapPa a))
    (veil : (t.veilAt (wrapPa a)).map Veil.date = (s.veilAt (wrapPa a)).map Veil.date) :
    t.readPa key a = s.readPa key a := by
  simp only [State.readPa, time, tag, mem, memTag]
  cases hs : s.veilAt (wrapPa a) with
  | none =>
    have ht : t.veilAt (wrapPa a) = none := by simpa [hs] using veil
    simp only [ht]
  | some v =>
    obtain ⟨w, ht, hd⟩ : ∃ w, t.veilAt (wrapPa a) = some w ∧ w.date = v.date := by simpa [hs] using veil
    simp only [ht, hd]

/-- A byte written where there is memory reads back under its key. -/
theorem State.readPa_writePa_same (s : State) {a : Nat} (h : hasMemory (wrapPa a) = true) (key : Nat) (b : Byte) :
    (s.writePa key a b).readPa key a = b := by
  have veil := s.veilAt_writePa_same h key b
  have tag : SMap.get 0 (s.writePa key a b).memTag (wrapPa a) = s.keyTag key := by
    rw [s.writePa_memTag h, SMap.get_set_same]
  have byte : Memory.read (s.writePa key a b).mem (wrapPa a) = b := by
    rw [s.writePa_mem h, Memory.read_write, if_pos rfl]
  simp [State.readPa, h, veil, tag, byte]

/-- Every other byte reads as before, under every key. -/
theorem State.readPa_writePa_ne (s : State) {a a' : Nat} (h : wrapPa a' ≠ wrapPa a) (key k : Nat) (b : Byte) :
    (s.writePa key a b).readPa k a' = s.readPa k a' := by
  cases hm : hasMemory (wrapPa a) with
  | false => rw [s.writePa_of_not_hasMemory hm]
  | true =>
    have byte : Memory.read (s.writePa key a b).mem (wrapPa a') = Memory.read s.mem (wrapPa a') := by
      rw [s.writePa_mem hm, Memory.read_write, if_neg h]
    have tag : SMap.get 0 (s.writePa key a b).memTag (wrapPa a') = SMap.get 0 s.memTag (wrapPa a') := by
      rw [s.writePa_memTag hm, SMap.get_set_ne _ _ h]
    exact State.readPa_congr k (by simp) (by simp) byte tag (s.veilAt_date_writePa_ne hm h key b)

/-- Host memory is one map of bytes over the wrapped address. -/
theorem State.readHost_writeHost (s : State) (a a' : Nat) (b : Byte) :
    (s.writeHost a b).readHost a' = if wrapPa a' = wrapPa a then b else s.readHost a' :=
  Memory.read_write s.hostMem (wrapPa a) (wrapPa a') b

end Sys2Proof.Machine

open Sys2Proof Sys2Proof.Machine

/-- Settles O58: a write puts the byte, its tag and the mark over a frame at one wrapped address, so the read there finds all
three and a read elsewhere finds what it found before. -/
theorem memoryReadsBack : Obligations.MemoryReadsBack :=
  ⟨reset_memoryForm, fun s key a _ b =>
    ⟨fun h => s.readPa_writePa_same h key b,
     fun h => s.writePa_of_not_hasMemory h key b,
     fun h k => s.readPa_writePa_ne h key k b,
     (s.readHost_writeHost a a b).trans (if_pos rfl),
     fun h => (s.readHost_writeHost a _ b).trans (if_neg h),
     fun h => ⟨State.writePa_memoryForm h key a b, State.writeHost_memoryForm h a b⟩⟩⟩

end

section
/-!
PROOF. Registers and operands (O4, O53, O54): the lowest lane of a mask, uniform registers after a write, a pair as a 64-bit
word, the handler's own registers, and the whole of MOVSR.
-/

namespace Sys2Proof.Machine

/-! ## The lowest lane of a mask -/

theorem maskLanes_pairwise_lt (m : Mask) : (maskLanes m).Pairwise (· < ·) := List.pairwise_lt_range.filter _

/-- No lane below the lowest one is in the mask. -/
theorem getLsbD_eq_false_of_lt_low {m : Mask} {i : Nat} (h : i < low m) : m.getLsbD i = false := by
  by_contra hi
  have hm : i ∈ maskLanes m := by
    have set : m.getLsbD i = true := by simpa using hi
    exact mem_maskLanes.2 ⟨BitVec.lt_of_getLsbD set, set⟩
  have sorted := maskLanes_pairwise_lt m
  simp only [low, lowest] at h
  cases hl : maskLanes m with
  | nil => simp [hl] at hm
  | cons a l =>
    rw [hl] at h hm sorted
    have ha : i < a := h
    rcases List.mem_cons.1 hm with rfl | hil
    · exact lt_irrefl _ ha
    · exact lt_asymm ha ((List.pairwise_cons.1 sorted).1 i hil)

/-! ## Registers after a write -/

/-- Of a uniform register's write the lowest executing lane's value stays (R24). -/
theorem State.uni_setDst_same (s : State) (n : Fin 32) {ex : Mask} (h : ex ≠ 0) (f : Nat → Word) :
    (s.setDst (.s n) ex f).here.uni n.val = f (low ex) := by
  have write : s.setDst (.s n) ex f = s.modHere fun st => st.put (.s n) ex f := rfl
  rw [write, State.here_modHere, Stream.uni_put _ _ h]
  exact if_pos rfl

/-- Where no lane executes, a uniform register's write leaves the stream as it was (R24). -/
theorem State.here_setDst_uni_zero (s : State) (n : Fin 32) (f : Nat → Word) :
    (s.setDst (.s n) 0 f).here = s.here := by
  have write : s.setDst (.s n) 0 f = s.modHere fun st => st.put (.s n) 0 f := rfl
  have same : s.here.put (.s n) 0 f = s.here := by simp [Stream.put]
  rw [write, State.here_modHere, same]

theorem State.here_setDst_z (s : State) (ex : Mask) (f : Nat → Word) : (s.setDst .z ex f).here = s.here :=
  State.here_modHere _

/-- A vector register's lane reads back after a write, in either bank. -/
theorem Stream.vec_setVec_same (st : Stream) (r i : Nat) (w : Word) : (st.setVec r i w).vec r i = w := by
  have bank : (st.setVec r i w).banked r = st.banked r := by simp [Stream.banked]
  unfold Stream.vec
  rw [bank]
  cases h : st.banked r <;> simp [Stream.setVec, h]

/-- In handler mode a write of v176 to v191 stays in the handler's own bank (R25). -/
theorem Stream.v_setVec_of_banked {st : Stream} {r : Nat} (h : st.banked r = true) (i : Nat) (w : Word) :
    (st.setVec r i w).v = st.v := by
  simp [Stream.setVec, h]

theorem Stream.bank_setVec_of_not_banked {st : Stream} {r : Nat} (h : st.banked r = false) (i : Nat) (w : Word) :
    (st.setVec r i w).bank = st.bank := by
  simp [Stream.setVec, h]

/-- A pair's high word stands above its low word (R23). -/
theorem pairOf_eq (lo hi : Word) : pairOf lo hi = hi.setWidth 64 <<< 32 ||| lo.setWidth 64 := by
  rw [pairOf, BitVec.append_def, BitVec.shiftLeftZeroExtend_eq, BitVec.setWidth'_eq]

/-! ## Special registers -/

/-- Counting an issue shortens the lookahead of pending results, and leaves what they will write. -/
theorem Stream.flagsPending_spend (st : Stream) (iss : Mask) : (st.spend iss).flagsPending = st.flagsPending := by
  simp only [Stream.flagsPending, Stream.spend, List.any_map]
  rfl

theorem State.flagsPending_begun (s : State) (us : List Use) :
    (s.begun us).here.flagsPending = s.here.flagsPending := by
  rw [State.here_begun]
  exact Stream.flagsPending_spend _ _

theorem State.dmr_begun {s : State} (hp : s.plain = true) (us : List Use) : (s.begun us).myGroup.dmr = .alone := by
  have alone : s.myGroup.dmr = .alone := by
    simp only [State.plain, Bool.and_eq_true, beq_iff_eq] at hp
    exact hp.1
  rw [(effect_begun us hp 0).dmr, alone]

/-- A group that executes alone feeds no trailing group (R377). -/
theorem State.feedTrailer_alone {s : State} {t g : Nat} (h : (s.group t g).dmr = .alone) (f : Nat → Feed) :
    s.feedTrailer t g f = s := by
  simp [State.feedTrailer, h]

/-- What MOVSR names (R117): a pair for a 64-bit special register. -/
def movsrInfo (g : Guard) (d : Dst) (r : SReg) : Info := { g := g, uses := [if sregWide r then d2 d else d1 d] }

/-- MOVSR from a group that executes alone writes what its lanes read of the special register. -/
theorem exec_movsr {g : Guard} {d : Dst} {r : SReg} {s : State} (hp : s.plain = true)
    (he : (movsrInfo g d r).executes s = true) (hf : r = .fstat → s.here.flagsPending = false) :
    let q := s.begun (movsrInfo g d r).uses
    let c := s.ctx g
    exec (.movsr g d r) s = .next (State.passed
      (if sregWide r then q.setPair d c.ex fun i => q.sreg r i else q.setDst d c.ex fun i => (q.sreg r i).setWidth 32)
      (movsrInfo g d r).uses c) := by
  refine issue_done he ?_
  have ready : ¬ (r = .fstat ∧ (s.begun (movsrInfo g d r).uses).here.flagsPending = true) := by
    rintro ⟨hr, hpend⟩
    rw [State.flagsPending_begun, hf hr] at hpend
    cases hpend
  have alone := State.dmr_begun hp (movsrInfo g d r).uses
  have lone (f : Nat → Feed) := State.feedTrailer_alone alone f
  simp only [movsrInfo] at ready alone lone ⊢
  simp only [if_neg ready, alone]
  rw [lone]

end Sys2Proof.Machine

open Sys2Proof Sys2Proof.Machine

/-- Settles O4: MOVSR writes what the accessor reads in the state in which its issue has begun, a pair for a 64-bit register,
and such a write changes nothing beside its destination. -/
theorem readSpecialRegister : Obligations.ReadSpecialRegister := by
  intro g d r s hp u he hf
  refine ⟨_, exec_movsr hp he hf, ?_⟩
  cases hw : sregWide r with
  | true => exact result_setPair he hp d (by simp [u, hw, d2]) _
  | false => exact result_setDst he hp d _

/-- Settles O53: a uniform register is read without its lane, and a write keeps the value of the lowest lane of the mask. -/
theorem uniformRegisters : Obligations.UniformRegisters := fun s n ex f =>
  ⟨fun _ _ => rfl, rfl,
   fun h => ⟨s.uni_setDst_same n h f, (mem_maskLanes.1 (low_mem h)).2, fun _ hi => getLsbD_eq_false_of_lt_low hi⟩,
   fun h => by rw [h, s.here_setDst_uni_zero]⟩

/-- Settles O54: each code reads its own part of the state, z and p0 take no write, and the mode alone says which of the two
files a write of v176 to v191 reaches. -/
theorem operandCodes : Obligations.OperandCodes := by
  intro s st n i w ex m f
  refine ⟨rfl, rfl, rfl, rfl, pairOf_eq _ _, rfl, s.here_setDst_z ex f, Stream.pred_zero _ _ rfl, Stream.pred_zero _ _ rfl,
    fun hmode hn => ?handler, fun h => ?ordinary⟩
  case handler =>
    have banked : st.banked n.val = true := by simp [Stream.banked, hmode, hn]
    exact ⟨st.vec_setVec_same _ _ _, Stream.v_setVec_of_banked banked _ _⟩
  case ordinary =>
    have banked : st.banked n.val = false := by
      rcases h with hmode | hn
      · simp [Stream.banked, hmode]
      · simp [Stream.banked, Nat.not_le.2 hn]
    exact ⟨st.vec_setVec_same _ _ _, Stream.bank_setVec_of_not_banked banked _ _⟩

end

section
/-!
PROOF. What the machine holds after reset (O59).
-/

open Sys2Proof Sys2Proof.Machine

/-- Settles O59: every map of the reset state is empty, so each accessor reads its default: a team that is off, a die at CLK 0,
a queue block of zero, a core without commands, a clean granule. -/
theorem resetState : Obligations.ResetState :=
  ⟨fun _ => rfl, fun _ => rfl, rfl, rfl, rfl, rfl, rfl, fun _ _ => rfl, fun _ => rfl, fun _ => rfl⟩

end

section
/-!
PROOF. Fetches of lines and writes at their places (O41): what each step comes to, one rule for each kind of line and of write.
-/

namespace Sys2Proof.Machine

/-! ## A fetch lands (R31, R204, R226, R228) -/

/-- The step of the device is the fetch's own. -/
theorem exec_lineFetchLands (ref : LineRef) (s : State) : exec (.lineFetchLands ref) s = execLineFetchLands ref s := rfl

/-- A window line is neither a scratchpad line nor a key-value line, whose modes are 3 and 4 (R228). -/
theorem LineReg.mode_of_windowed {l : LineReg} (h : l.windowed = true) : l.mode ≠ 3 ∧ l.mode ≠ 4 := by
  simp only [LineReg.windowed, Bool.and_eq_true, bne_iff_ne] at h
  exact h.1

/-- The translation that a register's line of memory asks for: to read, or to read and write in mode `.rw`. -/
def State.lineTranslation (s : State) (ref : LineRef) : Tx × State :=
  let l := s.lineAt ref
  s.translate (s.teamCore ref.team) (if l.mode = 2 then .openRw else .openRead)
    ((s.group ref.team ref.grp).ctxAt ref.depth).asid (128 * l.line + l.byte) l.lanes ref.grp 0 l.bound false

section
variable {s : State} {ref : LineRef} (opening : (s.lineAt ref).st = .opening) (sound : (s.lineAt ref).fault = none)
include opening sound

/-- `.write` needs no bytes: the register opens at once. -/
theorem lineFetchLands_write (mode : (s.lineAt ref).mode = 1) (near : (s.lineAt ref).windowed = false) :
    exec (.lineFetchLands ref) s = .next (s.lineOpens ref { s.lineAt ref with fetched := s.time }) := by
  simp [exec_lineFetchLands, execLineFetchLands, opening, sound, mode, near]

/-- A scratchpad line opens once it is present. -/
theorem lineFetchLands_pad (mode : (s.lineAt ref).mode = 3) (present : s.present ref.team (s.lineAt ref).line = true) :
    exec (.lineFetchLands ref) s = .next (s.lineOpens ref { s.lineAt ref with fetched := s.time }) := by
  simp [exec_lineFetchLands, execLineFetchLands, opening, sound, mode, present]

/-- A window address that names no member's scratchpad is fatal. -/
theorem lineFetchLands_window_none (far : (s.lineAt ref).windowed = true) (kind : keyKind (s.lineAt ref).key ≠ 3)
    (target : s.windowTarget ref.team (128 * (s.lineAt ref).line) = none) :
    exec (.lineFetchLands ref) s =
      .next (s.lineFatal ref (s.lineAt ref) (128 * (s.lineAt ref).line + (s.lineAt ref).byte)) := by
  obtain ⟨noPad, noKv⟩ := LineReg.mode_of_windowed far
  simp [exec_lineFetchLands, execLineFetchLands, opening, sound, far, noPad, noKv, kind, target]

/-- A window line is the member's scratchpad line, whose place its entry and its register note. -/
theorem lineFetchLands_window (far : (s.lineAt ref).windowed = true) (kind : keyKind (s.lineAt ref).key ≠ 3) {m off : Nat}
    (target : s.windowTarget ref.team (128 * (s.lineAt ref).line) = some (m, off)) :
    let l' := { s.lineAt ref with pa := scratchKey m (off / 128), w := true }
    let q := s.modEntry (s.teamCore ref.team) (s.lineAt ref).key fun x => { x with win := some (m, off) }
    exec (.lineFetchLands ref) s =
      .next (if (s.lineAt ref).mode = 1 then q.lineOpens ref { l' with fetched := q.time }
        else if q.present m (off / 128) then q.lineArrives ref l' else q.again (.lineFetchLands ref)) := by
  obtain ⟨noPad, noKv⟩ := LineReg.mode_of_windowed far
  simp [exec_lineFetchLands, execLineFetchLands, opening, sound, far, noPad, noKv, kind, target]

/-- A line of memory whose translation stands arrives with its place, its page's size and rights, and its key. -/
theorem lineFetchLands_memory (mode : (s.lineAt ref).mode = 0 ∨ (s.lineAt ref).mode = 2)
    (kind : keyKind (s.lineAt ref).key ≠ 3) (near : (s.lineAt ref).windowed = false) {t : Trans} {r : State}
    (found : s.lineTranslation ref = (.ok t, r)) :
    exec (.lineFetchLands ref) s = .next (r.lineArrives ref
      { s.lineAt ref with
        pa := t.addr (s.teamCore ref.team).die (128 * (s.lineAt ref).line), size := t.size, host := t.host, w := t.w,
        kid := t.key }) := by
  obtain ⟨noWrite, noPad, noKv⟩ : (s.lineAt ref).mode ≠ 1 ∧ (s.lineAt ref).mode ≠ 3 ∧ (s.lineAt ref).mode ≠ 4 := by omega
  rw [State.lineTranslation] at found
  simp only [exec_lineFetchLands, execLineFetchLands, opening, sound, near, noWrite, noPad, noKv, kind, found, ne_eq,
    not_true_eq_false, Option.isSome_none, Bool.false_eq_true, or_self, false_and, if_false]

/-- A fatal translation stays with the register (R294). -/
theorem lineFetchLands_memory_fatal (mode : (s.lineAt ref).mode = 0 ∨ (s.lineAt ref).mode = 2)
    (kind : keyKind (s.lineAt ref).key ≠ 3) (near : (s.lineAt ref).windowed = false) {r : State}
    (found : s.lineTranslation ref = (.fatal, r)) :
    exec (.lineFetchLands ref) s =
      .next (r.lineFatal ref (s.lineAt ref) (128 * (s.lineAt ref).line + (s.lineAt ref).byte)) := by
  obtain ⟨noWrite, noPad, noKv⟩ : (s.lineAt ref).mode ≠ 1 ∧ (s.lineAt ref).mode ≠ 3 ∧ (s.lineAt ref).mode ≠ 4 := by omega
  rw [State.lineTranslation] at found
  simp only [exec_lineFetchLands, execLineFetchLands, opening, sound, near, noWrite, noPad, noKv, kind, found, ne_eq,
    not_true_eq_false, Option.isSome_none, Bool.false_eq_true, or_self, false_and, if_false]

end

/-- R31, R204, R226, R228: the kinds of lines, one rule each. -/
theorem lineFetches : Claims.LineFetches := by
  intro s ref l c opening sound
  refine ⟨fun mode near => lineFetchLands_write opening sound mode near,
    fun mode present => lineFetchLands_pad opening sound mode present,
    fun far kind => ⟨fun target => lineFetchLands_window_none opening sound far kind target, fun m off target => ?window⟩,
    fun mode kind near t r => ⟨fun found => lineFetchLands_memory opening sound mode kind near found,
      fun found => lineFetchLands_memory_fatal opening sound mode kind near found⟩⟩
  case window =>
    have step := lineFetchLands_window opening sound far kind target
    refine ⟨fun mode => ?_, fun mode present => ?_⟩
    · rw [step, if_pos mode]
      rfl
    · rw [step, if_neg mode, if_pos present]

/-! ## A sent write is applied (R206, R228, R236, R251, R280) -/

theorem exec_departureApplied (c : CoreId) (id : Nat) (s : State) :
    exec (.departureApplied c id) s = execDepartureApplied c id s := rfl

theorem exec_frUpdateMerge (c : CoreId) (id : Nat) (s : State) :
    exec (.frUpdateMerge c id) s = execFrUpdateMerge c id s := rfl

theorem exec_cmcastLanding (c : CoreId) (id : Nat) (s : State) :
    exec (.cmcastLanding c id) s = execCmcastLanding c id s := rfl

theorem exec_cmcastTimedPresence (c : CoreId) (id : Nat) (s : State) :
    exec (.cmcastTimedPresence c id) s = execCmcastTimedPresence c id s := rfl

theorem exec_amoPerformed (id : StreamId) (n : Nat) (s : State) :
    exec (.amoPerformed id n) s = execAmoPerformed id n s := rfl

section
variable {s : State} {c : CoreId} {id : Nat} {e : LehrEntry}
  (entry : (s.core c).lehr.find? (fun e => e.id == id) = some e) (sent : e.sent = true)
include entry sent

/-- A departure to memory goes by its translation. -/
theorem departureApplied_mem {asid va rep bs clean} (work : e.work = .depart asid va .mem rep bs clean) :
    exec (.departureApplied c id) s =
      .next (s.writeLookup c e .departure asid va 0 fun t r => r.departMem c e va rep bs clean t) := by
  simp [exec_departureApplied, execDepartureApplied, entry, sent, work]

/-- A departure to another member's scratchpad lands when nothing earlier of its page waits and there is room to undo it. -/
theorem departureApplied_window {asid va u off bs clean} (work : e.work = .depart asid va (.window u off) none bs clean)
    (turn : (s.core c).behind e = false) (room : s.journalRoom (s.teamCore u) e.team (scratchKey u (off / 128)) = true) :
    exec (.departureApplied c id) s = .next (s.departPad c e u off bs) := by
  simp [exec_departureApplied, execDepartureApplied, entry, sent, work, turn, room]

theorem departureApplied_kv {asid va pa key bs clean} (work : e.work = .depart asid va (.kv pa key) none bs clean)
    (turn : (s.core c).behind e = false) :
    exec (.departureApplied c id) s = .next (s.departKv c e pa key bs clean) := by
  simp [exec_departureApplied, execDepartureApplied, entry, sent, work, turn]

/-- An engine's unit goes through the translations of its service; host memory takes it in its turn. -/
theorem departureApplied_engine {cmd unit asid o} (work : e.work = .engine cmd unit asid o)
    (turn : (s.core c).behind e = false) (unlogged : (s.core c).logged e = false)
    (host : (∀ v ∈ o.via, v.tr.host = false) ∨ (s.core c).hostTurn e = true) :
    exec (.departureApplied c id) s = .next (s.applyEngine c e cmd unit o) := by
  have free : (o.via.any (·.tr.host) && !(s.core c).hostTurn e) = false := by
    rcases host with device | hostTurn
    · have noHost : o.via.any (·.tr.host) = false := by simpa using device
      rw [noHost, Bool.false_and]
    · simp [hostTurn]
  simp [exec_departureApplied, execDepartureApplied, entry, sent, work, turn, unlogged, free]

/-- An update is looked up at its lowest lane's address, and merged where its page is no host memory (R236, R280). -/
theorem frUpdateMerge_update {op asid va x lead lanes} (work : e.work = .update op asid va x lead lanes) :
    exec (.frUpdateMerge c id) s =
      .next (s.writeLookup c e .red asid lead.toNat lanes fun t r =>
        if t.host then r.discard c e
        else (((r.dropEntry c id).farApply c.die t va.toNat op x true).2.noteWrite (memWatch (t.addr c.die va.toNat)))) := by
  simp [exec_frUpdateMerge, execFrUpdateMerge, entry, sent, work]

/-- A multicast's write lands once there is room to undo it (R237). -/
theorem cmcastLanding_land {cast u off bytes pois} (work : e.work = .land cast u off bytes pois)
    (room : s.journalRoom (s.teamCore u) e.team (scratchKey u (off / 128)) = true) :
    exec (.cmcastLanding c id) s = .next (s.castLands c e cast u off bytes pois) := by
  simp [exec_cmcastLanding, execCmcastLanding, entry, sent, work, room]

end

/-- A timed multicast's presence comes when every landing has arrived and CLK has reached its time (R238). -/
theorem cmcastTimedPresence_due {s : State} {c : CoreId} {id : Nat} {k : Cast} {d : DWord}
    (cast : (s.core c).casts.find? (fun k => k.id == id) = some k) (timed : k.at_ = some d) (landed : k.left = 0)
    (due : d.toNat ≤ (s.clk c.die).toNat) :
    exec (.cmcastTimedPresence c id) s = .next (s.castPresent c k) := by
  simp [exec_cmcastTimedPresence, execCmcastTimedPresence, cast, timed, landed, due]

/-- Outside any call, a group's one context is the one it runs in. -/
theorem Group.ctxAt_zero {g : Group} (h : g.depth = 0) : g.ctxAt 0 = g.c := by
  simp [Group.ctxAt, h]

/-- Outside any call an atomic returns to its stream as it stands. -/
theorem amoPerformed_level {s : State} {st : StreamId} {id : Nat} (depth : (s.group st.team st.grp).depth = 0)
    (flies : ((s.stream st).amos.any fun a => a.id == id) = true) :
    (List.range ((s.group st.team st.grp).depth + 1)).find? (fun d =>
      (((s.group st.team st.grp).ctxAt d).stream st.x).amos.any fun a => a.id == id) = some 0 := by
  have here : (((s.group st.team st.grp).c.stream st.x).amos.any fun a => a.id == id) = true := flies
  simp [depth, Group.ctxAt_zero depth, here]

/-- An atomic that raises no trap lets its group end (R236). -/
theorem amoPerformed_ends {s q : State} {st : StreamId} {id : Nat} (depth : (s.group st.team st.grp).depth = 0)
    (flies : ((s.stream st).amos.any fun a => a.id == id) = true) (step : s.amoStep st id = (q, none)) :
    exec (.amoPerformed st id) s = .next (q.endGroup st.team st.grp) := by
  simp only [exec_amoPerformed, execAmoPerformed, amoPerformed_level depth flies, step]
  rw [if_pos depth.symm]

/-- A machine check of an atomic is taken at once, a page trap falls due (R294, R374). -/
theorem amoPerformed_traps {s q : State} {st : StreamId} {id : Nat} {k : TrapRec}
    (depth : (s.group st.team st.grp).depth = 0) (flies : ((s.stream st).amos.any fun a => a.id == id) = true)
    (step : s.amoStep st id = (q, some k)) :
    exec (.amoPerformed st id) s = .next (if k.code = 14 then q.takeTrap st k else q.lateTrap st k) := by
  simp only [exec_amoPerformed, execAmoPerformed, amoPerformed_level depth flies, step]
  rw [if_pos depth.symm]

/-- R206, R228, R236, R280, R237, R238: every write at its place, one rule each. -/
theorem writesApplied : Claims.WritesApplied := by
  intro s c id e t r
  refine ⟨fun entry sent => ⟨?mem, ?window, ?kv, ?engine, ?update, ?land⟩, ?timed, ?amo⟩
  case mem =>
    intro asid va rep bs clean work found
    rw [departureApplied_mem entry sent work, found]
  case window =>
    intro asid va u off bs clean work turn room
    exact departureApplied_window entry sent work turn room
  case kv =>
    intro asid va pa key bs clean work turn
    exact departureApplied_kv entry sent work turn
  case engine =>
    intro cmd unit asid o work turn unlogged host
    exact departureApplied_engine entry sent work turn unlogged host
  case update =>
    intro op asid va x lead lanes work host found
    rw [frUpdateMerge_update entry sent work, found, host]
    rfl
  case land =>
    intro cast u off bytes pois work room
    exact cmcastLanding_land entry sent work room
  case timed =>
    intro k d cast timed landed due
    exact cmcastTimedPresence_due cast timed landed due
  case amo =>
    intro st depth flies
    rcases step : s.amoStep st id with ⟨q, _ | k⟩
    · exact amoPerformed_ends depth flies step
    · exact amoPerformed_traps depth flies step

end Sys2Proof.Machine

open Sys2Proof Sys2Proof.Machine

/-- Settles O41: each kind of line and each kind of write passes the checks before its own branch of the step. -/
theorem linesAndWrites : Obligations.LinesAndWrites := ⟨lineFetches, writesApplied⟩

end

section
/-!
PROOF. Encoding and decoding agree (O50).
-/

namespace Sys2Proof.Laws

/-- R46-R66 for every instruction, by its own rule: the steps of the device, from `pollRetry` on, have no word. -/
theorem Encoding.statement_holds : ∀ i : Instr, Encoding.Statement i
  | .nop => Encoding.nop | .bra .. => Encoding.bra .. | .brx .. => Encoding.brx .. | .call .. => Encoding.call ..
  | .ret .. => Encoding.ret .. | .exit .. => Encoding.exit .. | .yield .. => Encoding.yield ..
  | .poll .. => Encoding.poll .. | .lwait .. => Encoding.lwait .. | .enrol .. => Encoding.enrol ..
  | .park .. => Encoding.park .. | .strike .. => Encoding.strike .. | .brk .. => Encoding.brk ..
  | .iadd .. => Encoding.iadd .. | .isub .. => Encoding.isub .. | .imul .. => Encoding.imul ..
  | .imulh .. => Encoding.imulh .. | .imad .. => Encoding.imad .. | .imin .. => Encoding.imin ..
  | .imax .. => Encoding.imax .. | .iabs .. => Encoding.iabs .. | .iadd64 .. => Encoding.iadd64 ..
  | .imad64 .. => Encoding.imad64 .. | .lea .. => Encoding.lea .. | .sel .. => Encoding.sel ..
  | .icmp .. => Encoding.icmp .. | .idiv .. => Encoding.idiv .. | .irem .. => Encoding.irem .. | .and .. => Encoding.and ..
  | .or .. => Encoding.or .. | .xor .. => Encoding.xor .. | .shl .. => Encoding.shl .. | .shr .. => Encoding.shr ..
  | .sar .. => Encoding.sar .. | .rot .. => Encoding.rot .. | .popc .. => Encoding.popc .. | .clz .. => Encoding.clz ..
  | .brev .. => Encoding.brev .. | .bfe .. => Encoding.bfe .. | .bfi .. => Encoding.bfi .. | .mov .. => Encoding.mov ..
  | .plop .. => Encoding.plop .. | .pmov .. => Encoding.pmov .. | .movsr .. => Encoding.movsr ..
  | .vote .. => Encoding.vote .. | .shfl .. => Encoding.shfl .. | .redg .. => Encoding.redg ..
  | .scan .. => Encoding.scan .. | .part .. => Encoding.part .. | .matchLanes .. => Encoding.matchLanes ..
  | .compact .. => Encoding.compact .. | .regrp .. => Encoding.regrp .. | .fadd .. => Encoding.fadd ..
  | .fmul .. => Encoding.fmul .. | .ffma .. => Encoding.ffma .. | .fmin .. => Encoding.fmin ..
  | .fmax .. => Encoding.fmax .. | .fcmp .. => Encoding.fcmp .. | .frnd .. => Encoding.frnd ..
  | .hadd2 .. => Encoding.hadd2 .. | .hmul2 .. => Encoding.hmul2 .. | .hfma2 .. => Encoding.hfma2 ..
  | .dadd .. => Encoding.dadd .. | .dmul .. => Encoding.dmul .. | .dfma .. => Encoding.dfma ..
  | .dmin .. => Encoding.dmin .. | .dmax .. => Encoding.dmax .. | .dcmp .. => Encoding.dcmp ..
  | .fcvt .. => Encoding.fcvt .. | .rcp .. => Encoding.rcp .. | .rsq .. => Encoding.rsq .. | .sqrt .. => Encoding.sqrt ..
  | .ex2 .. => Encoding.ex2 .. | .lg2 .. => Encoding.lg2 .. | .sin .. => Encoding.sin .. | .cos .. => Encoding.cos ..
  | .tanh .. => Encoding.tanh .. | .tblev .. => Encoding.tblev .. | .tblsw .. => Encoding.tblsw ..
  | .drcp .. => Encoding.drcp .. | .dsqrt .. => Encoding.dsqrt .. | .qnt .. => Encoding.qnt ..
  | .dqnt .. => Encoding.dqnt .. | .bscale .. => Encoding.bscale .. | .cvtf .. => Encoding.cvtf ..
  | .pack6 .. => Encoding.pack6 .. | .unpk6 .. => Encoding.unpk6 .. | .pack4 .. => Encoding.pack4 ..
  | .unpk4 .. => Encoding.unpk4 .. | .smooth .. => Encoding.smooth .. | .openLine .. => Encoding.openLine ..
  | .openReopen .. => Encoding.openReopen .. | .opens .. => Encoding.opens .. | .close .. => Encoding.close ..
  | .flush .. => Encoding.flush .. | .ld .. => Encoding.ld .. | .st .. => Encoding.st .. | .linfo .. => Encoding.linfo ..
  | .llk .. => Encoding.llk .. | .sul .. => Encoding.sul .. | .amo .. => Encoding.amo .. | .red .. => Encoding.red ..
  | .scat .. => Encoding.scat .. | .cmcast .. => Encoding.cmcast .. | .mst .. => Encoding.mst ..
  | .fence .. => Encoding.fence .. | .xfence .. => Encoding.xfence .. | .afence .. => Encoding.afence ..
  | .bar .. => Encoding.bar .. | .bara .. => Encoding.bara .. | .barw .. => Encoding.barw ..
  | .sbinit .. => Encoding.sbinit .. | .sbexp .. => Encoding.sbexp .. | .sbarv .. => Encoding.sbarv ..
  | .sbwait .. => Encoding.sbwait .. | .cjoin .. => Encoding.cjoin .. | .cleave .. => Encoding.cleave ..
  | .cpy .. => Encoding.cpy .. | .cpwait .. => Encoding.cpwait .. | .kick .. => Encoding.kick ..
  | .gthr .. => Encoding.gthr .. | .emb .. => Encoding.emb .. | .cpstBt .. => Encoding.cpstBt ..
  | .cpstTkt .. => Encoding.cpstTkt .. | .mma .. => Encoding.mma .. | .mmas .. => Encoding.mmas ..
  | .maccZero .. => Encoding.maccZero .. | .maccInit .. => Encoding.maccInit .. | .maccMov .. => Encoding.maccMov ..
  | .maccRd .. => Encoding.maccRd .. | .maccWr .. => Encoding.maccWr .. | .maccRdst .. => Encoding.maccRdst ..
  | .maccWrst .. => Encoding.maccWrst .. | .maccDecl .. => Encoding.maccDecl .. | .mrel .. => Encoding.mrel ..
  | .smax .. => Encoding.smax .. | .sexp .. => Encoding.sexp .. | .smerge .. => Encoding.smerge ..
  | .cred .. => Encoding.cred .. | .tdone .. => Encoding.tdone .. | .gcond .. => Encoding.gcond ..
  | .gsig .. => Encoding.gsig .. | .kvopen .. => Encoding.kvopen .. | .kvfill .. => Encoding.kvfill ..
  | .kvmap .. => Encoding.kvmap .. | .kvfork .. => Encoding.kvfork .. | .kvdrop .. => Encoding.kvdrop ..
  | .gcall .. => Encoding.gcall .. | .gret .. => Encoding.gret .. | .trap .. => Encoding.trap ..
  | .eret .. => Encoding.eret .. | .setsr .. => Encoding.setsr .. | .setsrAmask .. => Encoding.setsrAmask ..
  | .setsrLpc .. => Encoding.setsrLpc .. | .dmrbeg .. => Encoding.dmrbeg .. | .dmrend .. => Encoding.dmrend ..
  | .rgn .. => Encoding.rgn .. | .halt .. => Encoding.halt .. | .tlbinv .. => Encoding.tlbinv ..
  | .recall .. => Encoding.recall .. | .pollRetry .. => Encoding.pollRetry .. | .lwaitWake .. => Encoding.lwaitWake ..
  | .lineFetchLands .. => Encoding.lineFetchLands .. | .amoPerformed .. => Encoding.amoPerformed ..
  | .frUpdateMerge .. => Encoding.frUpdateMerge .. | .cmcastLanding .. => Encoding.cmcastLanding ..
  | .cmcastTimedPresence .. => Encoding.cmcastTimedPresence .. | .barrierArrival .. => Encoding.barrierArrival ..
  | .barrierRelease .. => Encoding.barrierRelease .. | .embExchange .. => Encoding.embExchange ..
  | .commandServiceStart .. => Encoding.commandServiceStart .. | .engineUnitLands .. => Encoding.engineUnitLands ..
  | .credContribution .. => Encoding.credContribution .. | .gateAbort .. => Encoding.gateAbort ..
  | .compareRecord .. => Encoding.compareRecord .. | .fetchLine .. => Encoding.fetchLine ..
  | .issueGrant .. => Encoding.issueGrant .. | .longLatencyWriteback .. => Encoding.longLatencyWriteback ..
  | .trapEntry .. => Encoding.trapEntry .. | .pageWalk .. => Encoding.pageWalk .. | .kvWalk .. => Encoding.kvWalk ..
  | .faultRecord .. => Encoding.faultRecord .. | .faultResponse .. => Encoding.faultResponse ..
  | .departureApplied .. => Encoding.of_none rfl | .checkpointTaken .. => Encoding.checkpointTaken ..
  | .checkpointSafe .. => Encoding.checkpointSafe .. | .lehrAgeTimeout .. => Encoding.lehrAgeTimeout ..
  | .strikeReport .. => Encoding.strikeReport .. | .rollback .. => Encoding.rollback ..
  | .memoryUncorrectable .. => Encoding.memoryUncorrectable .. | .flitCrcError .. => Encoding.flitCrcError ..
  | .planeFailure .. => Encoding.planeFailure .. | .launchSubmit .. => Encoding.launchSubmit ..
  | .teamAdmission .. => Encoding.teamAdmission .. | .timedLaunchStart .. => Encoding.timedLaunchStart ..
  | .teamEnd .. => Encoding.teamEnd .. | .taskDeal .. => Encoding.taskDeal ..
  | .waveFormation .. => Encoding.waveFormation .. | .stealRequest .. => Encoding.stealRequest ..
  | .stealRetry .. => Encoding.stealRetry .. | .graphSubmit .. => Encoding.graphSubmit ..
  | .nodeCompletion .. => Encoding.nodeCompletion .. | .gcondUpdate .. => Encoding.gcondUpdate ..
  | .gsigArrival .. => Encoding.gsigArrival .. | .queueDoorbell .. => Encoding.queueDoorbell ..
  | .queueEntry .. => Encoding.queueEntry .. | .hostBar2Access .. => Encoding.hostBar2Access ..
  | .configWrite .. => Encoding.configWrite .. | .collectiveSubmit .. => Encoding.collectiveSubmit ..
  | .collectiveChunk .. => Encoding.collectiveChunk .. | .egressFlit .. => Encoding.egressFlit ..
  | .packageReset .. => Encoding.packageReset .. | .attestationRequest .. => Encoding.attestationRequest ..
  | .keyLoad .. => Encoding.keyLoad .. | .powerClamp .. => Encoding.powerClamp ..
  | .thermalLimit .. => Encoding.thermalLimit .. | .managementAccess .. => Encoding.managementAccess ..
  | .debugResume .. => Encoding.debugResume .. | .preemptRequest .. => Encoding.preemptRequest ..
  | .drainTimeout .. => Encoding.drainTimeout .. | .saveRequest .. => Encoding.saveRequest ..
  | .saveSpill .. => Encoding.saveSpill .. | .restoreRequest .. => Encoding.restoreRequest ..
  | .restoreLoad .. => Encoding.restoreLoad .. | .hostLinkTraining .. => Encoding.hostLinkTraining ..

end Sys2Proof.Laws

open Sys2Proof

/-- Settles O50: one rule for each constructor of `Instr`. -/
theorem encodingAgrees : Obligations.EncodingAgrees := Laws.Encoding.statement_holds
end

section
/-!
PROOF. Program counters (O52): the slot and the line of a program counter as numbers, of the next one and of a branch's target.
-/

namespace Sys2Proof.Machine

/-! ## The two parts of a program counter (R37) -/

theorem pcSlot_eq (pc : DWord) : pcSlot pc = pc.toNat % 8 := by
  simp [pcSlot, BitVec.extractLsb'_toNat]

theorem pcLine_eq (pc : DWord) : pcLine pc = pc.toNat / 64 % 2 ^ 50 := by
  simp [pcLine, BitVec.extractLsb'_toNat, Nat.shiftRight_eq_div_pow]

theorem pcLine_lt (pc : DWord) : pcLine pc < 2 ^ 50 := (pc.extractLsb' 6 50).isLt

theorem toNat_mkPc (line : Nat) {slot : Nat} (h : slot < 64) : (mkPc line slot).toNat = line % 2 ^ 50 * 64 + slot := by
  rw [mkPc, BitVec.toNat_ofNat]
  omega

/-- A line's number wraps, and its slot stands in the bits below (R41). -/
theorem pcLine_mkPc (line : Nat) {slot : Nat} (h : slot < 64) : pcLine (mkPc line slot) = line % 2 ^ 50 := by
  rw [pcLine_eq, toNat_mkPc line h]
  omega

theorem pcSlot_mkPc (line : Nat) {slot : Nat} (h : slot < 8) : pcSlot (mkPc line slot) = slot := by
  rw [pcSlot_eq, toNat_mkPc line (by omega)]
  omega

/-! ## Where control passes (R41, R54) -/

/-- Below slot 4 the next program counter is one more, and no carry leaves the slot's bits. -/
theorem nextPc_of_lt {pc : DWord} (h : pcSlot pc < 4) :
    pcLine (nextPc pc) = pcLine pc ∧ pcSlot (nextPc pc) = pcSlot pc + 1 := by
  have step : (nextPc pc).toNat = pc.toNat + 1 := by
    have small := pc.isLt
    rw [pcSlot_eq] at h
    rw [nextPc, if_pos (by rwa [pcSlot_eq]), BitVec.toNat_add]
    show (pc.toNat + 1) % 2 ^ 64 = _
    omega
  simp only [pcSlot_eq, pcLine_eq, step] at h ⊢
  omega

/-- From slot 4 it is slot 0 of the line above. -/
theorem nextPc_of_eq_four {pc : DWord} (h : pcSlot pc = 4) :
    pcLine (nextPc pc) = (pcLine pc + 1) % 2 ^ 50 ∧ pcSlot (nextPc pc) = 0 := by
  rw [nextPc, if_neg (by omega)]
  exact ⟨pcLine_mkPc _ (by omega), pcSlot_mkPc _ (by omega)⟩

/-- The address of a line is 64 times its number, below 2^56 (R37). -/
theorem pcAddr_parts (pc : DWord) : pcLine pc = pcAddr pc / 64 ∧ pcAddr pc % 64 = 0 ∧ pcAddr pc < 2 ^ 56 := by
  have := pcLine_lt pc
  simp only [pcAddr]
  omega

/-- A branch's target line is its own line and the signed offset, modulo 2^50. -/
theorem pcLine_branchPc (pc : DWord) (slot : Fin 5) (toff : BitVec 37) :
    (pcLine (branchPc pc slot toff) : Int) = ((pcLine pc : Int) + toff.toInt) % 2 ^ 50 := by
  rw [branchPc, pcLine_mkPc _ (by omega)]
  push_cast
  rw [Int.toNat_of_nonneg (Int.emod_nonneg _ (by norm_num)), Int.add_emod_emod]

theorem pcSlot_branchPc (pc : DWord) (slot : Fin 5) (toff : BitVec 37) : pcSlot (branchPc pc slot toff) = slot.val :=
  pcSlot_mkPc _ (by omega)

end Sys2Proof.Machine

open Sys2Proof Sys2Proof.Machine

/-- Settles O52: a program counter is a line number above a slot number, so the next slot's carry and the wrap of a line number
are facts about numbers. -/
theorem controlPasses : Obligations.ControlPasses :=
  ⟨fun _ h => nextPc_of_lt h, fun _ h => nextPc_of_eq_four h,
   fun pc _ => have ⟨line, aligned, below⟩ := pcAddr_parts pc
     ⟨line, aligned, below, pcLine_lt pc⟩,
   fun pc slot toff => ⟨pcSlot_branchPc pc slot toff, pcLine_branchPc pc slot toff⟩⟩

end

section
/-!
PROOF. The step of the cursor that is up (O55, O56), and the sample words (O51).
-/

namespace Sys2Proof.Machine

section
variable {s : State} {c c' : Cursor} {rest : List Cursor} {w : SlotWord} (up : s.toIssue = c :: rest)
  (ok : State.cursorOk { s with toIssue := rest } c = some c') (word : State.wordAt { s with toIssue := rest } c' = some w)
include up ok word

/-- A fetched word that decodes runs, and its cycle ends (R41). -/
theorem step_of_decode_ok {i : Instr} {t : State} (decoded : decode w = .ok i)
    (runs : exec i (State.ready { s with toIssue := rest } c' w i) = .next t) :
    step s = .next (t.ended { s with toIssue := rest } c') := by
  simp only [step, up, stepIssue, ok, word, decoded, runs]

/-- A fetched word that decodes to nothing is illegal (R66). -/
theorem step_of_decode_error {e : DecodeErr} (refused : decode w = .error e) :
    step s = .next (State.illegalWord { s with toIssue := rest } c' w) := by
  simp only [step, up, stepIssue, ok, word, refused]

end

end Sys2Proof.Machine

open Sys2Proof Sys2Proof.Machine

/-- Settles O55: the cursor is up, its word is there and decodes, so the step is the instruction's own between the drain of
the store queue and the end of the cycle. -/
theorem stepRunsDecoded : Obligations.StepRunsDecoded :=
  fun _ _ _ _ _ _ _ up ok word decoded runs => step_of_decode_ok up ok word decoded runs

/-- Settles O56: the same step with a word that decodes to nothing. -/
theorem illegalWords : Obligations.IllegalWords :=
  fun _ _ _ _ _ _ up ok word refused => step_of_decode_error up ok word refused

/-- Settles O51: the decoder runs on each word. -/
theorem sampleWords : Obligations.SampleWords := ⟨rfl, rfl, rfl, rfl, rfl, rfl⟩

end

section
/-!
PROOF. Branches (O9, O10): what `branch` comes to when its lanes agree and their targets pass their checks, and which trap it
raises when they do not.
-/

namespace Sys2Proof.Machine

/-! ## What serves: a trap with a note, the lowest lane that meets a test -/

/-- A trap that leaves a note behind is taken on the state before the instruction, with the note. -/
theorem issue_trapBy {u : Info} {s : State} {body : Ctx → State → Act} {f : State → State} {r : TrapRec}
    (h : u.executes s = true) (hb : body (s.ctx u.g) (s.begun u.uses) = .trapBy f r) :
    issue u body s = .next ((f s).trapHere r) := by
  rw [issue_admits (Info.admits_of_executes h), runAct_executes h, hb]

/-- The lowest lane of a mask that meets a test. -/
theorem find?_maskLanes {m : Mask} {p : Nat → Bool} {k : Nat} (mem : k ∈ maskLanes m) (meets : p k = true)
    (below : ∀ j ∈ maskLanes m, j < k → p j = false) : (maskLanes m).find? p = some k := by
  obtain ⟨before, after, split⟩ := List.append_of_mem mem
  have sorted := maskLanes_pairwise_lt m
  rw [split] at sorted
  refine List.find?_eq_some_iff_append.2 ⟨meets, before, after, split, fun j hj => ?_⟩
  have lt : j < k := (List.pairwise_append.1 sorted).2.2 j hj k (by simp)
  rw [below j (split ▸ List.mem_append_left _ hj) lt]
  rfl

/-! ## One transfer of lanes (R41, R42, R164) -/

/-- The lanes of a `.u` transfer differ: not all issuing lanes execute, or two have different targets (R165). -/
def Ctx.diverges (c : Ctx) (f : Nat → DWord) : Prop := c.ex ≠ c.iss ∨ ∃ k ∈ maskLanes c.ex, f k ≠ f (low c.ex)

theorem Ctx.not_diverges {c : Ctx} {f : Nat → DWord} :
    ¬ c.diverges f ↔ c.ex = c.iss ∧ ∀ k ∈ maskLanes c.ex, f k = f (low c.ex) := by
  simp [Ctx.diverges]

/-- The executing lanes stand at their targets, and the other issuing lanes pass on. -/
def State.transfer (s : State) (c : Ctx) (f : Nat → DWord) : State :=
  (s.advance c.id (c.iss &&& ~~~c.ex)).modStream c.id fun st => st.setPcs c.ex f

section
variable {c : Ctx} {u : Bool} {s : State} {f : Nat → DWord} {link : State → State} (nonempty : c.ex ≠ 0)
include nonempty

/-- The test of a branch's uniformity. -/
theorem branch_test : (u && ((c.ex != c.iss && c.ex != 0) || !(maskLanes c.ex).all fun i => f i == f (low c.ex))) = true ↔
    u = true ∧ c.diverges f := by
  have executes : (c.ex != 0) = true := bne_iff_ne.2 nonempty
  simp only [executes, Bool.and_true, Bool.and_eq_true, Bool.or_eq_true, bne_iff_ne, Bool.not_eq_true', List.all_eq_false,
    beq_iff_eq, Ctx.diverges, ne_eq]

theorem branch_diverges (uniform : u = true) (differ : c.diverges f) : branch c u s f link = c.uniformity := by
  unfold branch
  exact if_pos ((branch_test nonempty).2 ⟨uniform, differ⟩)

/-- Past the uniformity check, targets outside the layout trap, and the others are checked in turn. -/
theorem branch_agrees (agree : u = true → ¬ c.diverges f) :
    branch c u s f link =
      ((maskLanes c.ex).find? fun i => !pcValid (f i)).elim
        (s.checkTargets c c.ex f (fun s => .jump ((link s).transfer c f)) (maskLanes c.ex))
        (fun i => .trap ⟨2, 0, f i, maskOf fun j => c.ex.getLsbD j && !pcValid (f j)⟩) := by
  unfold branch
  dsimp only
  rw [if_neg (fun test => have ⟨uniform, differ⟩ := (branch_test nonempty).1 test; agree uniform differ), if_neg nonempty]
  cases (maskLanes c.ex).find? fun i => !pcValid (f i) <;> rfl

/-- Lanes that agree move to their targets once these are in the layout and have passed their checks. -/
theorem branch_moves {r : State} (agree : u = true → ¬ c.diverges f) (valid : ∀ i ∈ maskLanes c.ex, pcValid (f i) = true)
    (passed : Claims.gives (fun go => s.checkTargets c c.ex f go (maskLanes c.ex)) r) :
    branch c u s f link = .jump ((link r).transfer c f) := by
  have inside : (maskLanes c.ex).find? (fun i => !pcValid (f i)) = none := by simpa using valid
  rw [branch_agrees nonempty agree, inside]
  exact passed _

/-- A target outside the LPC layout traps, at the lowest such lane's (R42). -/
theorem branch_outside {k : Nat} (agree : u = true → ¬ c.diverges f) (mem : k ∈ maskLanes c.ex) (bad : pcValid (f k) = false)
    (below : ∀ j ∈ maskLanes c.ex, j < k → pcValid (f j) = true) :
    branch c u s f link = .trap ⟨2, 0, f k, maskOf fun j => c.ex.getLsbD j && !pcValid (f j)⟩ := by
  have first : (maskLanes c.ex).find? (fun i => !pcValid (f i)) = some k :=
    find?_maskLanes mem (by simp [bad]) fun j hj lt => by simp [below j hj lt]
  rw [branch_agrees nonempty agree, first]
  rfl

end

/-- A target whose line has been fetched is entered by its TGT bit alone (R42). -/
theorem checkTarget_fetched {s : State} {id : StreamId} {pc : DWord} {l : FetchLine} (m : Mask)
    (found : s.fetchedLine id (pcLine pc) = some l) :
    s.checkTarget id pc m = if l.tgt (pcSlot pc) then .ok s else .trap keepState ⟨2, 0, pc, m⟩ := by
  simp only [State.checkTarget, found]

/-- Of ascending lanes, the last one of a closed target stops the check where every lane below goes there too or to an open
target (log 48). -/
theorem checkTargets_closed {s : State} {c : Ctx} {m : Mask} {f : Nat → DWord} {go : State → Act} {k : Nat} {l : FetchLine}
    (found : s.fetchedLine c.id (pcLine (f k)) = some l) (closed : l.tgt (pcSlot (f k)) = false) (ls : List Nat)
    (sorted : ls.Pairwise (· < ·)) (mem : k ∈ ls) (last : ∀ j ∈ ls, k < j → f j ≠ f k)
    (below : ∀ j ∈ ls, j < k →
      f j = f k ∨ ∃ l, s.fetchedLine c.id (pcLine (f j)) = some l ∧ l.tgt (pcSlot (f j)) = true) :
    s.checkTargets c m f go ls = .trapBy keepState ⟨2, 0, f k, m⟩ := by
  induction ls with
  | nil => cases mem
  | cons i ls ih =>
    obtain ⟨lt, sorted'⟩ := List.pairwise_cons.1 sorted
    rcases List.mem_cons.1 mem with rfl | mem'
    · have alone : (ls.any fun j => f j == f k) = false := by
        simpa using fun j hj => last j (List.mem_cons_of_mem _ hj) (lt j hj)
      simp [State.checkTargets, alone, checkTarget_fetched m found, closed]
    · have rest := ih sorted' mem' (fun j hj => last j (List.mem_cons_of_mem _ hj))
        fun j hj => below j (List.mem_cons_of_mem _ hj)
      unfold State.checkTargets
      split
      · exact rest
      · next alone =>
        rcases below i List.mem_cons_self (lt k mem') with same | ⟨l', found', opened⟩
        · exact absurd (List.any_eq_true.2 ⟨k, mem', by simp [same]⟩) alone
        · rw [checkTarget_fetched m found', opened]
          exact rest

theorem branch_closed {c : Ctx} {u : Bool} {s : State} {f : Nat → DWord} {link : State → State} {k : Nat} {l : FetchLine}
    (nonempty : c.ex ≠ 0) (agree : u = true → ¬ c.diverges f) (valid : ∀ i ∈ maskLanes c.ex, pcValid (f i) = true)
    (found : s.fetchedLine c.id (pcLine (f k)) = some l) (closed : l.tgt (pcSlot (f k)) = false)
    (mem : k ∈ maskLanes c.ex) (last : ∀ j ∈ maskLanes c.ex, k < j → f j ≠ f k)
    (below : ∀ j ∈ maskLanes c.ex, j < k →
      f j = f k ∨ ∃ l, s.fetchedLine c.id (pcLine (f j)) = some l ∧ l.tgt (pcSlot (f j)) = true) :
    branch c u s f link = .trapBy keepState ⟨2, 0, f k, c.ex⟩ := by
  have inside : (maskLanes c.ex).find? (fun i => !pcValid (f i)) = none := by simpa using valid
  rw [branch_agrees nonempty agree, inside]
  exact checkTargets_closed found closed _ (maskLanes_pairwise_lt _) mem last below

/-! ## BRA, CALL, BRX and RET (R165) -/

section
variable {i : Info} {s : State} {u : Bool} {F : Ctx → State → Nat → DWord} {link : Ctx → State → State} {c : Ctx}
  {f : Nat → DWord} (ctx : s.ctx i.g = c) (targets : F c (s.begun i.uses) = f) (runs : i.executes s = true)
include ctx targets runs

/-- An issue that is a branch moves its lanes. -/
theorem issue_branch_moves {r : State} (agree : u = true → c.ex = c.iss ∧ ∀ k ∈ maskLanes c.ex, f k = f (low c.ex))
    (checked : (∀ k ∈ maskLanes c.ex, pcValid (f k) = true) ∧
      Claims.gives (fun go => (s.begun i.uses).checkTargets c c.ex f go (maskLanes c.ex)) r) :
    issue i (fun c t => branch c u t (F c t) (link c)) s = .next (((link c r).transfer c f).inject i.uses c.ex) := by
  subst ctx targets
  obtain ⟨valid, passed⟩ := checked
  exact issue_jump runs
    (branch_moves (Info.ex_of_executes runs) (fun uniform => Ctx.not_diverges.2 (agree uniform)) valid passed)

/-- An issue that is a branch traps where its lanes differ, where a target is outside the layout and where one is closed. -/
theorem issue_branch_traps :
    (u = true → c.diverges f →
      issue i (fun c t => branch c u t (F c t) (link c)) s = .next (s.trapHere ⟨4, 0, c.pc, c.iss⟩)) ∧
    ((u = true → c.ex = c.iss ∧ ∀ k ∈ maskLanes c.ex, f k = f (low c.ex)) →
      (∀ k ∈ maskLanes c.ex, pcValid (f k) = false → (∀ j ∈ maskLanes c.ex, j < k → pcValid (f j) = true) →
        issue i (fun c t => branch c u t (F c t) (link c)) s =
          .next (s.trapHere ⟨2, 0, f k, maskOf fun j => c.ex.getLsbD j && !pcValid (f j)⟩)) ∧
      ((∀ k ∈ maskLanes c.ex, pcValid (f k) = true) → ∀ k ∈ maskLanes c.ex, ∀ l : FetchLine,
        (∀ j ∈ maskLanes c.ex, k < j → f j ≠ f k) →
        (∀ j ∈ maskLanes c.ex, j < k → f j = f k ∨
          ∃ l, (s.begun i.uses).fetchedLine c.id (pcLine (f j)) = some l ∧ l.tgt (pcSlot (f j)) = true) →
        (s.begun i.uses).fetchedLine c.id (pcLine (f k)) = some l → l.tgt (pcSlot (f k)) = false →
        issue i (fun c t => branch c u t (F c t) (link c)) s = .next (s.trapHere ⟨2, 0, f k, c.ex⟩))) := by
  subst ctx targets
  have nonempty := Info.ex_of_executes runs
  refine ⟨fun uniform differ => issue_trap runs (branch_diverges nonempty uniform differ), fun agree => ?_⟩
  have agree' := fun uniform => Ctx.not_diverges.2 (agree uniform)
  exact ⟨fun k mem bad below => issue_trap runs (branch_outside nonempty agree' mem bad below),
    fun valid k mem l last below found closed =>
      issue_trapBy (f := keepState) runs (branch_closed nonempty agree' valid found closed mem last below)⟩

end

end Sys2Proof.Machine

open Sys2Proof Sys2Proof.Machine

/-- Settles O9: each of the four is `branch` with its own targets, and CALL alone has a link to write first. -/
theorem branches : Obligations.Branches := fun _ _ slot toff _ a _ _ =>
  ⟨fun runs agree checked =>
     issue_branch_moves (F := fun c _ _ => branchPc c.pc slot toff) (link := fun _ => id) rfl rfl runs agree checked,
   fun runs agree checked =>
     issue_branch_moves (F := fun c _ _ => branchPc c.pc slot toff) (link := fun c t => t.setPair _ c.ex fun _ => nextPc c.pc)
       rfl rfl runs agree checked,
   fun runs agree checked =>
    ⟨issue_branch_moves (F := fun _ t k => t.srcPair a k) (link := fun _ => id) rfl rfl runs agree checked,
     issue_branch_moves (F := fun _ t k => t.srcPair a k) (link := fun _ => id) rfl rfl runs agree checked⟩⟩

/-- Settles O10: the same four issues, in the three ways in which `branch` refuses. -/
theorem branchTraps : Obligations.BranchTraps := fun _ _ slot toff _ a _ =>
  ⟨fun runs => issue_branch_traps (F := fun c _ _ => branchPc c.pc slot toff) (link := fun _ => id) rfl rfl runs,
   fun runs => issue_branch_traps (F := fun c _ _ => branchPc c.pc slot toff)
     (link := fun c t => t.setPair _ c.ex fun _ => nextPc c.pc) rfl rfl runs,
   fun runs => issue_branch_traps (F := fun _ t k => t.srcPair a k) (link := fun _ => id) rfl rfl runs,
   fun runs => issue_branch_traps (F := fun _ t k => t.srcPair a k) (link := fun _ => id) rfl rfl runs⟩

end

section
/-!
PROOF. What an issue changes that has no effect of its own (O11): NOP, and any instruction whose guard selects no lane.
-/

namespace Sys2Proof.Machine

/-- An issue that writes nothing: its lanes pass on, and nothing else changes (R41). -/
theorem computes_nothing {i : Instr} {u : Info} {s : State} (plain : s.plain = true)
    (passes : exec i s = .next ((s.begun u.uses).passed u.uses (s.ctx u.g))) : Computes i u s [] [] 0 :=
  ⟨_, passes, result_of_effect plain (effect_begun u.uses plain _) u.uses⟩

/-- An instruction that acts lane by lane has no effect where no lane executes, but for zeros in its queues (R18). -/
theorem issue_no_lane {u : Info} {s : State} {body : Ctx → State → Act} (byLane : u.lanes = true)
    (admits : u.admits s = true) (none_ : (s.ctx u.g).ex = 0) :
    issue u body s = .next (((s.begun u.uses).pushZeros u.uses).passed u.uses (s.ctx u.g)) := by
  have skips : (u.lanes && (s.ctx u.g).ex == 0) = true := by simp [byLane, none_]
  rw [issue_admits admits]
  unfold State.runAct
  simp only [skips, if_true]
  rfl

theorem State.pushZeros_of_no_push (s : State) {us : List Use} (h : pushesOf us = []) : s.pushZeros us = s := by
  simp [State.pushZeros, h]

/-- What R18 and R48 say of an instruction that no lane executes holds of every meaning that acts lane by lane. -/
theorem noLane_of_issue {i : Instr} {u : Info} {s : State} {body : Ctx → State → Act} (meaning : exec i s = issue u body s)
    (byLane : u.lanes = true) (plain : s.plain = true) : Claims.noLane i u s := by
  intro admits none_
  have issues := meaning.trans (issue_no_lane byLane admits none_)
  refine ⟨issues, fun _ noPush => computes_nothing plain ?_⟩
  rw [issues, State.pushZeros_of_no_push _ noPush]

theorem noLaneExecutes : Claims.NoLaneExecutes := by
  intro g uns sat m rel mode la size f sc op sem p q d a b e l adr tag s plain
  refine ⟨?_, ?_, ?_, ?_, ?_, ?_, ?_, ?_, ?_, ?_, ?_, ?_, ?_, ?_⟩ <;> exact noLane_of_issue rfl rfl plain

end Sys2Proof.Machine

open Sys2Proof Sys2Proof.Machine

/-- Settles O11: NOP's own effect is none, and an instruction that no lane executes is not run at all. -/
theorem nopChangesNothing : Obligations.NopChangesNothing :=
  ⟨fun _ executes plain => computes_nothing plain (issue_done executes rfl), noLaneExecutes⟩

end

section
/-!
PROOF. Loads and stores through a line register (O34): a refresh that always has its line, a release that is over or begins,
and the two meanings past their checks.
-/

namespace Sys2Proof.Machine

/-- An instruction that waits leaves its note on the state before it, and its lanes stay. -/
theorem issue_wait {u : Info} {s : State} {body : Ctx → State → Act} {f : State → State} (h : u.executes s = true)
    (hb : body (s.ctx u.g) (s.begun u.uses) = .wait f) : issue u body s = .next (f s).hold := by
  rw [issue_admits (Info.admits_of_executes h), runAct_executes h, hb]

/-! ## The cursor through the start of an issue -/

theorem State.cur_pairIssued (s : State) : s.pairIssued.cur = s.cur := by
  unfold State.pairIssued
  split <;> rfl

theorem State.cur_countIssue (s : State) (m : Mask) : (s.countIssue m).cur = s.cur := by
  unfold State.countIssue
  dsimp only
  split
  · rfl
  · exact State.cur_pairIssued _

theorem State.cur_id_begun (s : State) (us : List Use) : (s.begun us).cur.id = s.cur.id := by
  obtain ⟨-, -, -, -, -, -, -, -, -, -, -, id, -⟩ := State.popQueues_spec us (s.countIssue s.cur.lanes)
  rw [State.begun, id, State.cur_countIssue]

/-! ## Refreshing a line (R203, R377) -/

/-- Only a trailing group's refresh waits. -/
theorem State.refreshLine_isSome {s : State} {t g : Nat} (alone : (s.group t g).dmr = .alone) (l : LineReg) :
    (s.refreshLine t g l).isSome = true := by
  simp [State.refreshLine, alone]

/-! ## Loads (R211, R223, R231) -/

/-- A refreshed line is there where a refresh is asked for, and where none is the state stays. -/
theorem State.refreshed (s : State) (fresh : Bool) (t g : Nat) (l : LineReg)
    (comes : fresh = true → (s.refreshLine t g l).isSome = true) :
    (if fresh then s.refreshLine t g l else some s) = some (if fresh then (s.refreshLine t g l).getD s else s) := by
  cases fresh with
  | false => rfl
  | true =>
    obtain ⟨q, hq⟩ := Option.isSome_iff_exists.1 (comes rfl)
    simp [hq]

theorem loadThroughLine : Claims.LoadThroughLine := by
  intro g la size acq sc d l s ref lr u r c o fresh t executes line unmatched comes clean
  have alone : r.myGroup = r.group c.id.team c.id.grp := by
    show r.group r.cur.id.team r.cur.id.grp = _
    rw [State.cur_id_begun]
    rfl
  have there := r.refreshed fresh c.id.team c.id.grp lr fun h =>
    (comes h).elim (fun a => State.refreshLine_isSome (alone ▸ a) lr) id
  refine issue_done executes ?_
  show (match r.checkLine c l.ln size.bytes o (fun x => x.mode != 1) true with
    | .stop a => a
    | .ok _ lr => _) = _
  rw [line]
  dsimp only
  rw [unmatched, there]
  exact clean _

/-! ## The release of a store (R210, R231) -/

/-- Where every lane's release is complete, the access goes on, and the lanes' releases are behind them. -/
theorem releaseFirst_of_released {c : Ctx} {s : State} {sc : Scope} {start : State → State} {done : Nat → State → Bool}
    {go : State → Act} (released : Claims.released c s done) :
    releaseFirst c s sc start done go = go (s.clearRel c.id c.ex) := by
  have begun : (((maskLanes c.ex).map fun i => SMap.get none s.here.relWait i).any Option.isNone) = false := by
    rw [List.any_map, List.any_eq_false]
    intro i hi
    obtain ⟨d, date, -⟩ := released i hi
    simp [date]
  have complete : (((maskLanes c.ex).map fun i => SMap.get none s.here.relWait i).all fun d => done (d.getD 0) s) = true := by
    rw [List.all_map, List.all_eq_true]
    intro i hi
    obtain ⟨d, date, ended⟩ := released i hi
    simp [date, ended]
  simp only [releaseFirst, begun, complete, Bool.false_eq_true, if_false, if_true]

/-- The date of a release that is now under way, in every lane that has none. -/
def State.dateRelease (s : State) (id : StreamId) (ex : Mask) : State :=
  s.modStream id fun st => { st with relWait := (maskLanes ex).foldl (fun m i =>
    if (SMap.get none m i).isNone then SMap.set none m i (some s.time) else m) st.relWait }

/-- Where a lane's release has not begun, it begins, and the access waits. -/
theorem releaseFirst_of_unbegun {c : Ctx} {s : State} {sc : Scope} {start : State → State} {done : Nat → State → Bool}
    {go : State → Act} {i : Nat} (mem : i ∈ maskLanes c.ex) (unbegun : SMap.get none s.here.relWait i = none) :
    releaseFirst c s sc start done go = .wait fun s =>
      if crosses ((start s).scopeOf c.id.team sc) && !(start s).allOut ((start s).teamCore c.id.team) then start s
      else (start s).dateRelease c.id c.ex := by
  have waits : (((maskLanes c.ex).map fun i => SMap.get none s.here.relWait i).any Option.isNone) = true := by
    rw [List.any_map, List.any_eq_true]
    exact ⟨i, mem, by simp [unbegun]⟩
  simp only [releaseFirst, waits, if_true]
  rfl

/-- At GROUP and TEAM scope, and without a release, a store goes on at once. -/
theorem lsRelease_of_narrow {c : Ctx} {s : State} {rel : Bool} {sc : Scope} {go : State → Act}
    (narrow : (rel && coreOrWider (s.scopeOf c.id.team sc)) = false) : lsRelease c s rel sc go = go s := by
  rw [lsRelease, ← Bool.not_and, narrow]
  rfl

theorem lsRelease_of_wide {c : Ctx} {s : State} {rel : Bool} {sc : Scope} {go : State → Act}
    (wide : (rel && coreOrWider (s.scopeOf c.id.team sc)) = true) :
    lsRelease c s rel sc go =
      releaseFirst c s sc (fun s => s.beginRelease c.id sc) (fun d s => s.releaseDone c.id sc d) go := by
  rw [lsRelease, ← Bool.not_and, wide]
  rfl

/-! ## Stores (R231, R232) -/

/-- A store of a stream past its checks and its release: its compare record, its bytes in the store queue, and the performing of
a releasing one. -/
def State.stores (t : State) (code : Nat) (multi : Bool) (size : Size) (rel : Bool) (sc : Scope) (b : Src) (c : Ctx)
    (o : Nat → Nat) (lr : LineReg) : State :=
  let bs := t.storeBytes c size o b
  let q := (t.record (code + 256 * size.bytes) c.ex (lineRecord lr bs)).modHere fun st =>
    { st with sq := st.sq ++ [⟨lr.key, bs, multi⟩] }
  let q := q.journalCheck q.myCore
  let p := q.drainQueue c.id
  if !rel then q else if crosses (p.scopeOf c.id.team sc) then p.depart p.myCore c.id.team c.id.grp lr.key else p

section
variable {code : Nat} {multi rel : Bool} {size : Size} {sc : Scope} {l : LOp} {b : Src} {modes : LineReg → Bool} {c : Ctx}
  {r : State} {ref : LineRef} {lr : LineReg} (line : Claims.line c r l.ln size.bytes (r.lineOff l) modes true ref lr)
  (unmatched : Claims.passes (r.lineMatch c lr size.bytes (r.lineOff l) false true))
  (room : r.journalRoom r.myCore c.id.team lr.key = true) (lehr : rel = true → r.lehrTakes r.myCore c.id.team 4 = true)
include line unmatched room lehr

/-- Past its checks, and with room for what it leaves behind, a store waits for its release and then stores. -/
theorem storeBody_checked :
    storeBody code multi size rel sc l b modes c r =
      lsRelease c r rel sc fun t => .done (t.stores code multi size rel sc b c (r.lineOff l) lr) := by
  have free : (!r.journalRoom r.myCore c.id.team lr.key || (rel && !r.lehrTakes r.myCore c.id.team 4)) = false := by
    cases rel with
    | false => simp [room]
    | true => simp [room, lehr]
  unfold Claims.line at line
  simp only [storeBody, line]
  rw [unmatched, free]
  simp only [Bool.false_eq_true, if_false, State.stores]
  congr 1
  funext t
  split <;> rfl

/-- A store whose release is complete, or which has none, stores. -/
theorem storeBody_stores (ended : (rel && coreOrWider (r.scopeOf c.id.team sc)) = true →
      Claims.released c r fun d x => x.releaseDone c.id sc d) :
    storeBody code multi size rel sc l b modes c r =
      .done ((if rel && coreOrWider (r.scopeOf c.id.team sc) then r.clearRel c.id c.ex else r).stores code multi size rel sc b c
        (r.lineOff l) lr) := by
  rw [storeBody_checked line unmatched room lehr]
  cases wide : rel && coreOrWider (r.scopeOf c.id.team sc) with
  | false => exact lsRelease_of_narrow wide
  | true => exact (lsRelease_of_wide wide).trans (releaseFirst_of_released (ended wide))

end

theorem storeThroughLine : Claims.StoreThroughLine := by
  intro g size rel sc l b s ref lr us r c o wide t stores free unmatched ⟨room, lehr, ended⟩
  exact ⟨fun executes line => issue_done executes (storeBody_stores line unmatched room lehr ended),
    fun executes line => issue_done executes (storeBody_stores line unmatched room lehr ended)⟩

theorem storeBeginsRelease : Claims.StoreBeginsRelease := by
  intro g size sc l b s ref lr u r c o executes wide line unmatched room lehr unbegun q
  have first := low_mem (Info.ex_of_executes executes)
  have waits := (storeBody_checked (code := 0x84) (multi := false) (rel := true) (sc := sc) (b := b) line unmatched room
    fun _ => lehr).trans ((lsRelease_of_wide (rel := true) wide).trans (releaseFirst_of_unbegun first (unbegun _ first)))
  exact issue_wait executes waits

end Sys2Proof.Machine

open Sys2Proof Sys2Proof.Machine

/-- Settles O34: a load and a store past the checks that both make, and the release that a store of a wide scope has first. -/
theorem loadAndStore : Obligations.LoadAndStore := ⟨loadThroughLine, storeThroughLine, storeBeginsRelease⟩

end

section
/-!
PROOF. The machine's own steps at the front end (O40): a fetched line, a grant, the choice of an opportunity's program counters,
results and traps that fall due.
-/

namespace Sys2Proof.Machine

/-! ## Fetching (R42, R43, R287) -/

theorem exec_fetchLine (id : StreamId) (flips : FetchLine) (s : State) :
    exec (.fetchLine id flips) s = execFetchLine id flips s := rfl

section
variable {s r : State} {id : StreamId} {flips : FetchLine} {pc : DWord} {t : Trans} (needed : s.needsFetch id = some pc)
  (inside : (s.stream id).check = true → pcValid pc = true)
  (translated : s.translate (s.teamCore id.team) .fetch (s.group id.team id.grp).c.asid (pcAddr pc) ((s.stream id).lanesAt pc)
    id.grp 0 (2 * id.team + bit01 id.x) false = (.ok t, r))
include needed inside translated

/-- A fetch whose translation stands: host memory is fatal, and of two copies one with right parity is accepted. -/
theorem fetchLine_translated :
    let l := r.lineBytes t (s.teamCore id.team).die (pcAddr pc)
    exec (.fetchLine id flips) s = .next
      (if t.host then r.takeTrap id ⟨8, 0, BitVec.ofNat 64 (pcAddr pc), (s.stream id).lanesAt pc⟩
      else if (l ^^^ flips).parityOk then r.acceptLine id pc (l ^^^ flips)
      else if l.parityOk then r.acceptLine id pc l
      else r.takeTrap id ⟨14, 0, BitVec.ofNat 64 (pcAddr pc), (s.stream id).lanesAt pc⟩) := by
  have layout : ((s.stream id).check && !pcValid pc) = false := by
    cases h : (s.stream id).check with
    | false => rfl
    | true => simp [inside h]
  simp only [exec_fetchLine, execFetchLine, needed, layout, translated, Bool.false_eq_true, if_false]

end

/-! ## Granting (R161, R162) -/

theorem exec_issueGrant (c : CoreId) (part : Nat) (s : State) : exec (.issueGrant c part) s = .next (s.grant c part) := rfl

theorem State.grant_nil {s : State} {c : CoreId} {part : Nat} (h : s.candidates c part = []) : s.grant c part = s := by
  simp only [State.grant, h]

theorem State.grant_cons {s : State} {c : CoreId} {part k : Nat} {q : Rot} {l : List (Nat × Rot)}
    (h : s.candidates c part = (k, q) :: l) :
    s.grant c part = { s with
      held := true, opened := true, opp := q.id, rest := l.map fun x => x.2.id, found := [],
      lastPart := coreKey c * 4 + part } := by
  simp only [State.grant, h]

/-- Every candidate has a program counter that may be ready. -/
theorem State.readyPcs_of_candidate {s : State} {c : CoreId} {part : Nat} {x : Nat × Rot} (h : x ∈ s.candidates c part) :
    s.readyPcs x.2.id ≠ [] := by
  simp only [State.candidates, List.mem_append, List.mem_filter] at h
  rcases h with h | h <;> simpa using h.1.2

/-- A weak stream comes first only where every candidate is weak (R162). -/
theorem State.weak_of_weak_first {s : State} {c : CoreId} {part : Nat} {x : Nat × Rot} {l : List (Nat × Rot)}
    (h : s.candidates c part = x :: l) (weak : s.weak x.2.id = true) : ∀ y ∈ l, s.weak y.2.id = true := by
  unfold State.candidates at h
  generalize (SMap.get ⟨[], 0⟩ (s.core c).parts part).order.filter (fun r => !(s.readyPcs r.2.id).isEmpty) = ready at h
  dsimp only at h
  cases strong : ready.filter fun r => !s.weak r.2.id with
  | nil =>
    rw [strong, List.nil_append] at h
    intro y hy
    have among : y ∈ ready.filter fun r => s.weak r.2.id := h ▸ List.mem_cons_of_mem _ hy
    exact (List.mem_filter.1 among).2
  | cons z zs =>
    rw [strong] at h
    obtain ⟨rfl, -⟩ := List.cons.inj h
    have among : z ∈ ready.filter fun r => !s.weak r.2.id := strong ▸ List.mem_cons_self
    simp [weak] at among

theorem frontEnd : Claims.FrontEnd := by
  intro s id
  refine ⟨fun flips pc t r needed inside translated => ?_, fun c part k q l order => ⟨?_, ?_, ?_⟩,
    fun c part none_ => ?_⟩
  · have step := fetchLine_translated (flips := flips) needed inside translated
    refine ⟨fun host => ?_, fun device => ⟨fun first => ?_, fun bad second => ?_, fun bad worse => ?_⟩⟩
    · rw [step, if_pos host]
    · rw [step, if_neg (by simp [device]), if_pos first]
    · rw [step, if_neg (by simp [device]), if_neg (by simp [bad]), if_pos second]
    · rw [step, if_neg (by simp [device]), if_neg (by simp [bad]), if_neg (by simp [worse])]
  · rw [exec_issueGrant, State.grant_cons order]
  · exact State.readyPcs_of_candidate (x := (k, q)) (order ▸ List.mem_cons_self)
  · exact State.weak_of_weak_first order
  · rw [exec_issueGrant, State.grant_nil none_]

/-! ## One opportunity (R159, R160, R127, R68) -/

/-- The first element of a list whose key is greatest. -/
def greatest (key : DWord → Nat) : List DWord → Option DWord
  | [] => none
  | pc :: l =>
    match greatest key l with
    | none => some pc
    | some q => if key q ≤ key pc then some pc else some q

/-- One step of the search: the first of a list stands unless the rest holds a greater key. -/
theorem greatest_cons (key : DWord → Nat) (pc : DWord) (l : List DWord) :
    greatest key (pc :: l) = some (match greatest key l with
      | none => pc
      | some q => if key q ≤ key pc then pc else q) := by
  rw [greatest]
  cases greatest key l with
  | none => rfl
  | some q => exact (apply_ite some _ _ _).symm

theorem greatest_eq_none {key : DWord → Nat} {l : List DWord} : greatest key l = none ↔ l = [] := by
  cases l with
  | nil => exact ⟨fun _ => rfl, fun _ => rfl⟩
  | cons pc l => simp [greatest_cons]

theorem greatest_spec {key : DWord → Nat} {l : List DWord} {pc : DWord} (h : greatest key l = some pc) :
    pc ∈ l ∧ ∀ q ∈ l, key q ≤ key pc := by
  induction l generalizing pc with
  | nil => cases h
  | cons p l ih =>
    rw [greatest_cons, Option.some.injEq] at h
    cases hl : greatest key l with
    | none =>
      have last : l = [] := greatest_eq_none.1 hl
      simp only [hl] at h
      simp [last, h]
    | some m =>
      obtain ⟨mem, above⟩ := ih hl
      simp only [hl] at h
      split at h <;> subst h
      · next le => simpa using fun q hq => (above q hq).trans le
      · next gt => exact ⟨List.mem_cons_of_mem _ mem, by simpa using ⟨by omega, above⟩⟩

theorem Stream.largest_eq (st : Stream) (l : List DWord) : st.largest l = greatest (fun q => popcount (st.lanesAt q)) l := by
  induction l with
  | nil => rfl
  | cons pc l ih =>
    rw [Stream.largest, ih]
    rfl

theorem Rot.oldest_eq (r : Rot) (l : List DWord) : r.oldest l = greatest r.age l := by
  induction l with
  | nil => rfl
  | cons pc l ih =>
    rw [Rot.oldest, ih]
    rfl

/-- The first slot takes one of largest population. -/
theorem State.firstSlot_spec {s : State} {id : StreamId} {l : List DWord} {pc : DWord} (h : s.firstSlot id l = some pc) :
    pc ∈ l ∧ ∀ q ∈ l, popcount ((s.stream id).lanesAt q) ≤ popcount ((s.stream id).lanesAt pc) := by
  rw [State.firstSlot, Stream.largest_eq] at h
  exact greatest_spec h

/-- The program counters that the second slot chooses among are those aged 32 or more, where there are any. -/
theorem State.secondSlot_of_aged {s : State} {r : Rot} {l : List DWord} (aged : ∃ q ∈ l, 32 ≤ r.age q) :
    s.secondSlot r l = greatest r.age (l.filter fun q => decide (32 ≤ r.age q)) := by
  have some_ : (l.filter fun q => decide (32 ≤ r.age q)).isEmpty = false := by simpa using aged
  simp only [State.secondSlot, some_, Bool.false_eq_true, if_false, Rot.oldest_eq]

theorem State.secondSlot_of_young {s : State} {r : Rot} {l : List DWord} (young : ∀ q ∈ l, r.age q < 32) :
    s.secondSlot r l = greatest (fun q => popcount ((s.stream r.id).lanesAt q)) l := by
  have none_ : (l.filter fun q => decide (32 ≤ r.age q)).isEmpty = true := by simpa using young
  simp only [State.secondSlot, none_, if_true, Stream.largest_eq]

theorem State.secondSlot_spec {s : State} {r : Rot} {l : List DWord} {pc : DWord} (h : s.secondSlot r l = some pc) :
    pc ∈ l ∧ ((∃ q ∈ l, 32 ≤ r.age q) → ∀ q ∈ l, r.age q ≤ r.age pc) ∧
    ((∀ q ∈ l, r.age q < 32) →
      ∀ q ∈ l, popcount ((s.stream r.id).lanesAt q) ≤ popcount ((s.stream r.id).lanesAt pc)) := by
  by_cases aged : ∃ q ∈ l, 32 ≤ r.age q
  · rw [State.secondSlot_of_aged aged] at h
    obtain ⟨mem, above⟩ := greatest_spec h
    simp only [List.mem_filter, decide_eq_true_eq] at mem above
    obtain ⟨mem, old⟩ := mem
    refine ⟨mem, fun _ q hq => ?_, fun young => absurd (young pc mem) (not_lt.2 old)⟩
    rcases le_or_gt 32 (r.age q) with oldToo | young
    · exact above q ⟨hq, oldToo⟩
    · exact young.le.trans old
  · have young : ∀ q ∈ l, r.age q < 32 := by simpa using aged
    rw [State.secondSlot_of_young young] at h
    obtain ⟨mem, above⟩ := greatest_spec h
    exact ⟨mem, fun old => absurd old aged, fun _ => above⟩

theorem State.secondSlot_eq_none {s : State} {r : Rot} {l : List DWord} (h : s.secondSlot r l = none) : l = [] := by
  by_cases aged : ∃ q ∈ l, 32 ≤ r.age q
  · rw [State.secondSlot_of_aged aged, greatest_eq_none] at h
    obtain ⟨q, hq, old⟩ := aged
    exact absurd old (by simpa using List.filter_eq_nil_iff.1 h q hq)
  · have young : ∀ q ∈ l, r.age q < 32 := by simpa using aged
    rwa [State.secondSlot_of_young young, greatest_eq_none] at h

/-- Two instructions whose addresses differ are ordered alike whichever was found first. -/
theorem inOrder_pair {a b : Cursor} (lt : a.pc.toNat < b.pc.toNat) (x y : Bool) :
    inOrder [(a, x), (b, y)] = (if x && y then [a] else if x then [b, a] else [a, b]) ∧
    inOrder [(b, y), (a, x)] = inOrder [(a, x), (b, y)] := by
  have le : a.pc.toNat ≤ b.pc.toNat := lt.le
  have not_le : ¬ b.pc.toNat ≤ a.pc.toNat := not_le.2 lt
  simp only [inOrder, le, not_le, if_true, if_false, and_self]

theorem opportunity : Claims.Opportunity := by
  refine ⟨fun s id l pc h => State.firstSlot_spec h, fun s r l pc h => State.secondSlot_spec h,
    fun s id r l some_ => ⟨fun h => some_ ?_, fun h => some_ (State.secondSlot_eq_none h)⟩, fun a b x y lt => ?_⟩
  · rwa [State.firstSlot, Stream.largest_eq, greatest_eq_none] at h
  · obtain ⟨order, same⟩ := inOrder_pair lt x y
    exact ⟨same.symm, order⟩

/-! ## Results and traps (R49, R195, R196, R343, R344) -/

theorem exec_longLatencyWriteback (id : StreamId) (n : Nat) (s : State) :
    exec (.longLatencyWriteback id n) s = execLongLatencyWriteback id n s := rfl

theorem exec_trapEntry (id : StreamId) (s : State) : exec (.trapEntry id) s = execTrapEntry id s := rfl

theorem exec_lwaitWake (id : StreamId) (cause : Nat) (s : State) : exec (.lwaitWake id cause) s = execLwaitWake id cause s := rfl

/-- A result that can be written is, and its group is looked at. -/
theorem longLatencyWriteback_ready {s : State} {id : StreamId} {n : Nat} {p : Pending}
    (pending : (s.stream id).pend.find? (fun p => p.id == n) = some p) (ready : s.pendReady p = true) :
    exec (.longLatencyWriteback id n) s = .next ((s.writeResult id p).endGroup id.team id.grp) := by
  simp [exec_longLatencyWriteback, execLongLatencyWriteback, pending, ready]

/-- A group that is no part of a redundant pair has no trap to wait for. -/
theorem State.trapWaits_of_alone {s : State} {id : StreamId} (alone : (s.group id.team id.grp).dmr = .alone) :
    s.trapWaits id = false := by
  simp [State.trapWaits, alone]

section
variable {s : State} {id : StreamId} {r : TrapRec} (alone : (s.group id.team id.grp).dmr = .alone)
  (ready : s.entryReady id r = true)
include alone ready

theorem trapEntry_entering (entering : (s.stream id).entering = some r) :
    exec (.trapEntry id) s = .next ((s.modStream id fun st => { st with entering := none }).trapOne id r) := by
  simp [exec_trapEntry, execTrapEntry, alone, entering, ready]

theorem trapEntry_held {rest : List TrapRec} (free : (s.stream id).entering = none) (held : (s.stream id).traps = r :: rest)
    (normal : (s.stream id).mode = .normal) (running : (s.group id.team id.grp).halted = false) :
    exec (.trapEntry id) s = .next ((s.modStream id fun st => { st with traps := rest }).takeTrap id r) := by
  simp [exec_trapEntry, execTrapEntry, alone, free, held, normal, running, ready, State.trapWaits_of_alone alone]

end

/-- A watch that no injection has struck wakes its stream with its cause (R196). -/
theorem lwaitWake_wakes {s : State} {id : StreamId} {cause : Nat} {w : WatchRec} (watch : (s.stream id).watch = some w)
    (whole : w.flip = none) (wakes : s.wakeHolds id w cause = true) :
    exec (.lwaitWake id cause) s = .next (s.modStream id fun st =>
      let st := { st.put w.dst w.ex fun _ => BitVec.ofNat 32 cause with watch := none }
      st.setPcs (st.lanesAt w.pc) fun _ => nextPc w.pc) := by
  simp [exec_lwaitWake, execLwaitWake, watch, whole, wakes]

theorem resultsAndTraps : Claims.ResultsAndTraps := by
  intro s id
  refine ⟨fun n p pending ready => ⟨fun plain => ?_, fun keyValue => ?_⟩,
    fun r rest alone ready => ⟨trapEntry_entering alone ready, trapEntry_held alone ready⟩, rfl,
    fun cause w watch whole wakes => lwaitWake_wakes watch whole wakes⟩
  · rw [longLatencyWriteback_ready pending ready]
    simp [State.writeResult, plain]
  · rw [longLatencyWriteback_ready pending ready]
    simp [State.writeResult, Option.isSome_iff_ne_none.2 keyValue]

end Sys2Proof.Machine

open Sys2Proof Sys2Proof.Machine

/-- Settles O40: fetches and grants by their branches, an opportunity's two choices as the first greatest of a list, and what
falls due in a stream by its own step. -/
theorem frontEndAndResults : Obligations.FrontEndAndResults := ⟨frontEnd, opportunity, resultsAndTraps⟩

end

section
/-!
PROOF. An instruction on registers whose body ends in one write computes that write (R41, R59, R103, R108): what the statements
on arithmetic and on moves across lanes rest on.
-/

namespace Sys2Proof.Machine

section
variable {i : Instr} {u : Info} {s : State} {body : Ctx → State → Act} {d : Dst} {p : Fin 8} {fl : Flags}

/-- An instruction whose body ends in the middle of an issue has written just what that state holds. -/
theorem computes_of_effect {t : State} {ws : List (Dst × (Nat → Word))} {ps : List (Fin 8 × (Nat → Bool))}
    (meaning : exec i s = issue u body s) (executes : u.executes s = true) (plain : s.plain = true)
    (done : body (s.ctx u.g) (s.begun u.uses) = .done t) (effect : Effect s t (s.ctx u.g).ex ws ps fl) :
    Computes i u s ws ps fl :=
  ⟨_, meaning.trans (issue_done executes done), result_of_effect plain effect u.uses⟩

variable (meaning : exec i s = issue u body s) (executes : u.executes s = true) (plain : s.plain = true)
include meaning executes plain

/-- One 32-bit destination, no flag. -/
theorem computes_setDst {f f' : Nat → Word}
    (done : body (s.ctx u.g) (s.begun u.uses) = .done ((s.begun u.uses).setDst d (s.ctx u.g).ex f'))
    (value : ∀ l, f' l = f l) : Computes i u s (one d f) [] 0 := by
  obtain rfl : f' = f := funext value
  exact ⟨_, meaning.trans (issue_done executes done), result_setDst executes plain d f'⟩

/-- One pair, no flag. -/
theorem computes_setPair {f f' : Nat → DWord} (pair : Use.dst d 2 ∈ u.uses)
    (done : body (s.ctx u.g) (s.begun u.uses) = .done ((s.begun u.uses).setPair d (s.ctx u.g).ex f'))
    (value : ∀ l, f' l = f l) : Computes i u s (two d f) [] 0 := by
  obtain rfl : f' = f := funext value
  exact ⟨_, meaning.trans (issue_done executes done), result_setPair executes plain d pair f'⟩

/-- One predicate, no flag. -/
theorem computes_setPred {f f' : Nat → Bool}
    (done : body (s.ctx u.g) (s.begun u.uses) = .done ((s.begun u.uses).setPred p (s.ctx u.g).ex f'))
    (value : ∀ l, f' l = f l) : Computes i u s [] [(p, f)] 0 := by
  obtain rfl : f' = f := funext value
  exact ⟨_, meaning.trans (issue_done executes done), result_setPred plain p f'⟩

/-- A 32-bit destination and flags of the whole issue. -/
theorem computes_setDst_raise {f : Nat → Word}
    (done : body (s.ctx u.g) (s.begun u.uses) = .done (((s.begun u.uses).setDst d (s.ctx u.g).ex f).raise fl)) :
    Computes i u s (one d f) [] fl := by
  refine computes_of_effect meaning executes plain done ?_
  have written := effect_setDst (effect_begun u.uses plain _) (Info.ex_of_executes executes) d f (by simp)
  simpa [one] using effect_raise written fl

/-- A predicate and the OR of its lanes' flags. -/
theorem computes_setPred_raise {r : Nat → Bool × Flags} {f : Nat → Bool} {v : Nat → Flags}
    (done : body (s.ctx u.g) (s.begun u.uses) =
      .done (((s.begun u.uses).setPred p (s.ctx u.g).ex fun l => (r l).1).raise (orFlags (s.ctx u.g).ex fun l => (r l).2)))
    (value : ∀ l, r l = (f l, v l)) : Computes i u s [] [(p, f)] (orFlags (s.ctx u.g).ex v) := by
  obtain rfl : r = fun l => (f l, v l) := funext value
  refine computes_of_effect meaning executes plain done ?_
  have written := effect_setPredOf (effect_begun u.uses plain (s.ctx u.g).ex) p f
  simpa using effect_raise written (orFlags (s.ctx u.g).ex v)

/-- A 32-bit result and the OR of its lanes' flags. -/
theorem computes_setRes {f : Nat → Nat × Flags}
    (done : body (s.ctx u.g) (s.begun u.uses) = .done ((s.begun u.uses).setRes d (s.ctx u.g).ex f)) :
    Computes i u s (one d fun l => BitVec.ofNat 32 (f l).1) [] (orFlags (s.ctx u.g).ex fun l => (f l).2) :=
  ⟨_, meaning.trans (issue_done executes done), result_setRes executes plain d f⟩

/-- A 64-bit result and the OR of its lanes' flags. -/
theorem computes_setRes64 {f : Nat → Nat × Flags} (pair : Use.dst d 2 ∈ u.uses)
    (done : body (s.ctx u.g) (s.begun u.uses) = .done ((s.begun u.uses).setRes64 d (s.ctx u.g).ex f)) :
    Computes i u s (two d fun l => BitVec.ofNat 64 (f l).1) [] (orFlags (s.ctx u.g).ex fun l => (f l).2) :=
  ⟨_, meaning.trans (issue_done executes done), result_setRes64 executes plain d pair f⟩

/-- A result of 32 or of 64 bits, as the instruction's type has it. -/
theorem computes_setRes_of_width {f : Nat → Nat × Flags} {wide : Bool} (pair : wide = true → Use.dst d 2 ∈ u.uses)
    (done : body (s.ctx u.g) (s.begun u.uses) = .done (if wide then (s.begun u.uses).setRes64 d (s.ctx u.g).ex f
      else (s.begun u.uses).setRes d (s.ctx u.g).ex f)) :
    Computes i u s (if wide then two d fun l => BitVec.ofNat 64 (f l).1 else one d fun l => BitVec.ofNat 32 (f l).1) []
      (orFlags (s.ctx u.g).ex fun l => (f l).2) := by
  cases wide
  case true => exact computes_setRes64 meaning executes plain (pair rfl) done
  case false => exact computes_setRes meaning executes plain done

end

end Sys2Proof.Machine
end

section
/-!
PROOF. Integer arithmetic in 32 bits (O1, O2): an exact result of two operands' values, wrapped or brought to the nearest end
of its range (R110).
-/

namespace Sys2Proof.Machine

/-! ## A value as an integer and back (R87) -/

@[simp] theorem ofInt_readInt (uns : Bool) (x : Word) : BitVec.ofInt 32 (readInt uns x) = x := by
  cases uns <;> simp [readInt]

theorem ofInt64_readInt (uns : Bool) (x : Word) :
    BitVec.ofInt 64 (readInt uns x) = if uns then x.setWidth 64 else x.signExtend 64 := by
  cases uns
  · rfl
  · simp [readInt, BitVec.ofNat_toNat]

@[simp] theorem ofInt_readInt64 (uns : Bool) (x : DWord) : BitVec.ofInt 64 (readInt64 uns x) = x := by
  cases uns <;> simp [readInt64]

/-! ## Exact results in 32 bits (R110) -/

/-- Without `.sat` the low bits of the exact result stay. -/
theorem intBits_wrap (w : Nat) (uns : Bool) (x : Int) : intBits w uns false x = BitVec.ofInt w x := rfl

/-- With `.sat` the exact result goes to the nearest end of the range. -/
theorem intBits_sat (uns : Bool) (x : Int) : intBits 32 uns true x = Claims.clamp32 uns x := by
  cases uns
  · have ends : intLo 32 false = -2147483648 ∧ intHi 32 false = 2147483647 := by decide
    simp only [intBits, Claims.clamp32, ends, if_true, Bool.false_eq_true, if_false]
    congr 1
    split_ifs <;> omega
  · have ends : intLo 32 true = 0 ∧ intHi 32 true = 4294967295 := by decide
    simp only [intBits, Claims.clamp32, ends, if_true]
    congr 1
    split_ifs <;> omega

/-- Bits 63:32 of an exact result are those of its low 64 bits. -/
theorem ofInt_div (z : Int) : BitVec.ofInt 32 (z / 2 ^ 32) = (BitVec.ofInt 64 z).extractLsb' 32 32 := by
  apply BitVec.eq_of_toNat_eq
  simp only [BitVec.toNat_ofInt, BitVec.extractLsb'_toNat, Nat.shiftRight_eq_div_pow]
  omega

theorem intBits_mulh (uns : Bool) (x y : Word) :
    intBits 32 uns false (readInt uns x * readInt uns y / 2 ^ 32) =
      ((if uns then x.setWidth 64 else x.signExtend 64) * (if uns then y.setWidth 64 else y.signExtend 64)).extractLsb' 32 32 := by
  rw [intBits_wrap, ofInt_div, BitVec.ofInt_mul, ofInt64_readInt, ofInt64_readInt]

theorem intBits_min (uns : Bool) (x y : Word) :
    intBits 32 uns false (min (readInt uns x) (readInt uns y)) = if readInt uns x ≤ readInt uns y then x else y := by
  rw [intBits_wrap, min_def, apply_ite (BitVec.ofInt 32), ofInt_readInt, ofInt_readInt]

theorem intBits_max (uns : Bool) (x y : Word) :
    intBits 32 uns false (max (readInt uns x) (readInt uns y)) = if readInt uns x ≤ readInt uns y then y else x := by
  rw [intBits_wrap, max_def, apply_ite (BitVec.ofInt 32), ofInt_readInt, ofInt_readInt]

theorem ofInt_natAbs (x : Word) : BitVec.ofInt 32 (x.toInt.natAbs : Int) = if x.toInt < 0 then -x else x := by
  split
  · next neg =>
    have abs : (x.toInt.natAbs : Int) = -x.toInt := by omega
    rw [abs, BitVec.ofInt_neg, BitVec.ofInt_toInt]
  · next pos =>
    have abs : (x.toInt.natAbs : Int) = x.toInt := by omega
    rw [abs, BitVec.ofInt_toInt]

/-- The absolute value leaves the range for one operand alone. -/
theorem intBits_abs_sat (x : Word) : intBits 32 false true (x.toInt.natAbs : Int) =
    if x = 0x80000000 then 0x7FFFFFFF else if x.toInt < 0 then -x else x := by
  split
  · next least => subst least; decide
  · next other =>
    have above : x.toInt ≠ -2147483648 := fun e => other (BitVec.eq_of_toInt_eq (e.trans (by decide)))
    have low := x.le_toInt
    have high := x.toInt_lt
    norm_num at low high
    rw [← ofInt_natAbs, intBits_sat]
    unfold Claims.clamp32
    rw [if_neg Bool.false_ne_true, if_neg (by omega), if_neg (by omega)]

/-! ## The instructions (R110) -/

theorem exec_imulh (g : Guard) (uns : Bool) (d : Dst) (a b : Src) (s : State) :
    exec (.imulh g uns d a b) s = execImulh g uns d a b s := rfl

/-- A two-source integer instruction computes in each lane the bits of its operation on the operands' values. -/
theorem computes2_int2 {i : Instr} {g : Guard} {uns sat : Bool} {d : Dst} {a b : Src} {op : Int → Int → Int}
    {f : Word → Word → Word} (meaning : ∀ s, exec i s = int2 g uns sat d a b op s)
    (value : ∀ x y, intBits 32 uns sat (op (readInt uns x) (readInt uns y)) = f x y) :
    Computes2 i (Claims.info2 g d a b) d a b f := fun s executes plain =>
  computes_setDst (meaning s) executes plain rfl fun _ => value _ _

end Sys2Proof.Machine

open Sys2Proof Sys2Proof.Machine

/-- Settles O1: the bits of an exact result respect sums and products, and bits 63:32 of a product are those of the
operands' 64-bit extensions. -/
theorem integerWraps : Obligations.IntegerWraps := by
  intro g uns d a b c
  refine ⟨?add, ?sub, ?mul, ?mad, ?mulhUns, ?mulh, ?minUns, ?min, ?maxUns, ?max, ?abs⟩
  case add =>
    refine computes2_int2 (fun _ => rfl) fun x y => ?_
    rw [intBits_wrap, BitVec.ofInt_add, ofInt_readInt, ofInt_readInt]
  case sub =>
    refine computes2_int2 (fun _ => rfl) fun x y => ?_
    rw [intBits_wrap, Int.sub_eq_add_neg, BitVec.ofInt_add, BitVec.ofInt_neg, ofInt_readInt, ofInt_readInt, BitVec.sub_eq_add_neg]
  case mul =>
    refine computes2_int2 (fun _ => rfl) fun x y => ?_
    rw [intBits_wrap, BitVec.ofInt_mul, ofInt_readInt, ofInt_readInt]
  case mad =>
    refine fun s executes plain => computes_setDst rfl executes plain rfl fun l => ?_
    rw [intBits_wrap, BitVec.ofInt_add, BitVec.ofInt_mul, ofInt_readInt, ofInt_readInt, ofInt_readInt]
  case mulhUns => exact computes2_int2 (exec_imulh g true d a b) (intBits_mulh true)
  case mulh => exact computes2_int2 (exec_imulh g false d a b) (intBits_mulh false)
  case minUns => exact computes2_int2 (fun _ => rfl) fun x y => (intBits_min true x y).trans (by simp [readInt])
  case min => exact computes2_int2 (fun _ => rfl) (intBits_min false)
  case maxUns => exact computes2_int2 (fun _ => rfl) fun x y => (intBits_max true x y).trans (by simp [readInt])
  case max => exact computes2_int2 (fun _ => rfl) (intBits_max false)
  case abs => exact fun s executes plain => computes_setDst rfl executes plain rfl fun _ => ofInt_natAbs _

/-- Settles O2: the model's saturation is the statement's clamp of the same exact result; IABS leaves its range for
-2^31 alone. -/
theorem integerSaturates : Obligations.IntegerSaturates := by
  intro g uns d a b c r
  refine ⟨?add, ?sub, ?mul, ?mad, ?abs⟩
  case add => exact computes2_int2 (fun _ => rfl) fun _ _ => intBits_sat uns _
  case sub => exact computes2_int2 (fun _ => rfl) fun _ _ => intBits_sat uns _
  case mul => exact computes2_int2 (fun _ => rfl) fun _ _ => intBits_sat uns _
  case mad => exact fun s executes plain => computes_setDst rfl executes plain rfl fun _ => intBits_sat uns _
  case abs => exact fun s executes plain => computes_setDst rfl executes plain rfl fun _ => intBits_abs_sat _

end

section
/-!
PROOF. Comparisons of integers, logic and moves of predicates (O3).
-/

namespace Sys2Proof.Machine

section
variable {g : Guard} {d x y : Fin 8} {a b : Src} {s : State}

/-- ICMP writes its relation of the operands' values (R112). -/
theorem computes_icmp (rel : IRel) (plain : s.plain = true)
    (executes : ({ g := g, uses := [.pout d, u1 a, u1 b] } : Info).executes s = true) :
    let r := s.begun [.pout d, u1 a, u1 b]
    Computes (.icmp g rel d a b) { g := g, uses := [.pout d, u1 a, u1 b] } s []
      [(d, fun l => intRel rel (r.src a l) (r.src b l))] 0 :=
  computes_setPred rfl executes plain rfl fun _ => rfl

/-- PLOP writes in each lane what its mask holds there (R116). -/
theorem computes_plop (op : PlopOp) (plain : s.plain = true)
    (executes : ({ g := g, uses := [.pout d, .pin x, .pin y] } : Info).executes s = true) {f : Nat → Bool}
    (value : ∀ k < 32, (plopMask op (s.here.pred x) (s.here.pred y)).getLsbD k = f k) :
    Computes (.plop g op d x y) { g := g, uses := [.pout d, .pin x, .pin y] } s [] [(d, f)] 0 := by
  let r := s.begun [.pout d, .pin x, .pin y]
  have mask : plopMask op (r.here.pred x) (r.here.pred y) = maskOf f := by
    refine BitVec.eq_of_getLsbD_eq fun k hk => ?_
    simp only [r, State.pred_begun, value k hk, maskOf_getLsbD, hk, decide_true, Bool.true_and]
  refine computes_setPred rfl executes plain (f' := f) ?_ fun _ => rfl
  show Act.done (r.modHere fun st => st.setPred d (s.ctx g).ex (plopMask op (r.here.pred x) (r.here.pred y))) = _
  rw [mask]
  rfl

end

end Sys2Proof.Machine

open Sys2Proof Sys2Proof.Machine

/-- Settles O3: the relations of the statement are ICMP's by their definitions, and PLOP's masks are read bit by bit. -/
theorem predicateInstructions : Obligations.PredicateInstructions := by
  intro g d x y q a b s plain
  refine ⟨?icmp, ?plop, ?mask, ?lanes⟩
  case icmp =>
    intro u va vb executes
    have gives (rel : IRel) := computes_icmp rel plain executes
    exact ⟨gives .eq, gives .ne, gives .lt, gives .le, gives .gt, gives .ge, gives .ult, gives .ule, gives .ugt, gives .uge⟩
  case plop =>
    intro u px py executes
    have gives (op : PlopOp) {f : Nat → Bool} := computes_plop op plain executes (f := f)
    refine ⟨gives .and ?_, gives .or ?_, gives .xor ?_, gives .andn ?_, gives .orn ?_, gives .not ?_⟩ <;> intro k hk <;>
      simp [plopMask, px, py, hk]
  case mask =>
    intro u executes
    exact computes_setDst rfl executes plain rfl fun _ => State.pred_begun ..
  case lanes =>
    intro u executes
    exact ⟨computes_setPred rfl executes plain rfl fun _ => rfl, computes_setPred rfl executes plain rfl fun _ => rfl⟩

end

section
/-!
PROOF. Integer arithmetic on pairs, and division (O25).
-/

namespace Sys2Proof.Machine

theorem pairArithmetic : Claims.PairArithmetic := by
  intro g uns zext sh d a b c s plain
  refine ⟨?add, ?mad, ?lea, ?mov⟩
  case add =>
    intro u r executes
    refine computes_setPair rfl executes plain (by simp [u, d2]) rfl fun l => ?_
    rw [intBits_wrap, BitVec.ofInt_add, ofInt_readInt64, ofInt_readInt64]
  case mad =>
    intro u r executes
    refine computes_setPair rfl executes plain (by simp [u, d2]) rfl fun l => ?_
    rw [intBits_wrap, BitVec.ofInt_add, BitVec.ofInt_mul, ofInt64_readInt, ofInt64_readInt, ofInt_readInt64]
    cases uns <;> rfl
  case lea =>
    intro u r executes
    exact computes_setPair rfl executes plain (by simp [u, d2]) rfl fun _ => rfl
  case mov =>
    intro u r executes
    exact computes_setPair rfl executes plain (by simp [u, d2]) rfl fun _ => rfl

/-! ## Division (R111) -/

theorem ofInt_toNat (x : Word) : BitVec.ofInt 32 (x.toNat : Int) = x := ofInt_readInt true x

/-- An exact result within the range is left by saturation. -/
theorem intBits_of_range {uns sat : Bool} {x : Int} (above : intLo 32 uns ≤ x) (below : x ≤ intHi 32 uns) :
    intBits 32 uns sat x = BitVec.ofInt 32 x := by
  cases sat
  · rfl
  · simp only [intBits, if_true]
    rw [max_eq_left above, min_eq_left below]

theorem divBits_unsigned (sat : Bool) {x y : Word} (nonzero : y ≠ 0) : divBits true sat x y = x / y := by
  have quotient : Int.tdiv (readInt true x) (readInt true y) = ((x / y).toNat : Int) := by
    simp [readInt, BitVec.toNat_udiv]
  have below := (x / y).isLt
  have ends : intLo 32 true = 0 ∧ intHi 32 true = 4294967295 := by decide
  rw [divBits, if_neg nonzero, quotient, intBits_of_range (by omega) (by omega), ofInt_toNat]

theorem divBits_overflow (sat : Bool) :
    divBits false sat 0x80000000 0xFFFFFFFF = if sat then 0x7FFFFFFF else 0x80000000 := by
  cases sat <;> decide

theorem divBits_signed (sat : Bool) {x y : Word} (nonzero : y ≠ 0) (fits : ¬ (x = 0x80000000 ∧ y = 0xFFFFFFFF)) :
    divBits false sat x y = x.sdiv y := by
  have quotient : Int.tdiv (readInt false x) (readInt false y) = (x.sdiv y).toInt :=
    (BitVec.toInt_sdiv_of_ne_or_ne x y (not_and_or.1 fits)).symm
  have ends : intLo 32 false = -2147483648 ∧ intHi 32 false = 2147483647 := by decide
  have above := (x.sdiv y).le_toInt
  have below := (x.sdiv y).toInt_lt
  norm_num at above below
  rw [divBits, if_neg nonzero, quotient, intBits_of_range (by omega) (by omega), BitVec.ofInt_toInt]

theorem divBits_eq (uns sat : Bool) (x y : Word) : divBits uns sat x y = Claims.quotient uns sat x y := by
  unfold Claims.quotient
  by_cases zero : y = 0
  · rw [divBits, if_pos zero, if_pos zero]
  rw [if_neg zero]
  cases uns
  case true => exact divBits_unsigned sat zero
  case false =>
    by_cases overflow : x = 0x80000000 ∧ y = 0xFFFFFFFF
    · rw [if_neg Bool.false_ne_true, if_pos overflow, overflow.1, overflow.2]
      exact divBits_overflow sat
    · rw [if_neg Bool.false_ne_true, if_neg overflow]
      exact divBits_signed sat zero overflow

theorem remBits_eq (uns : Bool) (x y : Word) : remBits uns x y = Claims.remainder uns x y := by
  unfold remBits Claims.remainder
  split_ifs with zero unsigned
  · rfl
  · have rem : Int.tmod (readInt true x) (readInt true y) = ((x % y).toNat : Int) := by
      simp only [readInt, if_true, BitVec.toNat_umod]
      rfl
    rw [unsigned, rem, ofInt_toNat]
  · obtain rfl : uns = false := by simpa using unsigned
    have rem : Int.tmod (readInt false x) (readInt false y) = (x.srem y).toInt := (BitVec.toInt_srem x y).symm
    rw [rem, BitVec.ofInt_toInt]

theorem division : Claims.Division := by
  intro g la uns sat d a b s u r executes
  refine ⟨issue_done executes ?_, issue_done executes ?_⟩
  · simp only [divBits_eq]
    rfl
  · simp only [remBits_eq]
    rfl

end Sys2Proof.Machine

open Sys2Proof Sys2Proof.Machine

/-- Settles O25: pairs wrap as the bits of an exact result do, and the exact quotient leaves the range for -2^31 by -1 alone. -/
theorem pairsAndDivision : Obligations.PairsAndDivision := ⟨pairArithmetic, division⟩

end

section
/-!
PROOF. Bits, shifts and fields (O26).
-/

namespace Sys2Proof.Machine

/-! ## Shifts, counts and order of bits (R113) -/

/-- A two-source instruction on bits computes its function in each lane. -/
theorem computes2_bits2 {i : Instr} {g : Guard} {d : Dst} {a b : Src} {f' f : Word → Word → Word}
    (meaning : ∀ s, exec i s = bits2 g d a b f' s) (value : ∀ x y, f' x y = f x y) :
    Computes2 i (Claims.info2 g d a b) d a b f := fun s executes plain =>
  computes_setDst (meaning s) executes plain rfl fun _ => value _ _

theorem computes1_bits1 {i : Instr} {g : Guard} {d : Dst} {a : Src} {f' f : Word → Word}
    (meaning : ∀ s, exec i s = bits1 g d a f' s) (value : ∀ x, f' x = f x) :
    Computes1 i (Claims.info1 g d a) d a f := fun s executes plain =>
  computes_setDst (meaning s) executes plain rfl fun _ => value _

theorem exec_shl (g : Guard) (d : Dst) (a b : Src) (s : State) : exec (.shl g d a b) s = execShl g d a b s := rfl
theorem exec_shr (g : Guard) (d : Dst) (a b : Src) (s : State) : exec (.shr g d a b) s = execShr g d a b s := rfl
theorem exec_sar (g : Guard) (d : Dst) (a b : Src) (s : State) : exec (.sar g d a b) s = execSar g d a b s := rfl
theorem exec_popc (g : Guard) (d : Dst) (a : Src) (s : State) : exec (.popc g d a) s = execPopc g d a s := rfl
theorem exec_clz (g : Guard) (d : Dst) (a : Src) (s : State) : exec (.clz g d a) s = execClz g d a s := rfl
theorem exec_brev (g : Guard) (d : Dst) (a : Src) (s : State) : exec (.brev g d a) s = execBrev g d a s := rfl
theorem exec_rot (g : Guard) (right : Bool) (d : Dst) (a b : Src) (s : State) :
    exec (.rot g right d a b) s = execRot g right d a b s := rfl

theorem shiftLeft_cut (x : Word) (n : Nat) : (if 32 ≤ n then 0 else x <<< n) = x <<< n := by
  split
  · next beyond => exact (BitVec.shiftLeft_eq_zero beyond).symm
  · rfl

theorem ushiftRight_cut (x : Word) (n : Nat) : (if 32 ≤ n then 0 else x >>> n) = x >>> n := by
  split
  · next beyond => exact (BitVec.ushiftRight_eq_zero beyond).symm
  · rfl

/-- A shift by more than 31 copies bit 31 as one by 31 does. -/
theorem sshiftRight_min (x : Word) (n : Nat) : x.sshiftRight (min 31 n) = x.sshiftRight n := by
  rcases Nat.le_total n 31 with within | beyond
  · rw [min_eq_right within]
  · refine BitVec.eq_of_getLsbD_eq fun k hk => ?_
    rw [min_eq_left beyond, BitVec.getLsbD_sshiftRight, BitVec.getLsbD_sshiftRight, BitVec.msb_eq_getLsbD_last]
    rcases Nat.eq_zero_or_pos k with rfl | positive
    · rcases Nat.eq_or_lt_of_le beyond with rfl | above
      · rfl
      · simp [show ¬ n < 32 by omega]
    · simp [show ¬ 31 + k < 32 by omega, show ¬ n + k < 32 by omega]

theorem popcount_eq (x : Word) : popcount x = (List.range 32).countP fun k => x.getLsbD k :=
  List.countP_eq_length_filter.symm

theorem leadingZeros_eq (x : Word) : 32 - bitLen x.toNat = if x = 0 then 32 else 31 - Nat.log2 x.toNat := by
  have zero : x.toNat = 0 ↔ x = 0 := by simp [BitVec.toNat_eq]
  simp only [bitLen, zero]
  split <;> omega

theorem maskOf_reverse (x : Word) : (maskOf fun k => x.getLsbD (31 - k)) = x.reverse := by
  refine BitVec.eq_of_getLsbD_eq fun k hk => ?_
  rw [maskOf_getLsbD, BitVec.getLsbD_reverse, BitVec.getMsbD]

theorem bitInstructions : Claims.BitInstructions := by
  intro g d a b
  refine ⟨?and, ?or, ?xor, ?shl, ?shr, ?sar, ?rotLeft, ?rotRight, ?popc, ?clz, ?brev, ?mov⟩
  case and => exact computes2_bits2 (fun _ => rfl) fun _ _ => rfl
  case or => exact computes2_bits2 (fun _ => rfl) fun _ _ => rfl
  case xor => exact computes2_bits2 (fun _ => rfl) fun _ _ => rfl
  case shl => exact computes2_bits2 (exec_shl g d a b) fun x n => shiftLeft_cut x n.toNat
  case shr => exact computes2_bits2 (exec_shr g d a b) fun x n => ushiftRight_cut x n.toNat
  case sar => exact computes2_bits2 (exec_sar g d a b) fun x n => sshiftRight_min x n.toNat
  case rotLeft => exact computes2_bits2 (exec_rot g false d a b) fun _ _ => rfl
  case rotRight => exact computes2_bits2 (exec_rot g true d a b) fun _ _ => rfl
  case popc => exact computes1_bits1 (exec_popc g d a) fun x => congrArg (BitVec.ofNat 32) (popcount_eq x)
  case clz => exact computes1_bits1 (exec_clz g d a) fun x => congrArg (BitVec.ofNat 32) (leadingZeros_eq x)
  case brev => exact computes1_bits1 (exec_brev g d a) maskOf_reverse
  case mov => exact fun s executes plain => computes_setDst rfl executes plain rfl fun _ => rfl

/-! ## Fields (R114) -/

theorem fieldOf_eq (b : Word) : fieldOf b = (Claims.pos b, Claims.len b) := by
  have pos : (b.extractLsb' 0 8).toNat = b.toNat % 256 := by simp
  have len : (b.extractLsb' 8 8).toNat = b.toNat / 256 % 256 := by simp [Nat.shiftRight_eq_div_pow]
  simp only [fieldOf, pos, len, Claims.pos, Claims.len]

/-- A field that is not empty lies within the word. -/
theorem pos_add_len_le {b : Word} (h : Claims.len b ≠ 0) : Claims.pos b + Claims.len b ≤ 32 := by
  unfold Claims.len at h ⊢
  unfold Claims.pos
  split at h
  · next within => rw [if_pos within]; omega
  · exact absurd rfl h

theorem bfeBits_eq (uns : Bool) (x b : Word) : bfeBits uns x b =
    if Claims.len b = 0 then 0
    else if uns then (x.extractLsb' (Claims.pos b) (Claims.len b)).setWidth 32
    else (x.extractLsb' (Claims.pos b) (Claims.len b)).signExtend 32 := by
  have field := fieldOf_eq b
  unfold bfeBits
  generalize fieldOf b = f at field ⊢
  subst field
  rfl

theorem bfeBits_unsigned (x b : Word) :
    bfeBits true x b = BitVec.ofNat 32 (x.toNat / 2 ^ Claims.pos b % 2 ^ Claims.len b) := by
  simp only [bfeBits_eq, if_true]
  split
  · next empty => rw [empty, pow_zero, Nat.mod_one]; rfl
  · apply BitVec.eq_of_toNat_eq
    simp [Nat.shiftRight_eq_div_pow]

theorem signExtend_empty (x : Word) (p : Nat) {n : Nat} (h : n = 0) : (x.extractLsb' p n).signExtend 32 = 0 := by
  subst h
  simp [BitVec.eq_nil (x.extractLsb' p 0)]

theorem bfeBits_signed (x b : Word) :
    bfeBits false x b = (x.extractLsb' (Claims.pos b) (Claims.len b)).signExtend 32 := by
  simp only [bfeBits_eq, Bool.false_eq_true, if_false]
  split
  · next empty => exact (signExtend_empty x _ empty).symm
  · rfl

/-- The low bits that a field takes. -/
theorem getLsbD_shiftLeft_sub_one {n : Nat} (h : n ≤ 32) (k : Nat) :
    ((1 <<< n : Word) - 1).getLsbD k = decide (k < n) := by
  have value : ((1 <<< n : Word) - 1).toNat = 2 ^ n - 1 := by
    rcases Nat.eq_or_lt_of_le h with rfl | less
    · decide
    · have bound : 2 ^ n < 2 ^ 32 := Nat.pow_lt_pow_right (by decide) less
      have positive : 0 < 2 ^ n := Nat.two_pow_pos n
      have one : (1 : Word).toNat = 1 := rfl
      have power : (1 <<< n : Word).toNat = 2 ^ n := by
        rw [Nat.one_shiftLeft]
        exact Nat.mod_eq_of_lt bound
      rw [BitVec.toNat_sub, power, one]
      omega
  rw [← BitVec.testBit_toNat, value, Nat.testBit_two_pow_sub_one]

/-- The bits of a field, and of what lies beside it (R114). -/
theorem getLsbD_bfiBits {a b c : Word} (field : Claims.len b ≠ 0) {k : Nat} (hk : k < 32) :
    (bfiBits a b c).getLsbD k = if Claims.pos b ≤ k ∧ k < Claims.pos b + Claims.len b
      then a.getLsbD (k - Claims.pos b) else c.getLsbD k := by
  have within := pos_add_len_le field
  have full : (if Claims.len b = 32 then BitVec.allOnes 32 else ((1 <<< Claims.len b : Word) - 1) <<< Claims.pos b) =
      ((1 <<< Claims.len b : Word) - 1) <<< Claims.pos b := by
    split
    · next whole => rw [whole, show Claims.pos b = 0 by omega]; decide
    · rfl
  have mask : (((1 <<< Claims.len b : Word) - 1) <<< Claims.pos b).getLsbD k =
      decide (Claims.pos b ≤ k ∧ k < Claims.pos b + Claims.len b) := by
    rw [BitVec.getLsbD_shiftLeft, getLsbD_shiftLeft_sub_one (by omega)]
    by_cases above : Claims.pos b ≤ k
    · simp [above, hk, Nat.sub_lt_iff_lt_add above, Nat.add_comm]
    · simp [above]
  simp only [bfiBits, fieldOf_eq]
  rw [full, BitVec.getLsbD_or, BitVec.getLsbD_and, BitVec.getLsbD_and, BitVec.getLsbD_not, mask, BitVec.getLsbD_shiftLeft]
  by_cases inside : Claims.pos b ≤ k ∧ k < Claims.pos b + Claims.len b
  · simp [inside, hk]
  · simp [inside, hk]

/-- An empty field leaves C whole. -/
theorem getLsbD_bfi (a b c : Word) {k : Nat} (hk : k < 32) :
    (if (fieldOf b).2 = 0 then c else bfiBits a b c).getLsbD k = if Claims.pos b ≤ k ∧ k < Claims.pos b + Claims.len b
      then a.getLsbD (k - Claims.pos b) else c.getLsbD k := by
  rw [fieldOf_eq]
  by_cases empty : Claims.len b = 0
  · rw [if_pos empty, if_neg (by omega)]
  · rw [if_neg empty, getLsbD_bfiBits empty hk]

theorem fieldInstructions : Claims.FieldInstructions := by
  intro g d a b c p
  refine ⟨?bfe, ?bfeSigned, fun s plain executes => ⟨_, computes_setDst rfl executes plain rfl fun _ => rfl, ?bfi⟩, ?sel⟩
  case bfe => exact computes2_bits2 (fun _ => rfl) bfeBits_unsigned
  case bfeSigned => exact computes2_bits2 (fun _ => rfl) bfeBits_signed
  case bfi => exact fun l k hk => getLsbD_bfi _ _ _ hk
  case sel =>
    intro u s plain executes
    refine computes_setDst rfl executes plain rfl fun l => ?_
    rw [State.pred_begun]

end Sys2Proof.Machine

open Sys2Proof Sys2Proof.Machine

/-- Settles O26: each function on bits is the statement's bit by bit, the long shifts and the empty field apart. -/
theorem bitsAndFields : Obligations.BitsAndFields := ⟨bitInstructions, fieldInstructions⟩

end

section
/-!
PROOF. Floating-point arithmetic in its four formats, comparisons and conversions (O5, O6, O27).
-/

namespace Sys2Proof.Machine

/-! ## Arithmetic (R118, R119) -/

theorem singlePrecision : Claims.SinglePrecision := by
  intro g m d a b c s plain x y z gives
  refine ⟨?two, ?three, ?round⟩
  case two =>
    intro u r executes
    exact ⟨computes_setRes rfl executes plain rfl, computes_setRes rfl executes plain rfl,
      computes_setRes rfl executes plain rfl, computes_setRes rfl executes plain rfl⟩
  case three => exact fun executes => computes_setRes rfl executes plain rfl
  case round => exact fun executes => computes_setRes rfl executes plain rfl

theorem pairedHalves : Claims.PairedHalves := by
  intro g bf m d a b c s plain f e x y z gives
  refine ⟨?two, ?three⟩
  case two =>
    intro u r executes
    exact ⟨computes_setRes rfl executes plain rfl, computes_setRes rfl executes plain rfl⟩
  case three => exact fun executes => computes_setRes rfl executes plain rfl

theorem doublePrecision : Claims.DoublePrecision := by
  intro g m d a b c s plain x y z gives
  refine ⟨?two, ?three⟩
  case two =>
    intro u r executes
    have pair : Use.dst d 2 ∈ u.uses := by simp [u, d2]
    exact ⟨computes_setRes64 rfl executes plain pair rfl, computes_setRes64 rfl executes plain pair rfl,
      computes_setRes64 rfl executes plain pair rfl, computes_setRes64 rfl executes plain pair rfl⟩
  case three => exact fun executes => computes_setRes64 rfl executes plain (by simp [d2]) rfl

/-! ## Comparisons (R120) -/

theorem FVal.isSig_of_not_isNan {x : FVal} (h : x.isNan = false) : x.isSig = false := by
  cases x with
  | nan sig => cases h
  | inf neg => rfl
  | fin neg m e => rfl

/-- A comparison's relation and flag are those of R120. -/
theorem fpCmp_eq (f : Fmt) (rel : FRel) (x y : Nat) :
    fpCmp f rel x y = (Claims.related rel (f.value x) (f.value y), Claims.relationFlags rel (f.value x) (f.value y)) := by
  by_cases nan : ((f.value x).isNan || (f.value y).isNan) = true
  · cases rel <;> simp [fpCmp, Claims.related, Claims.relationFlags, Flags.when, nan]
  · have numbers : (f.value x).isNan = false ∧ (f.value y).isNan = false := by simpa using nan
    have quiet : (f.value x).isSig = false ∧ (f.value y).isSig = false :=
      ⟨FVal.isSig_of_not_isNan numbers.1, FVal.isSig_of_not_isNan numbers.2⟩
    cases rel <;> simp [fpCmp, Claims.related, Claims.relationFlags, Flags.when, numbers, quiet, beq_eq_decide, bne]

end Sys2Proof.Machine

open Sys2Proof Sys2Proof.Machine

/-- Settles O27: in every format the model rounds what the statement rounds, and the flags go to FSTAT with the result. -/
theorem floatArithmetic : Obligations.FloatArithmetic := ⟨singlePrecision, pairedHalves, doublePrecision⟩

/-- Settles O5: the model's comparison is the statement's relation and flag for two values of any format. -/
theorem floatCompare : Obligations.FloatCompare := by
  intro g rel m d a b s plain
  refine ⟨?single, ?double⟩
  case single => exact fun executes => computes_setPred_raise rfl executes plain rfl fun _ => fpCmp_eq ..
  case double => exact fun executes => computes_setPred_raise rfl executes plain rfl fun _ => fpCmp_eq ..

/-- Settles O6: the statement's conversion is the model's, of a source and into a result of either width. -/
theorem conversions : Obligations.Conversions := by
  intro g op m d a s plain wideS wideD u r v executes
  refine computes_setRes_of_width rfl executes plain (fun wide => ?_) rfl
  simp [u, wide, d2]

end

section
/-!
PROOF. Special functions and the activation table (O28).
-/

namespace Sys2Proof.Machine

section
variable {i : Instr} {g : Guard} {la : Fin 16} {neg abs : Bool} {d : Dst} {a : Src} {f : FVal → Nat × Flags} {s : State}

/-- A binary32 special function issues as a long-latency result of one register (R49, R122). -/
theorem completes_sfu32 (meaning : exec i s = sfu32 g la neg abs d a f s)
    (executes : ({ g := g, cls := .x, uses := [d1 d, u1 a], la := some la } : Info).executes s = true) :
    let v := fun l => f32.value (Claims.operand f32 abs neg ((s.begun [d1 d, u1 a]).src a l).toNat)
    Completes i { g := g, cls := .x, uses := [d1 d, u1 a], la := some la } s fun c t =>
      t.longLat c la d 1 (fun _ l => BitVec.ofNat 32 (f (v l)).1) (orFlags c.ex fun l => (f (v l)).2) :=
  meaning.trans (issue_done executes rfl)

/-- A binary64 one, of a pair. -/
theorem completes_sfu64 (meaning : exec i s = sfu64 g la neg abs d a f s)
    (executes : ({ g := g, cls := .x, uses := [d2 d, u2 a], la := some la } : Info).executes s = true) :
    let v := fun l => f64.value (Claims.operand f64 abs neg ((s.begun [d2 d, u2 a]).srcPair a l).toNat)
    Completes i { g := g, cls := .x, uses := [d2 d, u2 a], la := some la } s fun c t =>
      t.longLat c la d 2 (fun k l => (BitVec.ofNat 64 (f (v l)).1).extractLsb' (32 * k) 32)
        (orFlags c.ex fun l => (f (v l)).2) :=
  meaning.trans (issue_done executes rfl)

end

theorem specialFunctions : Claims.SpecialFunctions := by
  intro g la neg abs d a s
  refine ⟨?single, ?double⟩
  case single =>
    intro u v gives executes
    exact ⟨completes_sfu32 rfl executes, completes_sfu32 rfl executes, completes_sfu32 rfl executes,
      completes_sfu32 rfl executes, completes_sfu32 rfl executes, completes_sfu32 rfl executes,
      completes_sfu32 rfl executes, completes_sfu32 rfl executes⟩
  case double =>
    intro u v gives executes
    exact ⟨completes_sfu64 rfl executes, completes_sfu64 rfl executes⟩

theorem activationTable : Claims.ActivationTable := by
  intro g la d a b c s
  refine ⟨?evaluate, ?switch⟩
  case evaluate => exact fun executes clean => issue_done executes (clean _)
  case switch => exact fun executes => issue_done executes rfl

end Sys2Proof.Machine

open Sys2Proof Sys2Proof.Machine

/-- Settles O28: a special function is one long-latency result, and TBLEV goes on to its own once no entry that it reads is
poisoned. -/
theorem specialFunctionsAndTable : Obligations.SpecialFunctionsAndTable := ⟨specialFunctions, activationTable⟩

end

section
/-!
PROOF. Tiles, VOTE and PART (O29).
-/

namespace Sys2Proof.Machine

/-! ## Tiles (R126, R127) -/

@[simp] theorem State.tileW_begun (s : State) (us : List Use) : (s.begun us).tileW = s.here.partw.toNat := by
  rw [State.tileW, State.here_begun]
  rfl

theorem tileLanes_eq (w : Nat) (ex : Mask) (i : Nat) :
    tileLanes w ex i = (List.range 32).filter fun j => ex.getLsbD j && j / w == i / w := by
  rw [tileLanes, maskLanes, lanes, List.filter_filter]
  simp only [Bool.and_comm]

/-- A lane's tile as an issue's body sees it. -/
theorem tileLanes_begun (s : State) (us : List Use) (ex : Mask) (i : Nat) : tileLanes (s.begun us).tileW ex i =
    (List.range 32).filter fun j => ex.getLsbD j && j / s.here.partw.toNat == i / s.here.partw.toNat := by
  rw [State.tileW_begun, tileLanes_eq]

theorem tileBase_eq (w i : Nat) : tileBase w i = i - i % w := by
  have parts := Nat.div_add_mod i w
  unfold tileBase
  omega

/-! ## VOTE and PART (R127, R128) -/

theorem length_filter_beq (l : List Nat) (p : Nat → Bool) : ((l.filter p).length == l.length) = l.all p := by
  rw [Bool.eq_iff_iff, beq_iff_eq, List.length_filter_eq_length_iff, List.all_eq_true]

theorem not_isEmpty_filter (l : List Nat) (p : Nat → Bool) : (!(l.filter p).isEmpty) = l.any p := by
  rw [Bool.eq_iff_iff]
  simp

theorem vote : Claims.Vote := by
  intro g p a d s plain w tile yes
  have sets (us : List Use) (l : Nat) : voteSets (s.begun us) (s.ctx g).ex a l = (tile l, yes l) := by
    simp only [voteSets, tileLanes_begun, State.pred_begun, tile, yes, w]
  refine ⟨?preds, ?words⟩
  case preds =>
    intro u executes
    refine ⟨computes_setPred rfl executes plain rfl fun l => ?_, computes_setPred rfl executes plain rfl fun l => ?_,
      computes_setPred rfl executes plain rfl fun l => ?_⟩
    · rw [sets]; exact length_filter_beq ..
    · rw [sets]; exact not_isEmpty_filter ..
    · rw [sets]; exact congrArg (· || (yes l).isEmpty) (length_filter_beq ..)
  case words =>
    intro u executes
    refine ⟨computes_setDst rfl executes plain rfl fun l => ?_, computes_setDst rfl executes plain rfl fun l => ?_,
      computes_setDst rfl executes plain rfl fun l => ?_⟩
    · rw [sets]
    · rw [sets]
    · rw [sets, State.tileW_begun]
      cases yes l <;> rfl

theorem tileWidth : Claims.TileWidth := by
  intro g b s u w executes
  have lane : (s.ctx g).ex ≠ 0 := Info.ex_of_executes executes
  refine ⟨fun width => issue_done executes ?_, fun other => issue_trap executes (if_neg other)⟩
  refine (if_pos width).trans ?_
  rw [if_neg lane]
  rfl

end Sys2Proof.Machine

open Sys2Proof Sys2Proof.Machine

/-- Settles O29: the lanes of a tile and those of them that vote yes are the model's two sets, and a count that agrees says
that all do. -/
theorem voteAndTiles : Obligations.VoteAndTiles := ⟨vote, tileWidth⟩

end

section
/-!
PROOF. Moves across lanes, reductions and scans within tiles (O30).
-/

namespace Sys2Proof.Machine

/-! ## SHFL, MATCH and COMPACT (R129, R270, R271) -/

/-- The lane that SHFL reads is counted from the first lane of the tile. -/
theorem shflLane_eq (m : ShflMode) (w i n : Nat) : shflLane m w i n = Claims.sourceLane m w i n := by
  cases m <;> simp only [shflLane, Claims.sourceLane, tileBase_eq]

theorem append_word_inj {x y x' y' : Word} : x ++ y = x' ++ y' ↔ x = x' ∧ y = y' := by
  refine ⟨fun h => ⟨?_, ?_⟩, fun ⟨hx, hy⟩ => by rw [hx, hy]⟩
  · simpa only [BitVec.extractLsb'_append_eq_left] using congrArg (BitVec.extractLsb' 32 32) h
  · simpa only [BitVec.setWidth_append_eq_right] using congrArg (BitVec.setWidth 32) h

/-- Two lanes' wide keys agree when both their words do, whichever word stands above (R270). -/
theorem matchKey_wide_beq (s : State) (a b : Src) (i j : Nat) :
    let key := fun l => (s.srcPair a l).setWidth 32 ++ ((s.srcPair a l).extractLsb' 32 32 &&& s.src b l)
    (matchKey s true a b j == matchKey s true a b i) = (key j == key i) := by
  intro key
  rw [Bool.eq_iff_iff, beq_iff_eq, beq_iff_eq]
  simp only [key, matchKey, if_true, pairOf, append_word_inj, and_comm]

theorem matchKey_narrow_beq (s : State) (a b : Src) (i j : Nat) :
    (matchKey s false a b j == matchKey s false a b i) = ((s.src a j &&& s.src b j) == (s.src a i &&& s.src b i)) := by
  have wider {x y : Word} : x.setWidth 64 = y.setWidth 64 ↔ x = y :=
    ⟨fun h => by simpa using congrArg (BitVec.setWidth 32) h, congrArg _⟩
  rw [Bool.eq_iff_iff, beq_iff_eq, beq_iff_eq]
  simp only [matchKey, Bool.false_eq_true, if_false, wider]

theorem laneMoves : Claims.LaneMoves := by
  intro g mode d a b p s plain w tile
  refine ⟨?narrow, ?wide, ?compact⟩
  case narrow =>
    intro u r executes
    refine ⟨computes_setDst rfl executes plain rfl fun l => ?_, computes_setDst rfl executes plain rfl fun l => ?_⟩
    · rw [shflLane_eq, State.tileW_begun]
    · simp only [tileLanes_begun, matchKey_narrow_beq]
      rfl
  case wide =>
    intro u r key executes
    refine computes_setDst rfl executes plain rfl fun l => ?_
    simp only [tileLanes_begun, matchKey_wide_beq]
    rfl
  case compact =>
    intro u r executes
    refine computes_setDst rfl executes plain rfl fun l => ?_
    simp only [compactVal, tileLanes_begun, State.pred_begun]
    rfl

/-! ## REDG and SCAN (R130, R131) -/

theorem reductions : Claims.Reductions := by
  intro g op sc seg rm d a s plain
  refine ⟨?tree, ?chain⟩
  case tree => exact fun executes => computes_setDst_raise rfl executes plain rfl
  case chain =>
    intro u r starts v executes
    refine computes_setDst_raise rfl executes plain ?_
    simp only [State.pred_begun]
    rfl

end Sys2Proof.Machine

open Sys2Proof Sys2Proof.Machine

/-- Settles O30: a lane's source, its matches and its survivor are counted within the statement's tile, wide keys agree word by
word, and the start of an issue leaves the predicate that marks SCAN's segments. -/
theorem movesAcrossLanes : Obligations.MovesAcrossLanes := ⟨laneMoves, reductions⟩

end

section
/-!
PROOF. Packing of six- and four-bit codes (O7).
-/

namespace Sys2Proof.Machine

/-- A code extended by zeros is its w bits as a word. -/
theorem extendCode_eq (w : Nat) (sgn : Bool) (x : Nat) :
    extendCode w sgn x = if sgn then (BitVec.ofNat w x).signExtend 32 else (BitVec.ofNat w x).setWidth 32 := by
  cases sgn with
  | true => rfl
  | false =>
    refine BitVec.eq_of_toNat_eq ?_
    simp [extendCode]

end Sys2Proof.Machine

open Sys2Proof Sys2Proof.Machine

/-- Settles O7: the statement's sums over lanes and over words are the model's own, and a code is extended as a bit vector. -/
theorem packing : Obligations.Packing := by
  intro g sgn d a s plain u r codes words code executes
  exact ⟨computes_setDst rfl executes plain rfl fun _ => rfl, computes_setDst rfl executes plain rfl fun _ => rfl,
    computes_setDst rfl executes plain rfl fun _ => extendCode_eq ..,
    computes_setDst rfl executes plain rfl fun _ => extendCode_eq ..⟩

end

section
/-!
PROOF. Conversions through a tensor entry (O8): once the entry is read, an instruction is what its meaning gives of it.
-/

namespace Sys2Proof.Machine

section
variable {i : Instr} {u : Info} {s r : State} {tid : Nat} {e : Tensor} {go : Ctx → Tensor → State → Act}
  (meaning : exec i s = issue u (fun c q => tensorAt c tid q (go c)) s) (executes : u.executes s = true)
  (read : Claims.entry (s.ctx u.g) tid (s.begun u.uses) e r)
include meaning executes read

/-- An instruction that reads a tensor entry completes with what follows the reading. -/
theorem completes_of_entry {effect : Ctx → State → State}
    (done : go (s.ctx u.g) e r = .done (effect (s.ctx u.g) (s.begun u.uses))) : Completes i u s effect :=
  meaning.trans (issue_done executes ((read _).trans done))

end

/-- The generators step where the rounding is stochastic (R97). -/
theorem isSr_iff {rm : Rm} : isSr rm = true ↔ rm = .sr := by
  cases rm <;> simp [isSr]

end Sys2Proof.Machine

open Sys2Proof Sys2Proof.Machine

/-- Settles O8: each conversion goes on with the entry that it has read, past the one check of its kind. -/
theorem narrowConversions : Obligations.NarrowConversions := by
  intro g clamp src rm d a b tid s r e
  refine ⟨?blocks, ?cvtf, ?smooth⟩
  case blocks =>
    intro u executes read
    refine ⟨fun kind => ⟨completes_of_entry rfl executes read ?_, completes_of_entry rfl executes read ?_⟩,
      fun narrow scaled => completes_of_entry rfl executes read ?_⟩
    · simp only [kind, isSr_iff]
      rfl
    · simp only [kind]
      rfl
    · simp only [narrow, scaled]
      rfl
  case cvtf =>
    intro u executes read mode
    refine completes_of_entry rfl executes read ?_
    simp only [mode, isSr_iff]
    rfl
  case smooth =>
    intro v r' u j executes read smoothed vector shape pad present
    refine completes_of_entry rfl executes read ?_
    rw [if_neg (not_not.2 smoothed)]
    refine (vector _).trans ?_
    rw [if_neg (by simp [shape]), if_neg (not_not.2 pad)]
    exact present _

end

section
/-!
PROOF. Accumulators (O19, O20): a move or a map of tiles once no pending set holds them.
-/

namespace Sys2Proof.Machine

/-- Where no pending set holds its accumulators, an instruction goes on (R148). -/
theorem accsFree_of_free {c : Ctx} {s : State} {accs : List (Fin 8)} (free : s.accHeld c.id (accs.map (·.val)) none = false)
    (go : Act) : accsFree c s accs go = go := by
  rw [accsFree, free]
  rfl

/-- An instruction on accumulators completes with its own effect once they are free. -/
theorem completes_of_accsFree {i : Instr} {u : Info} {s : State} {accs : List (Fin 8)} {go : Ctx → State → Act}
    {effect : Ctx → State → State} (meaning : exec i s = issue u (fun c q => accsFree c q accs (go c q)) s)
    (executes : u.executes s = true)
    (free : (s.begun u.uses).accHeld (s.ctx u.g).id (accs.map (·.val)) none = false)
    (done : go (s.ctx u.g) (s.begun u.uses) = .done (effect (s.ctx u.g) (s.begun u.uses))) : Completes i u s effect :=
  meaning.trans (issue_done executes ((accsFree_of_free free _).trans done))

/-- SMAX and SMERGE complete with their map of the rows of two tiles (R152, R154). -/
theorem completes_tileMap {i : Instr} {g : Guard} {la : Fin 16} {d a : Fin 8} {s : State} {f : TRow → TRow → TRow × Flags}
    (meaning : exec i s = issue (accInfo g la [.acc d, .acc a]) (fun c q => accsFree c q [d, a] <|
      let r := tileMap f (q.myGroup.tile d.val) (q.myGroup.tile a.val)
      .done (q.accLater c la [(d.val, Tile.image r.1)] r.2)) s)
    (executes : (accInfo g la [.acc d, .acc a]).executes s = true)
    (free : (s.begun [.acc d, .acc a]).accHeld (s.ctx g).id [d.val, a.val] none = false) :
    let r := s.begun [.acc d, .acc a]
    let rows := ((r.myGroup.tile d.val).zip (r.myGroup.tile a.val)).map fun p => f p.1 p.2
    Completes i (accInfo g la [.acc d, .acc a]) s fun _ q =>
      q.accLater (s.ctx g) la [(d.val, Tile.image (rows.map (·.1)))] (rows.foldl (fun fl p => fl ||| p.2) 0) :=
  completes_of_accsFree (accs := [d, a]) meaning executes free (by simp only [tileMap, accInfo])

/-- The rows of SEXP in the state t, the scores' tile and the triple's both written (R153). -/
def State.sexps (t : State) (q : Option NFmt) (c : Ctx) (la : Fin 16) (d a : Fin 8) : State :=
  let x := ((t.myGroup.tile d.val).zip (t.myGroup.tile a.val)).map fun p => sexpRow q p.1 p.2
  t.accLater c la [(d.val, Tile.image (x.map (·.1))), (a.val, Tile.image (x.map (·.2.1)))]
    (x.foldl (fun fl p => fl ||| p.2.2) 0)

/-- SEXP completes in the state in which the format that it narrows to has been found. -/
theorem completes_sexp {g : Guard} {la : Fin 16} {tid : Option (BitVec 12)} {d a : Fin 8} {s t : State} {q : Option NFmt}
    {effect : Ctx → State → State}
    (executes : (accInfo g la [.acc d, .acc a]).executes s = true)
    (format : ∀ go, sexpFormat (s.ctx g) tid (s.begun [.acc d, .acc a]) go = go q t)
    (free : t.accHeld (s.ctx g).id [d.val, a.val] none = false)
    (rows : t.sexps q (s.ctx g) la d a = effect (s.ctx g) (s.begun [.acc d, .acc a])) :
    Completes (.sexp g la tid d a) (accInfo g la [.acc d, .acc a]) s effect :=
  issue_done executes (((format _).trans (accsFree_of_free (accs := [d, a]) free _)).trans (congrArg Act.done rows))

/-- A tensor entry of an unscaled narrow format gives SEXP.Q its format. -/
theorem sexpFormat_of_entry {c : Ctx} {tid : BitVec 12} {s t : State} {e : Tensor} (read : Claims.entry c tid.toNat s e t)
    (narrow : e.etype = 0) (unscaled : e.blk = 0) (go : Option NFmt → State → Act) :
    sexpFormat c (some tid) s go = go (some (NFmt.of e.nfd)) t := by
  show tensorAt c tid.toNat s (fun e t => if e.etype ≠ 0 ∨ e.blk ≠ 0 then c.illegal else go (some (NFmt.of e.nfd)) t) = _
  rw [read]
  exact if_neg (by simp [narrow, unscaled])

end Sys2Proof.Machine

open Sys2Proof Sys2Proof.Machine

/-- Settles O19: the moves wait for no set that holds their accumulators and then issue what they have read, and the start of an
issue leaves the vector registers that two of them read. -/
theorem accumulatorMoves : Obligations.AccumulatorMoves := by
  intro g la d a v b n s c free
  refine ⟨?mrel, ?zero, ?copy, ?elements, ?states, ?setElements, ?setStates, ?declare⟩
  case mrel => exact fun executes => issue_done executes rfl
  case zero =>
    intro u r executes unheld
    exact ⟨completes_of_accsFree (accs := [d]) rfl executes unheld rfl,
      completes_of_accsFree (accs := [d]) rfl executes unheld rfl⟩
  case copy => exact fun executes unheld => completes_of_accsFree (accs := [d, a]) rfl executes unheld rfl
  case elements => exact fun executes unheld => completes_of_accsFree (accs := [a]) rfl executes unheld rfl
  case states => exact fun executes unheld => completes_of_accsFree (accs := [a]) rfl executes unheld rfl
  case setElements =>
    intro u r executes unheld
    refine completes_of_accsFree (accs := [d]) rfl executes unheld ?_
    simp only [State.vec_begun]
    rfl
  case setStates =>
    intro u r w executes unheld
    refine completes_of_accsFree (accs := [d]) rfl executes unheld ?_
    simp only [State.vec_begun]
    rfl
  case declare =>
    intro u r executes
    exact ⟨fun unsigned => issue_done executes (if_neg (not_not.2 unsigned)),
      fun signed => issue_trap executes (if_pos signed)⟩

/-- Settles O20: SMAX and SMERGE are one map of rows, SEXP another in the state in which its format is known, and CRED goes past
its cluster, its open reduction and its room in the lehr. -/
theorem rowTriples : Obligations.RowTriples := by
  intro g la d a s c
  refine ⟨?rows, ?cred⟩
  case rows =>
    intro u r rows folds executes free
    exact ⟨completes_tileMap rfl executes free, completes_tileMap rfl executes free,
      completes_sexp executes (fun _ => rfl) free rfl,
      fun tid e t read narrow unscaled free =>
        completes_sexp executes (sexpFormat_of_entry read narrow unscaled) free rfl⟩
  case cred =>
    intro u r n executes free member first room
    obtain ⟨cl, cluster⟩ := Option.ne_none_iff_exists'.1 member
    have none_ : (r.here.pend.any fun p => p.cred.isSome) = false := by simpa using first
    refine completes_of_accsFree (accs := [d]) rfl executes free ?_
    show (match r.clusterOf c.id.team with
      | none => _
      | some _ => _) = _
    rw [cluster]
    dsimp only
    rw [none_, room]
    rfl

end

section
/-!
PROOF. MMA and MMAS sign their sets (O38).
-/

namespace Sys2Proof.Machine

/-- The set that an instruction leaves in its convergence register, the lanes that it holds, and the operation where that
completes the set. -/
def State.signed (q : State) (i : Instr) (cv : Nat) (b k : Word) (c : Ctx) : State :=
  let set : MmaSet := ⟨cv, i, b, k, c.pc⟩
  (((q.modMyGroup fun y => { y.setSigned cv (y.signed cv ||| c.ex) with
    c.mma := (y.c.mma.filter fun z => z.cv != cv) ++ [set] }).modHere fun st =>
      st.setHolds c.ex (some (.mma cv))).advance c.id (c.iss &&& ~~~c.ex)).settleSet c.id set

section
variable {i : Instr} {cv : Nat} {b k : Word} {c : Ctx} {s : State}

/-- A lane outside the declaration raises the uniformity trap. -/
theorem signMma_undeclared (out : c.ex &&& ~~~s.myGroup.decl cv ≠ 0) :
    signMma i cv b k c s = .trap ⟨4, 0, c.pc, c.ex &&& ~~~s.myGroup.decl cv⟩ := if_pos out

variable (declared : c.ex &&& ~~~s.myGroup.decl cv = 0)
include declared

/-- Another instruction that waits in the register raises it for every executing lane. -/
theorem signMma_other (other : ∃ z ∈ s.myGroup.c.mma, z.cv = cv ∧ z.i ≠ i) :
    signMma i cv b k c s = .trap ⟨4, 0, c.pc, c.ex⟩ := by
  have waits : (s.myGroup.c.mma.any fun z => z.cv == cv && z.i != i) = true := by simpa using other
  exact (if_neg (not_not.2 declared)).trans (if_pos waits)

/-- Declared lanes sign where no other instruction waits and no other set holds the accumulators (R148). -/
theorem signMma_signs (alone : ∀ z ∈ s.myGroup.c.mma, z.cv = cv → z.i = i)
    (free : s.accHeld c.id (s.mmaAccs c.id i) (some cv) = false) :
    signMma i cv b k c s = .jump (s.signed i cv b k c) := by
  have none_ : (s.myGroup.c.mma.any fun z => z.cv == cv && z.i != i) = false := by simpa using alone
  exact (if_neg (not_not.2 declared)).trans ((if_neg (by simp [none_])).trans (if_neg (by simp [free])))

end

theorem matrixMultiply : Claims.MatrixMultiply := by
  intro g la re cv n d a b k tid s u r c signs alone may executes declared
  exact ⟨fun ⟨sole, free⟩ => issue_jump executes (signMma_signs declared sole free),
    fun ⟨sole, free⟩ => issue_jump executes (signMma_signs declared sole free)⟩

theorem matrixUndeclared : Claims.MatrixUndeclared := by
  intro g la re cv n d a b k tid s u c r out traps
  constructor <;>
    exact fun executes => ⟨fun undeclared => issue_trap executes (signMma_undeclared undeclared),
      fun declared other => issue_trap executes (signMma_other declared other)⟩

end Sys2Proof.Machine

open Sys2Proof Sys2Proof.Machine

/-- Settles O38: both instructions are `signMma`, which has two ways to refuse a declaration and one to sign. -/
theorem matrixMultiplySets : Obligations.MatrixMultiplySets := ⟨matrixMultiply, matrixUndeclared⟩

end

section
/-!
PROOF. What meets (O42): arrivals and releases of barriers, contributions to reductions, aborts of gate calls, records of pairs.
-/

namespace Sys2Proof.Machine

section
variable {s : State} {t g : Nat}

/-! ## Barriers and reductions (R155, R241-R243) -/

section
variable {sc : Scope} {op : BarOp} {v : DWord} {has_ : Bool} {date : Nat}

/-- An arrival within the team, or one whose release is complete, reaches the combining point of its scope (R210). -/
theorem barrierArrival_arrives (arrived : (s.group t g).slot sc = .pending op v has_ false date)
    (released : s.isWide t sc = false ∨ s.releaseDone ⟨t, g, false⟩ sc date = true) :
    exec (.barrierArrival t g sc) s = .next
      ((s.modTeam t fun x => x.mapCores (s.isWide t sc) fun k =>
        let k := k.modGroup g fun y => y.setSlot sc (.pending op v has_ true date)
        { k with phases := dropPhase k.phases (scopeCode sc) t ++
          [(findPhase k.phases (scopeCode sc) t none).add g op v has_ false] }).checkTeam t sc) := by
  have goes : (s.isWide t sc && !s.releaseDone ⟨t, g, false⟩ sc date) = false := by
    rcases released with narrow | complete
    · simp [narrow]
    · simp [complete]
  show execBarrierArrival t g sc s = _
  simp only [execBarrierArrival, arrived, goes, Bool.false_eq_true, if_false]

/-- A release reaches a group whose arrival has been sent. -/
theorem barrierRelease_reaches (sent : (s.group t g).slot sc = .pending op v has_ true date) (total : DWord) (bad : Bool) :
    exec (.barrierRelease t g sc total bad) s = .next
      (s.modTeam t fun x => x.mapCores (s.isWide t sc) fun k => k.modGroup g fun y => y.setSlot sc (.released total bad)) := by
  show execBarrierRelease t g sc total bad s = _
  simp only [execBarrierRelease, sent]

end

/-- A contribution joins the open reduction of its number, or opens it (R155). -/
theorem credContribution_joins {x m : Nat} {cl : Cluster} {y : Bool} {p : Pending} (inside : (s.team t).cluster = some (x, m))
    (cluster : s.clusterOf t = some cl) (opened : (s.group t g).openCred = some (y, p)) :
    let b := benchKey (s.teamCore t)
    let n := SMap.get 0 (s.team t).credCount g
    let mine := fun (q : CredRed) => q.cluster == cl.id && q.grp == g && q.n == n
    let r := ((s.bench b).creds.find? mine).getD
      ⟨cl.id, g, n, (cl.current.filter fun q => (s.group q.2 g).live).map (·.1), [], [], []⟩
    exec (.credContribution t g) s = .next ((s.modBench b fun k =>
      { k with creds := (k.creds.filter fun q => !mine q) ++
        [{ r with got := r.got ++ [(m, (s.group t g).image p.accOf)], who := r.who ++ [(m, t)],
                  pends := SMap.set 0 r.pends m p.id }] }).checkCreds b) := by
  show execCredContribution t g s = _
  simp only [execCredContribution, State.contribute, inside, cluster, opened]

/-! ## Aborts (R321) -/

/-- An abort of a callee that may be left leaves its innermost call, with the trap that the call asks for or with a status. -/
theorem gateAbort_leaves {code : Nat} {f : GateFrame} {rest : List GateFrame} (aborts : (s.group t g).abort = some code)
    (live : (s.team t).live = true) (left : s.calleeOver t g = true) (frames : (s.group t g).frames = f :: rest) :
    exec (.gateAbort t g code) s = .next
      (if f.trapc then
        (s.leaveGate t g fun _ _ ctx => ctx).takeTrap ⟨t, g, false⟩
          ⟨11, 0, BitVec.ofNat 64 (code % 256 + 256 * f.gate), f.ex⟩
      else s.leaveGate t g fun f _ ctx => f.putStatus 0xFFFFFF09 ctx) := by
  show execGateAbort t g code s = _
  simp [execGateAbort, aborts, live, left, frames]

end

/-! ## Compared records (R378, R379) -/

/-- A pair of a bench with its changed record in its place. -/
def State.putPair (s : State) (b p : Nat) (q : Pair) : State :=
  s.modBench b fun k => { k with pairs := k.pairs.map fun x => if x.id = p then q else x }

/-- The first records of a pair agree, or roll both groups back. -/
theorem compareRecord_compares {s : State} {b p : Nat} {q : Pair} {l r : Nat × Nat × Bytes}
    {ls rs : List (Nat × Nat × Bytes)}
    (found : (s.bench b).pairs.find? (fun q => q.id == p) = some q) (lead : q.recsL = l :: ls) (trail : q.recsT = r :: rs) :
    exec (.compareRecord b p) s = .next
      (if l.1 % 2 ^ 32 = r.1 % 2 ^ 32 ∧ l.2 = r.2 then
        (if ls.isEmpty || rs.isEmpty then s.putPair b p { q with recsL := ls, recsT := rs }
         else (s.putPair b p { q with recsL := ls, recsT := rs }).later 1 (.compareRecord b p))
      else
        (((s.putPair b p { q with recsL := [], recsT := [], strikes := q.strikes + 1, slot := l.1 / 2 ^ 32 }).modTeam q.leader
          fun t => { t with blocked := some s.time }).modTeam q.trailer fun t => { t with blocked := some s.time }).later 0
            (.rollback q.leader)) := by
  show execCompareRecord b p s = _
  simp only [execCompareRecord, found, lead, trail]
  rfl

end Sys2Proof.Machine

open Sys2Proof Sys2Proof.Machine

/-- Settles O42: each step reads one place and, where its condition holds there, takes the branch of the statement. -/
theorem meetings : Obligations.Meetings := by
  intro s t g sc
  refine ⟨fun _ _ _ _ => barrierArrival_arrives, fun _ _ _ _ total bad sent => barrierRelease_reaches sent total bad,
    fun _ _ _ _ _ => credContribution_joins, ?abort, ?compare⟩
  case abort =>
    intro code f rest aborts live left frames
    have leaves := gateAbort_leaves aborts live left frames
    exact ⟨fun status => leaves.trans (by simp only [status, Bool.false_eq_true, if_false]),
      fun trap => leaves.trans (by simp only [trap, if_true])⟩
  case compare =>
    intro b p q l ls r rs found lead trail put
    have compares := compareRecord_compares found lead trail
    exact ⟨fun agree => compares.trans (congrArg _ (if_pos agree)),
      fun differ => compares.trans (congrArg _ (if_neg differ))⟩

end

section
/-!
PROOF. Leaving and rejoining (O31), software traps, regions and ERET (O32).
-/

namespace Sys2Proof.Machine

/-! ## An end that does not hold (R366) -/

/-- An instruction goes on where its lanes do not end their group, or no checkpoint of the team is pending. -/
theorem endFirst_of_free {c : Ctx} {s : State} {stay : Mask} (free : s.endHolds c.id stay = false) (go : Act) :
    endFirst c s stay go = go := if_neg (by simp [free])

/-- An instruction that takes its executing lanes away completes with its own effect where their end does not hold. -/
theorem completes_of_leave {i : Instr} {u : Info} {s : State} {effect : Ctx → State → State}
    (meaning : exec i s = issue u (fun c q => endFirst c q (q.here.amask &&& ~~~c.ex) <| .done (effect c q)) s)
    (executes : u.executes s = true)
    (free : (s.begun u.uses).endHolds s.cur.id ((s.begun u.uses).here.amask &&& ~~~(s.ctx u.g).ex) = false) :
    Completes i u s effect := by
  have goes := endFirst_of_free (c := s.ctx u.g) free (.done (effect (s.ctx u.g) (s.begun u.uses)))
  exact meaning.trans (issue_done executes goes)

/-! ## The statuses of tasks (R185) -/

section
variable {β : Type} [DecidableEq β] {d : β}

/-- A map after each key of a list that had no value yet has taken its value of f: how TDONE records the statuses of tasks. -/
def recordFirst (d : β) (f : Nat → β) (l : List Nat) (m : SMap β) : SMap β :=
  l.foldl (fun m i => if SMap.get d m i = d then SMap.set d m i (f i) else m) m

theorem get_recordFirst (f : Nat → β) (l : List Nat) (m : SMap β) (j : Nat) :
    SMap.get d (recordFirst d f l m) j = if j ∈ l ∧ SMap.get d m j = d then f j else SMap.get d m j := by
  induction l generalizing m with
  | nil => simp [recordFirst]
  | cons a l ih =>
    have head : SMap.get d (if SMap.get d m a = d then SMap.set d m a (f a) else m) j =
        if j = a ∧ SMap.get d m j = d then f j else SMap.get d m j := by
      by_cases same : j = a
      · subst same
        split <;> simp [*]
      · split <;> simp [same, SMap.get_set_ne]
    show SMap.get d (recordFirst d f l _) j = _
    rw [ih, head]
    by_cases same : j = a
    · subst same
      by_cases empty : SMap.get d m j = d <;> simp [empty]
    · simp [same]

theorem get_recordFirst_maskLanes (f : Nat → β) (ex : Mask) (m : SMap β) {i : Nat} (lane : i < 32) :
    SMap.get d (recordFirst d f (maskLanes ex) m) i = if ex.getLsbD i ∧ SMap.get d m i = d then f i else SMap.get d m i := by
  simp only [get_recordFirst, mem_maskLanes, lane, true_and]

end

/-! ## Leaving and rejoining (R166, R169, R185, R197) -/

/-- Statuses of tasks after the executing lanes of an issue have recorded the values of its source (R185). -/
def State.statusesAfter (s : State) (c : Ctx) (a : Src) (m : SMap Word) : SMap Word :=
  recordFirst 0 (fun i => s.src a i) (maskLanes c.ex) m

/-- The state in which the issuing team has those statuses. -/
def State.recordStatuses (s : State) (c : Ctx) (a : Src) : State :=
  s.modMyTeam fun x => { x with taskStatus := s.statusesAfter c a x.taskStatus }

theorem State.recordStatuses_eq (s : State) (c : Ctx) (a : Src) :
    s.recordStatuses c a = s.modMyTeam fun x => { x with taskStatus := s.statusesAfter c a s.myTeam.taskStatus } := rfl

theorem exec_exit (g : Guard) (s : State) : exec (.exit g) s = execExit g s := rfl

theorem exec_tdone (g : Guard) (a : Src) (s : State) : exec (.tdone g a) s =
    issue { g := g, uses := [u1 a], noHandler := true, noCallee := true, wave := true } (fun c q =>
      endFirst c q (q.here.amask &&& ~~~c.ex) <| .done (((q.recordStatuses c a).dropLanes c.id c.ex).endStream c.id)) s := rfl

theorem yieldAndLeave : Claims.YieldAndLeave := by
  intro g a s
  refine ⟨?yield, ?exit, ?tdone⟩
  case yield => exact fun executes => issue_done executes rfl
  case exit => exact fun executes free => completes_of_leave (exec_exit g s) executes free
  case tdone =>
    intro u r executes free
    have completes := completes_of_leave (exec_tdone g a s) executes free
    refine ⟨r.statusesAfter (s.ctx g) a r.myTeam.taskStatus, ?_, fun _ => get_recordFirst_maskLanes _ _ _⟩
    rw [Completes, State.recordStatuses_eq] at completes
    rw [Completes]
    exact completes

theorem rejoin : Claims.Rejoin := fun _ _ _ executes =>
  ⟨issue_done executes rfl, issue_jump executes rfl, issue_done executes rfl⟩

/-! ## Traps that instructions ask for, and regions (R168, R350, R352) -/

/-- Where every active lane issues, the start of the issue leaves it so. -/
theorem State.whole_begun {s : State} (whole : s.cur.lanes = s.here.amask) (us : List Use) (g : Guard) :
    ¬ (s.ctx g).iss ≠ (s.begun us).here.amask := not_not.2 (whole.trans (State.amask_begun s us).symm)

theorem softwareTraps : Claims.SoftwareTraps := by
  intro g num region s
  refine ⟨fun executes => ⟨issue_trapIn executes rfl, issue_trapIn executes rfl⟩,
    fun executes => ⟨fun whole => issue_done executes ?_, fun part => issue_trap executes (if_pos ?_)⟩⟩
  · exact (if_neg (State.whole_begun whole [] g)).trans (if_neg (Info.ex_of_executes executes))
  · exact fun same => part (same.trans (State.amask_begun s []))

/-! ## ERET (R354, R397) -/

@[simp] theorem State.kept_begun (s : State) (us : List Use) : (s.begun us).here.kept = s.here.kept := by
  rw [State.here_begun]; rfl

/-- An instruction that is for handlers alone is illegal outside one (R397). -/
theorem issue_handlerOnly_normal {u : Info} {s : State} {body : Ctx → State → Act} (live : s.here.live = true)
    (lanes : s.cur.lanes ≠ 0) (normal : s.here.mode = .normal) (decodes : s.checkDecode u = none) (only : u.handlerOnly = true) :
    issue u body s = .next (s.trapHere ⟨1, 0, s.cur.pc, s.cur.lanes⟩) := by
  have refused : s.checkContext u = some 1 := if_pos (by simp [only, normal])
  have runs : ¬ (s.here.live = false ∨ s.cur.lanes = 0) := not_or.2 ⟨by simp [live], lanes⟩
  simp only [issue, runs, if_false, decodes, refused]

theorem trapReturn : Claims.TrapReturn := by
  intro g re s
  refine ⟨fun executes whole handler free => issue_jump executes ?_,
    fun live lanes normal decodes => issue_handlerOnly_normal live lanes normal decodes rfl⟩
  have handles : (s.begun []).here.mode ≠ .restore := by simp [handler]
  rw [← State.kept_begun s []] at free
  exact (if_neg (State.whole_begun whole [] g)).trans
    ((if_neg (Info.ex_of_executes executes)).trans ((if_pos handles).trans (endFirst_of_free (c := s.ctx g) free _)))

end Sys2Proof.Machine

open Sys2Proof Sys2Proof.Machine

/-- Settles O31: YIELD and the rejoin registers have one effect each, EXIT and TDONE theirs once their end does not hold, and
TDONE's statuses are read lane by lane. -/
theorem leaveAndRejoin : Obligations.LeaveAndRejoin := ⟨yieldAndLeave, rejoin⟩

/-- Settles O32: the traps are raised in the state whose lanes have passed on, RGN and ERET go past the check that every active
lane issues, and outside a handler ERET fails the check of its context. -/
theorem trapInstructions : Obligations.TrapInstructions := ⟨softwareTraps, trapReturn⟩

end

section
/-!
PROOF. Launches and tasks (O46): each step of the device by the branch that its state takes.
-/

namespace Sys2Proof.Machine

section
variable {s : State} {id : Nat} {l : Launch}

/-! ## Submission (R170, R171, R175, R331) -/

section
variable {x : Nat} (launch : s.launch id = some l) (new : l.state = 0) (untaken : l.roles = [])
  (next : s.submittedBefore l = false) (host : l.graph = none)
  (block : s.readVirt l.home l.asid l.va.toNat 256 = some x) (writable : s.virtWritable l.asid l.statusAt 16 = true)
include launch new untaken next host block writable

/-- A launch whose block breaks no rule enters the admission orders. -/
theorem launchSubmit_accepts (accepted : (l.take x).reason x l.priv = 0) :
    exec (.launchSubmit id) s = .next (s.enterOrders (l.take x)) := by
  show execLaunchSubmit id s = _
  simp [execLaunchSubmit, launch, new, untaken, next, host, block, writable, accepted]

/-- A launch whose block breaks a rule is over with the lowest reason. -/
theorem launchSubmit_refuses (refused : (l.take x).reason x l.priv ≠ 0) :
    exec (.launchSubmit id) s = .next
      ((s.setStatus (l.take x) 3 ((l.take x).reason x l.priv)).launchOver l 3) := by
  obtain ⟨k, reason⟩ := Nat.exists_eq_succ_of_ne_zero refused
  show execLaunchSubmit id s = _
  simp [execLaunchSubmit, launch, new, untaken, next, host, block, writable, reason]

end

/-! ## Starts and ends (R167, R171, R175, R179) -/

/-- A timed launch whose time has come starts its resident teams. -/
theorem timedLaunchStart_due (launch : s.launch id = some l) (due : l.tstart.toNat ≤ (s.clk l.home).toNat) :
    exec (.timedLaunchStart id) s = .next
      ((s.teams.filter fun p => p.2.launch == id && p.2.live).foldl (fun s p =>
        s.modTeam p.1 fun t => { t with started := true }) s) := by
  show execTimedLaunchStart id s = _
  simp only [execTimedLaunchStart, launch, if_neg (Nat.not_lt.2 due)]

/-- An earlier one looks again later. -/
theorem timedLaunchStart_early (launch : s.launch id = some l) (early : (s.clk l.home).toNat < l.tstart.toNat) :
    ∃ n, 1 ≤ n ∧ exec (.timedLaunchStart id) s = .next (s.later n (.timedLaunchStart id)) := by
  refine ⟨max 1 (min (l.tstart.toNat - (s.clk l.home).toNat) 4096), Nat.le_max_left .., ?_⟩
  show execTimedLaunchStart id s = _
  simp only [execTimedLaunchStart, launch, if_pos early]

/-- Before the firmware runs, a gaffer admits nothing (R336). -/
theorem teamAdmission_of_unbooted {die : Nat} (off : s.pkg.booted = false) (empty : s.waits die false = false) :
    exec (.teamAdmission die false) s = .next s := by
  show execTeamAdmission die false s = _
  simp [execTeamAdmission, off, empty]

/-- A gaffer admits the head of its order where it fits; with nothing left to admit it looks no more. -/
theorem teamAdmission_admits {die : Nat} {t : State} (booted : s.pkg.booted = true) (cool : (s.die die).throttled = false)
    (head : s.admitHead die false = some t) (empty : t.waits die false = false) :
    exec (.teamAdmission die false) s = .next t := by
  show execTeamAdmission die false s = _
  simp [execTeamAdmission, booted, cool, head, empty]

/-- A team that has ended, in no pair, cluster or wave, leaves its core and counts for its launch. -/
theorem teamEnd_counts {t : Nat} (live : (s.team t).live = true) (leads : (s.team t).trails = false)
    (groups : (s.team t).liveGroups = []) (ended : s.teamOver t = true) (block : s.blockReady (s.team t) = true)
    (room : s.recallRoom (s.windowRegs t) = true) (single : s.teamPair t = none) (alone : (s.team t).cluster = none)
    (grid : (s.team t).wave = false) :
    exec (.teamEnd t) s = .next ((s.release t).countDone (s.team t).launch) := by
  show execTeamEnd t s = _
  simp [execTeamEnd, live, leads, groups, ended, block, room, single, alone, grid]

end

theorem launches : Claims.Launches := fun _ _ _ launch =>
  ⟨fun _ new untaken next host block writable =>
     ⟨launchSubmit_accepts launch new untaken next host block writable,
      launchSubmit_refuses launch new untaken next host block writable⟩,
   timedLaunchStart_due launch, timedLaunchStart_early launch, fun off _ => teamAdmission_of_unbooted off,
   fun _ _ => teamAdmission_admits, fun _ => teamEnd_counts⟩

/-! ## Dealing (R182) -/

section
variable {s : State}

/-- A running node with records left and a launch deals its next chunk. -/
theorem taskDeal_deals {id n : Nat} {g : Graph} {l : Launch} (graph : s.graph id = some g) (running : (g.node n).running = true)
    (mapped : s.imageReady g = true) (more : (g.node n).dealt < (s.nodeRec g n).count)
    (launch : s.launch (g.node n).launch = some l) :
    exec (.taskDeal id n) s = .next (s.dealChunk g n (s.nodeRec g n) (l.roles.any (·.split))) := by
  show execTaskDeal id n s = _
  simp [execTaskDeal, graph, running, mapped, more, launch]

/-! ## Waves (R183) -/

/-- The tasks of a wave: those of the first 64 that share the head's node and entries, at most 32. -/
def waveOf (h : Task) (q : List Task) : List Task :=
  ((q.take 64).filter fun t => t.graph == h.graph && t.node == h.node && t.enta == h.enta && t.entx == h.entx).take 32

section
variable {c : CoreId} {h : Task} {rest : List Task} {l : Launch} {r : Role} {roles : List Role} {p : Nat}

/-- A wave is full, or 256 cycles old, or no task of its batch is still to come. -/
theorem State.nextWave_of_due (tasks : (s.core c).tasks = h :: rest)
    (launch : ((s.graph h.graph).bind fun g => s.launch (g.node h.node).launch) = some l) (role : l.roles = r :: roles)
    (part : s.wavePart c l r = some p) (cool : (s.die c.die).throttled = false)
    (due : (waveOf h (h :: rest)).length = 32 ∨ (s.core c).waveAt + 256 ≤ s.time ∨ s.moreFor c h = false) :
    s.nextWave c = some (l, r, p, waveOf h (h :: rest)) := by
  have forms : ((s.die c.die).throttled || (decide ((waveOf h (h :: rest)).length < 32) &&
      decide (s.time < (s.core c).waveAt + 256) && s.moreFor c h)) = false := by
    rcases due with full | old | last
    · simp [cool, full]
    · simp [cool, Nat.not_lt.2 old]
    · simp [cool, last]
  simp only [State.nextWave, tasks, launch, role, part]
  exact if_neg (Bool.eq_false_iff.1 forms)

theorem State.nextWave_of_no_task (none_ : (s.core c).tasks = []) : s.nextWave c = none := by
  simp only [State.nextWave, none_]

theorem State.formWave_none (none_ : s.nextWave c = none) : s.formWave c = s := by
  simp only [State.formWave, none_]

/-- The tasks of a wave leave their queue, and its team becomes resident. -/
theorem State.formWave_some {wave : List Task} (forms : s.nextWave c = some (l, r, p, wave)) :
    s.formWave c =
      (let left := (s.core c).tasks.filter fun t => !wave.contains t
       let q := (s.modCore c fun k => { k with tasks := left, waveAt := s.time }).enterCore (waveTeam l r c p wave s.time)
       if left.isEmpty then q.seekTasks c 1 else q) := by
  simp only [State.formWave, forms]

theorem exec_waveFormation (c : CoreId) (s : State) : exec (.waveFormation c) s = .next (s.formWave c) := rfl

/-- A wave that is due is formed before anything else (log 2). -/
theorem step_of_dueWave (none_ : s.toIssue = []) (decided : s.opened = false) (due : s.dueWave = some c) :
    step s = stepEvent (.waveFormation c) s := by
  simp only [step, none_, decided, Bool.false_eq_true, if_false, due]

end

/-! ## Stealing (R187) -/

section
variable {thief victim : CoreId}

/-- A core that holds two tasks or more hands over the last half, at most 16. -/
theorem stealRequest_takes (two : 2 ≤ (((s.formWave victim).formWave thief).core victim).tasks.length) :
    exec (.stealRequest thief victim) s = .next
      (let r := (s.formWave victim).formWave thief
       let q := (r.core victim).tasks
       let k := min 16 (q.length / 2)
       (r.modCore victim fun c => { c with tasks := q.take (q.length - k) }).queueTasks thief (q.drop (q.length - k))) := by
  show execStealRequest thief victim s = _
  simp only [execStealRequest, if_neg (Nat.not_lt.2 two)]

/-- A core that holds fewer refuses, and a thief that is no longer idle asks no further. -/
theorem stealRequest_ends (few : (((s.formWave victim).formWave thief).core victim).tasks.length < 2)
    (busy : ((s.formWave victim).formWave thief).idle thief = false) :
    exec (.stealRequest thief victim) s = .next ((s.formWave victim).formWave thief) := by
  show execStealRequest thief victim s = _
  simp only [execStealRequest, if_pos few, busy, if_true]

end

end

theorem tasks : Claims.Tasks := by
  intro s
  refine ⟨fun _ _ _ _ => taskDeal_deals, ?wave, fun _ => step_of_dueWave,
    fun c none_ => congrArg _ (State.formWave_none (State.nextWave_of_no_task none_)), fun _ => rfl,
    fun _ _ => ⟨State.formWave_none, stealRequest_takes, stealRequest_ends⟩⟩
  case wave =>
    intro c h rest l r roles p queue launch role part cool wave due
    rw [exec_waveFormation, State.formWave_some (State.nextWave_of_due queue launch role part cool due), queue]
    rfl

end Sys2Proof.Machine

open Sys2Proof Sys2Proof.Machine

/-- Settles O46: each step of the device takes the branch of its state; a wave is formed where `nextWave` finds one, whose three
conditions are those of the statement. -/
theorem launchesAndTasks : Obligations.LaunchesAndTasks := ⟨launches, tasks⟩

end

section
/-!
PROOF. Waiting on memory (O14): an attempt of POLL whose comparison holds in every lane, and the two ways in which LWAIT ends
its attempt.
-/

namespace Sys2Proof.Machine

/-! ## POLL (R195) -/

/-- The comparison that a POLL waits for, of a lane's word with its operand. -/
def pollHolds (cmp : PollCmp) (x y : Word) : Prop :=
  match cmp with
  | .eq => x = y
  | .ne => x ≠ y
  | .uge => y.toNat ≤ x.toNat
  | .ult => x.toNat < y.toNat

theorem pollTest_iff (cmp : PollCmp) (x y : Word) : pollTest cmp x y = true ↔ pollHolds cmp x y := by
  cases cmp with
  | eq => exact beq_iff_eq
  | ne => exact bne_iff_ne
  | uge => exact decide_eq_true_iff
  | ult => exact decide_eq_true_iff

/-- The state in which an attempt of POLL looks at its line: a line of memory has been refreshed. -/
def State.look (s : State) (c : Ctx) (lr : LineReg) : State :=
  if lr.mode = 3 then s else (s.refreshLine c.id.team c.id.grp lr).getD s

/-- The word at an offset of a line, as the issuing stream reads it. -/
def State.lineWord (s : State) (c : Ctx) (lr : LineReg) (off : Nat) : Word := BitVec.ofNat 32 (s.lineNat c.id lr off 4)

/-- What a POLL does once its comparison holds: its words are written, its attempts forgotten, and an acquire begins. -/
def State.pollEnds (t : State) (acq : Bool) (sc : Scope) (d : Dst) (c : Ctx) (w : Nat → Word) : State :=
  let q := (t.setDst d c.ex w).modHere fun st => { st with back := 0, poll := st.poll.filter fun p => p.pc != c.pc }
  if acq then q.acquire c.id sc else q

theorem exec_poll (g : Guard) (cmp : PollCmp) (acq : Bool) (sc : Scope) (d : Dst) (l : LOp) (b : Src) (s : State) :
    exec (.poll g cmp acq sc d l b) s = execPoll g cmp acq sc d l b s := rfl

/-- An attempt of POLL that passes the checks of its access and whose comparison holds in every lane ends it. -/
theorem poll_ends {g : Guard} {cmp : PollCmp} {acq : Bool} {sc : Scope} {d : Dst} {l : LOp} {b : Src} {s : State}
    {ref : LineRef} {lr : LineReg} :
    let u : Info := { g := g, uses := [d1 d, u1 l.b, u1 b, .line l.ln], noDmr := true, path := some .ls }
    let c := s.ctx g
    let r := s.begun u.uses
    let o := r.lineOff l
    let t := r.look c lr
    u.executes s = true → Claims.line c r l.ln 4 o (fun x => x.mode != 1) false ref lr →
    Claims.passes (r.lineMatch c lr 4 o true false) → Claims.passes (t.linePoison c lr o) →
    (∀ i ∈ maskLanes c.ex, pollHolds cmp (t.lineWord c lr (o i)) (t.src b i)) →
      Completes (.poll g cmp acq sc d l b) u s fun _ _ => t.pollEnds acq sc d c fun i => t.lineWord c lr (o i) := by
  intro u c r o t executes line unmatched clean holds
  have met : ((maskLanes c.ex).all fun i => pollTest cmp (t.lineWord c lr (o i)) (t.src b i)) = true :=
    List.all_eq_true.2 fun i lane => (pollTest_iff ..).2 (holds i lane)
  refine (exec_poll ..).trans (issue_done executes ?_)
  show (match r.checkLine c l.ln 4 o (fun x => x.mode != 1) false with
    | .stop a => a
    | .ok _ lr => _) = _
  rw [line]
  dsimp only
  rw [unmatched]
  exact (clean _).trans (if_pos met)

/-! ## LWAIT (R196) -/

/-- The stream parks, at a date, on a watch of the line named k; with n not 0 it falls due n cycles later. -/
def State.armWatch (s : State) (c : Ctx) (ref : LineRef) (k : Nat) (d : Dst) (date n : Nat) : State :=
  let q := s.modHere fun st =>
    { st with watch := some ⟨k, ref.ln, d, c.ex, c.pc, date, if n = 0 then none else some (date + n), none⟩ }
  if n = 0 then q else q.later n (.lwaitWake c.id 3)

theorem exec_lwait (g : Guard) (d : Dst) (ln : Fin 16) (b : Src) (s : State) :
    exec (.lwait g d ln b) s = execLwait g d ln b s := rfl

section
variable {g : Guard} {d : Dst} {ln : Fin 16} {b : Src} {s : State} {ref : LineRef} {lr : LineReg}

/-- What LWAIT names. -/
def lwaitInfo (g : Guard) (d : Dst) (ln : Fin 16) (b : Src) : Info :=
  { g := g, uses := [d1 d, u1 b, .line ln], noDmr := true, path := some .ls }

variable (executes : (lwaitInfo g d ln b).executes s = true)
  (line : Claims.line (s.ctx g) (s.begun (lwaitInfo g d ln b).uses) ln 1 (fun _ => 0) (fun _ => true) false ref lr)
include executes line

/-- A line that has been written since the fetch of its contents wakes LWAIT at once, with cause 4. -/
theorem lwait_written
    (written : let r := s.begun (lwaitInfo g d ln b).uses
      r.contentsDate (s.ctx g).id.team lr < SMap.get 0 r.wrote (r.watchKey r.myAsid r.myCore.die lr)) :
    Completes (.lwait g d ln b) (lwaitInfo g d ln b) s fun c t => t.setDst d c.ex fun _ => 4 := by
  refine (exec_lwait ..).trans (issue_done executes ?_)
  show (match (s.begun (lwaitInfo g d ln b).uses).checkLine (s.ctx g) ln 1 (fun _ => 0) (fun _ => true) false with
    | .stop a => a
    | .ok r lr => _) = _
  rw [line]
  exact if_pos (.inl written)

/-- Where it has not, and its partition has a watch to give, the stream parks on one. -/
theorem lwait_parks
    (unwritten : let r := s.begun (lwaitInfo g d ln b).uses
      SMap.get 0 r.wrote (r.watchKey r.myAsid r.myCore.die lr) ≤ r.contentsDate (s.ctx g).id.team lr)
    (free : let r := s.begun (lwaitInfo g d ln b).uses
      r.watchesFull (r.watchKey r.myAsid r.myCore.die lr) = false) :
    let r := s.begun (lwaitInfo g d ln b).uses
    CompletesAt (.lwait g d ln b) (lwaitInfo g d ln b) s fun c t =>
      t.armWatch c ref (r.watchKey r.myAsid r.myCore.die lr) d r.time (r.src b (low (s.ctx g).ex)).toNat := by
  refine (exec_lwait ..).trans (issue_jump executes ?_)
  show (match (s.begun (lwaitInfo g d ln b).uses).checkLine (s.ctx g) ln 1 (fun _ => 0) (fun _ => true) false with
    | .stop a => a
    | .ok r lr => _) = _
  rw [line]
  exact if_neg (not_or.2 ⟨Nat.not_lt.2 unwritten, Bool.eq_false_iff.1 free⟩)

end

end Sys2Proof.Machine

open Sys2Proof Sys2Proof.Machine

/-- Settles O14: the line passes its checks, so POLL writes its words where its test agrees with the comparison in every lane, and
LWAIT ends or parks as the date of the last write says. -/
theorem pollAndWatch : Obligations.PollAndWatch := fun _ _ _ _ _ _ _ _ _ _ _ =>
  ⟨poll_ends, fun executes line => ⟨lwait_written executes line, lwait_parks executes line⟩⟩

end

section
/-!
PROOF. Graphs (O47): what GCOND and GSIG enter into the lehr, and the graph engine's steps, each by the branch that the state
takes.
-/

namespace Sys2Proof.Machine

/-! ## Signals to a graph (R193, R194) -/

/-- What a message to a graph asks before it goes: its team's graph, and a place in the lehr. -/
def signalBody (c : Ctx) (r : State) (go : Nat → Act) : Act :=
  match r.graphOf c.id.team with
  | none => c.illegal
  | some n => if !r.lehrTakes r.myCore c.id.team 1 then .hold else go n

theorem signalBody_goes {c : Ctx} {r : State} {n : Nat} (graph : r.graphOf c.id.team = some n)
    (room : r.lehrTakes r.myCore c.id.team 1 = true) (go : Nat → Act) : signalBody c r go = go n := by
  simp [signalBody, graph, room]

theorem exec_gcond (g : Guard) (op : CondOp) (num : BitVec 8) (a : Src) (s : State) : exec (.gcond g op num a) s =
    issue { g := g, uses := [u1 a], noCallee := true, noDmr := true, graph := true, path := some .cl } (fun c r =>
      signalBody c r fun n =>
        .done (r.enterLehr r.myCore c.id.team c.id.grp c.id.x r.time (.cond n op num (r.src a (low c.ex))))) s := rfl

theorem exec_gsig (g : Guard) (num : BitVec 8) (s : State) : exec (.gsig g num) s =
    issue { g := g, noCallee := true, noDmr := true, graph := true, path := some .cl } (fun c r =>
      signalBody c r fun n =>
        releaseFirst c r .package (fun q => (q.beginRelease c.id .package).askCkpt c.id.team) (fun d q => q.allReleased c.id d)
          fun q => .done (q.enterLehr q.myCore c.id.team c.id.grp c.id.x q.time (.sig n num.toNat))) s := rfl

/-- GCOND enters its update at once, GSIG its arrival once its release is over. -/
theorem graphSignals : Claims.GraphSignals := fun _ _ _ _ _ _ =>
  ⟨fun executes graph room => (exec_gcond ..).trans (issue_done executes (signalBody_goes graph room _)),
   fun executes graph room released => (exec_gsig ..).trans
     (issue_done executes ((signalBody_goes graph room _).trans (releaseFirst_of_released released)))⟩

/-! ## The steps of the graph engine (R189, R191, R193, R194) -/

/-- A condition word after GCOND's update of it. -/
def condUpdated (op : CondOp) (w x : Word) : Word :=
  match op with
  | .set => x
  | .or => w ||| x
  | .add => w + x
  | .umax => if w.toNat < x.toNat then x else w

/-- The nodes to which a node's completion delivers: those of the arm that it chose, or of every arm where it chose none. -/
def NodeRec.armsOf (r : NodeRec) (x : GNode) : List Nat :=
  (r.succ.zipIdx.filter fun p => decide (p.2 ≤ r.narm) && p.1 != 0xFF && (x.arm.all fun a => a == p.2)).map (·.1)

section
variable {s : State} {id : Nat} {g : Graph} (graph : s.graph id = some g)

section
include graph

/-- An update takes effect once no earlier one of its stream is under way. -/
theorem gcondUpdate_first {src : StreamId} {seq : Nat} (first : s.updateBefore ⟨src, seq, id⟩ = false) (op : CondOp)
    (num : BitVec 8) (x : Word) :
    exec (.gcondUpdate ⟨src, seq, id⟩ op num x) s = .next (s.modGraph id fun g' =>
      { g' with conds := SMap.set 0 g'.conds num.toNat (condUpdated op (SMap.get 0 g.conds num.toNat) x) }) := by
  show execGcondUpdate ⟨src, seq, id⟩ op num x s = _
  simp only [execGcondUpdate, graph, first, Bool.false_eq_true, if_false]
  rfl

/-- A signal to a node of the graph arrives there. -/
theorem gsigArrival_arrives {n : Nat} (mapped : s.imageReady g = true) (inside : n < s.nnode g) :
    exec (.gsigArrival id n) s = .next ((s.arriveNode id n).graphOver id) := by
  show execGsigArrival id n s = _
  simp only [execGsigArrival, graph, mapped, Bool.not_true, Bool.false_eq_true, if_false, if_neg (Nat.not_le.2 inside)]

/-- A signal to a node beyond them is an error of the graph, with reason 6. -/
theorem gsigArrival_outside {n : Nat} (mapped : s.imageReady g = true) (outside : s.nnode g ≤ n) :
    exec (.gsigArrival id n) s = .next ((s.graphError id 6 n).graphOver id) := by
  show execGsigArrival id n s = _
  simp only [execGsigArrival, graph, mapped, Bool.not_true, Bool.false_eq_true, if_false, if_pos outside]

theorem graphSubmit_of_running (running : g.running = true) : exec (.graphSubmit id) s = .next s := by
  show execGraphSubmit id s = _
  simp only [execGraphSubmit, graph, running, if_true]

theorem nodeCompletion_of_stopped {n : Nat} (stopped : (g.node n).running = false) :
    exec (.nodeCompletion id n) s = .next s := by
  show execNodeCompletion id n s = _
  simp only [execNodeCompletion, graph, stopped, Bool.not_false, if_true]

/-- A conditional, loop, switch or join has no batch to end and no launch to drop: each arm that it chose takes one arrival, in
order. -/
theorem nodeCompletion_delivers {n : Nat} (running : (g.node n).running = true) (mapped : s.imageReady g = true)
    (kind : 2 ≤ (s.nodeRec g n).kind) :
    exec (.nodeCompletion id n) s = .next
      (((((s.nodeRec g n).armsOf (g.node n)).foldl (fun s m => s.arriveNode id m)
        (s.modNode id n fun x => { x with running := false, launch := 0 })).tryStart id n).graphOver id) := by
  have noLaunch : (s.nodeRec g n).kind ≠ 0 := by omega
  have noBatch : (s.nodeRec g n).kind ≠ 1 := by omega
  have accepted : ((s.nodeRec g n).kind == 0) = false := beq_false_of_ne noLaunch
  show execNodeCompletion id n s = _
  simp only [execNodeCompletion, graph, running, mapped, Bool.not_true, Bool.false_eq_true, if_false, noLaunch, noBatch, accepted,
    Bool.false_and]
  rfl

end

/-! ### Submission (R189) -/

/-- What of a graph's header lets it not run: NNODE, the engine's own fields, START. -/
def graphHeaderBad (h : Nat) : Bool :=
  field h 0 9 == 0 || decide (256 < field h 0 9) || field h 9 7 != 0 || field h 24 40 != 0 || field h 64 448 != 0 ||
    decide (field h 0 9 ≤ field h 16 8)

theorem graphHeaderBad_eq_false {h : Nat} (nonempty : field h 0 9 ≠ 0) (most : field h 0 9 ≤ 256) (reserved : field h 9 7 = 0)
    (state : field h 24 40 = 0) (rest : field h 64 448 = 0) (start : field h 16 8 < field h 0 9) : graphHeaderBad h = false := by
  simp [graphHeaderBad, nonempty, most, reserved, state, rest, start]

theorem graphHeaderBad_of_nnode {h : Nat} (wrong : field h 0 9 = 0 ∨ 256 < field h 0 9) : graphHeaderBad h = true := by
  rcases wrong with empty | many
  · simp [graphHeaderBad, empty]
  · simp [graphHeaderBad, many]

/-- A graph as the engine takes it: it runs, with the condition words of its image. -/
def State.takenGraph (s : State) (g : Graph) : Graph :=
  { g with
    running := true
    conds := (List.range 256).foldl (fun m k => SMap.set 0 m k
      (BitVec.ofNat 32 ((s.readVirt g.die g.asid (g.va.toNat + 64 + 4 * k) 4).getD 0))) [] }

/-- The state in which it is taken: its STATE is 1, and its words are the engine's. -/
def State.takeGraph (s : State) (id : Nat) (g : Graph) : State :=
  ((s.modGraph id fun _ => s.takenGraph g).writeVirt g.die g.asid (g.va.toNat + 4) 1 1).veil (s.takenGraph g) true

/-- The graphs of a die that run are those of its graphs that run. -/
theorem State.runningOf_die (s : State) (die : Nat) :
    (s.pkg.graphs.filter fun h => h.die == die).filter (·.running) = s.pkg.graphs.filter fun h => h.die == die && h.running := by
  rw [List.filter_filter]
  simp only [Bool.and_comm]

section
variable (stopped : g.running = false) (mapped : s.imageReady g = true)
  (room : (s.pkg.graphs.filter fun h => h.die == g.die && h.running).length < 64)
  (turn : (((s.pkg.graphs.filter fun h => h.die == g.die).takeWhile fun h => h.id != id).all fun h => h.running) = true)
include graph stopped mapped room turn

/-- A graph whose turn it is, on a die where fewer than 64 run, is taken: it ends with reason 1 where its header is wrong, else
its START node starts. -/
theorem graphSubmit_takes :
    exec (.graphSubmit id) s = .next (if graphHeaderBad (s.header g) then ((s.takeGraph id g).graphError id 1 0).graphOver id
      else ((s.takeGraph id g).startNode (s.takenGraph g) (field (s.header g) 16 8)).graphOver id) := by
  have first : (((s.pkg.graphs.filter fun h => h.die == g.die).takeWhile fun h => h.id != id).any fun h => !h.running) = false := by
    rw [← List.not_all_eq_any_not, turn]
    rfl
  show execGraphSubmit id s = _
  simp only [execGraphSubmit, graph, stopped, first, State.runningOf_die, Nat.not_le.2 room, mapped, decide_false, Bool.not_true,
    Bool.or_self, Bool.false_eq_true, if_false]
  rfl

theorem graphSubmit_starts (good : graphHeaderBad (s.header g) = false) :
    exec (.graphSubmit id) s = .next
      (((s.takeGraph id g).startNode (s.takenGraph g) (field (s.header g) 16 8)).graphOver id) :=
  (graphSubmit_takes graph stopped mapped room turn).trans (congrArg _ (if_neg (Bool.eq_false_iff.1 good)))

theorem graphSubmit_refuses (bad : graphHeaderBad (s.header g) = true) :
    exec (.graphSubmit id) s = .next (((s.takeGraph id g).graphError id 1 0).graphOver id) :=
  (graphSubmit_takes graph stopped mapped room turn).trans (congrArg _ (if_pos bad))

end

end

theorem graphSteps : Claims.GraphSteps := fun _ _ _ graph =>
  ⟨fun _ _ op num x first => gcondUpdate_first graph first op num x,
   fun mapped _ => ⟨gsigArrival_arrives graph mapped, gsigArrival_outside graph mapped⟩,
   graphSubmit_of_running graph,
   fun stopped mapped room turn =>
     ⟨fun nonempty most reserved state rest start => graphSubmit_starts graph stopped mapped room turn
        (graphHeaderBad_eq_false nonempty most reserved state rest start),
      fun wrong => graphSubmit_refuses graph stopped mapped room turn (graphHeaderBad_of_nnode wrong)⟩,
   fun _ => nodeCompletion_of_stopped graph, fun _ => nodeCompletion_delivers graph⟩

end Sys2Proof.Machine

open Sys2Proof Sys2Proof.Machine

/-- Settles O47: a graph's message needs its graph and a place in the lehr, and each step of the graph engine takes the branch
that its image, its header and its node's kind name. -/
theorem graphWork : Obligations.GraphWork := ⟨graphSignals, graphSteps⟩

end


section
/-!
PROOF. Checkpoints, rollbacks and failures of the hardware (O44): each step of the device for a team that stands alone, that is in
no redundant pair and linked to no other team.
-/

namespace Sys2Proof.Machine

/-! ## Checkpoints (R212, R364-R367) -/

theorem exec_checkpointTaken (t : Nat) (s : State) : exec (.checkpointTaken t) s = execCheckpointTaken t s := rfl
theorem exec_checkpointSafe (t date : Nat) (s : State) : exec (.checkpointSafe t date) s = execCheckpointSafe t date s := rfl
theorem exec_lehrAgeTimeout (t entered : Nat) (s : State) : exec (.lehrAgeTimeout t entered) s = execLehrAgeTimeout t entered s := rfl
theorem exec_rollback (t : Nat) (s : State) : exec (.rollback t) s = execRollback t s := rfl

section
variable {s : State} {t : Nat}

/-- A team outside a pair and outside a complete regrouping set takes its checkpoint alone. -/
theorem checkpointTaken_alone (live : (s.team t).live = true) (asked : (s.team t).wantCkpt = true) (free : s.ckptFree t = true)
    (single : s.teamPair t = none)
    (noSet : ∀ r ∈ (s.core (s.team t).coreId).sets, r.complete = true → r.teams.contains t = false) :
    exec (.checkpointTaken t) s = .next (s.takeCkpt t) := by
  have noMove : ((s.core (s.team t).coreId).sets.find? fun r => r.complete && r.teams.contains t) = none := by
    simpa using noSet
  simp only [exec_checkpointTaken, execCheckpointTaken, live, asked, free, single, noMove, Bool.not_true, Bool.or_self,
    Bool.false_eq_true, if_false]

/-- Which pair a team belongs to is a matter of its groups, its place and the benches. -/
theorem State.teamPair_congr {r : State} (groups : (r.team t).st = (s.team t).st) (place : (r.team t).coreId = (s.team t).coreId)
    (benches : r.benches = s.benches) : r.teamPair t = s.teamPair t := by
  have pair (g : Nat) : r.dmrPair t g = s.dmrPair t g := by
    simp only [State.dmrPair, State.group, Team.group, State.teamCore, State.bench, groups, place, benches]
  simp only [State.teamPair, Team.groupIds, groups, pair]

/-- Making a checkpoint safe, and dropping links after it, leaves the team's pair. -/
theorem State.teamPair_commitCkpt (s : State) (t : Nat) (c : CoreId) (f : Core → Core) :
    ((s.commitCkpt t).modCore c f).teamPair t = s.teamPair t := by
  unfold State.commitCkpt
  cases (s.team t).pending with
  | none => exact State.teamPair_congr rfl rfl rfl
  | some p =>
    refine State.teamPair_congr ?_ ?_ rfl
    all_goals simp only [State.team, State.modTeam, State.setTeam, State.modCore, State.setCore, SMap.get_set_same, Team.coreId]

/-- A team without links or a pair becomes safe alone. -/
theorem State.safeWith_alone {date : Nat} (unlinked : s.linksOf t date = []) (single : s.teamPair t = none) :
    s.safeWith t date = [t] := by
  simp only [State.safeWith, unlinked, single]
  rfl

/-- The checkpoint of a team without links or a pair becomes safe, and the lehr releases what it covers (R212, R364). -/
theorem checkpointSafe_alone {p : Ckpt} (unblocked : (s.team t).blocked = none) (pending : (s.team t).pending = some p)
    (unlinked : s.linksOf t p.date = []) (single : s.teamPair t = none) :
    exec (.checkpointSafe t p.date) s = .next ((State.modCore (s.commitCkpt t) (s.teamCore t) fun k =>
      { k with regMoves := k.regMoves.filter fun r =>
          !(r.2.all fun u => !((s.commitCkpt t).team u).live || decide (r.1 ≤ ((s.commitCkpt t).team u).safe.date)) }).releaseLehr
        (s.teamCore t)) := by
  simp only [exec_checkpointSafe, execCheckpointSafe, unblocked, pending, unlinked, State.safeWith_alone unlinked single,
    State.teamPair_commitCkpt, single, List.foldl_cons, List.foldl_nil, List.all_nil, Option.isSome_none, bne_self_eq_false,
    Bool.or_self, Bool.not_true, Bool.false_eq_true, if_false]

/-- The rollback of a team that no other rolls back with (R367). -/
theorem rollback_alone (live : (s.team t).live = true) (blocked : (s.team t).blocked ≠ none) (alone : s.together [t] = [t])
    (single : s.teamPair t = none) :
    exec (.rollback t) s = .next ((s.rollTeam t).modCore (s.teamCore t) fun k =>
      { k with regMoves := k.regMoves.filter fun r => !r.2.contains t }) := by
  have struck : (s.team t).blocked.isNone = false := by
    simpa [Option.isSome_iff_ne_none] using blocked
  have only (l : List Nat) : (l.any fun u => [t].contains u) = l.contains t := by
    simp [List.any_eq, eq_comm]
  simp only [exec_rollback, execRollback, live, struck, alone, single, only, List.filterMap_cons, List.filterMap_nil,
    List.foldl_cons, List.foldl_nil, List.eraseDups_nil, Bool.not_true, Bool.or_self, Bool.false_eq_true, if_false]

/-- Writes that no checkpoint taken since covers ask for one, and the lehr is looked at again (R212). -/
theorem lehrAgeTimeout_asks {entered : Nat} (live : (s.team t).live = true) (free : (s.team t).pending = none)
    (old : (s.team t).safe.date ≤ entered) (waits : ∃ e ∈ (s.core (s.team t).coreId).lehr, t ∈ e.owners ∧ e.sent = false) :
    ∃ n first, exec (.lehrAgeTimeout t entered) s = .next ((s.askCkpt t).later n (.lehrAgeTimeout t first)) := by
  have some_ : ((s.core (s.team t).coreId).lehr.filter fun e => e.owners.contains t && !e.sent).isEmpty = false := by
    simpa using waits
  simp only [exec_lehrAgeTimeout, execLehrAgeTimeout, live, free, some_, Nat.not_lt.2 old, Bool.not_true, Bool.or_self,
    Bool.false_eq_true, if_false]
  exact ⟨_, _, rfl⟩

end

theorem checkpoints : Claims.Checkpoints := by
  intro s t
  refine ⟨?taken, ?safe, ?strike, ?rollback, ?age⟩
  case taken =>
    intro live asked free idle unblocked noRelease single noSet
    exact checkpointTaken_alone live asked (by simp [State.ckptFree, free, idle, unblocked, noRelease]) single noSet
  case safe =>
    intro p unblocked pending unlinked single
    exact checkpointSafe_alone unblocked pending unlinked single
  case strike => exact fun _ => rfl
  case rollback => exact fun live blocked alone single => rollback_alone live blocked alone single
  case age => exact fun _ live free old waits => lehrAgeTimeout_asks live free old waits

/-! ## Failures of the hardware (R328, R332, R339, R341, R373) -/

section
variable {plane : Nat} (inside : plane < 72) (s : State)
include inside

theorem planeFailure_drops : exec (.planeFailure plane) s = .next (s.planeDown plane) :=
  congrArg Host.Outcome.next (if_pos inside)

theorem flitCrcError_drops {fails : Nat} (spent : 8 ≤ fails) : exec (.flitCrcError plane fails) s = .next (s.planeDown plane) :=
  congrArg Host.Outcome.next (if_pos ⟨spent, inside⟩)

end

theorem flitCrcError_retries (plane : Nat) {fails : Nat} (left : fails < 8) (s : State) :
    exec (.flitCrcError plane fails) s = .next s :=
  congrArg Host.Outcome.next (if_neg fun h => absurd h.1 (Nat.not_le.2 left))

theorem hardwareFailures : Claims.HardwareFailures := fun s _ _ _ _ _ _ _ _ =>
  ⟨rfl, rfl, fun _ _ => rfl, fun _ _ => rfl,
   fun inside => ⟨planeFailure_drops inside s, fun spent => flitCrcError_drops inside s spent⟩,
   fun left => flitCrcError_retries _ left s, rfl,
   ⟨fun cool => congrArg Host.Outcome.next (if_pos cool), fun hot => congrArg Host.Outcome.next (if_neg (Nat.not_lt.2 hot))⟩, rfl⟩

end Sys2Proof.Machine

open Sys2Proof Sys2Proof.Machine

/-- Settles O44: a team that stands alone passes the checks of each recovery step into its one branch, and a failure's step is its
own branch on the count, the plane or the temperature. -/
theorem checkpointsAndFailures : Obligations.CheckpointsAndFailures := ⟨checkpoints, hardwareFailures⟩

end

section
/-!
PROOF. What leaves both memories as they are (O60): the functions on the state that write neither memory, one rule for each,
by the canonical form of what they give.
-/

namespace Sys2Proof.Machine

/-! ## Shapes that every part of the machine uses -/

@[simp] theorem memoryForm_ite (c : Prop) [Decidable c] (a b : State) :
    memoryForm (if c then a else b) ↔ if c then memoryForm a else memoryForm b := by split <;> rfl

/-- A fold of steps that leave both memories leaves them. -/
@[simp] theorem memoryForm_foldl_iff {α : Type} (f : State → α → State) (hf : ∀ s a, memoryForm (f s a) ↔ memoryForm s)
    (l : List α) (s : State) : memoryForm (l.foldl f s) ↔ memoryForm s := by
  induction l generalizing s with
  | nil => rfl
  | cons a l ih => exact (ih _).trans (hf s a)

/-- The same for a fold that carries a value beside the state. -/
theorem memoryForm_foldl_snd {α β : Type} (f : β × State → α → β × State) (hf : ∀ r a, memoryForm (f r a).2 ↔ memoryForm r.2)
    (l : List α) (r : β × State) : memoryForm (l.foldl f r).2 ↔ memoryForm r.2 := by
  induction l generalizing r with
  | nil => rfl
  | cons a l ih => exact (ih _).trans (hf r a)

/-- A record update that names neither memory leaves both. -/
@[simp] theorem memoryForm_mk (s : State) (memTag poison veils combine wrote teams cores benches dies pkg fetched cur held toIssue time
    epoch marks opened trapped resumed opp rest found lastPart nextId agenda inputs sched freeCtr) :
    memoryForm ⟨s.mem, memTag, poison, veils, s.hostMem, combine, wrote, teams, cores, benches, dies, pkg, fetched, cur, held, toIssue,
      time, epoch, marks, opened, trapped, resumed, opp, rest, found, lastPart, nextId, agenda, inputs, sched, freeCtr⟩ ↔
      memoryForm s := Iff.rfl

section
variable (s : State)

/-! ### Machine/Mem -/

@[simp] theorem State.memoryForm_writeFrame (pa) : memoryForm (s.writeFrame pa) ↔ memoryForm s := Iff.rfl
@[simp] theorem State.memoryForm_setPoison (a p) : memoryForm (s.setPoison a p) ↔ memoryForm s := Iff.rfl

/-! ### Machine/Access -/

@[simp] theorem State.memoryForm_setTeam (t x) : memoryForm (s.setTeam t x) ↔ memoryForm s := Iff.rfl
@[simp] theorem State.memoryForm_modTeam (t f) : memoryForm (s.modTeam t f) ↔ memoryForm s := Iff.rfl
@[simp] theorem State.memoryForm_setGroup (t g x) : memoryForm (s.setGroup t g x) ↔ memoryForm s := Iff.rfl
@[simp] theorem State.memoryForm_modGroup (t g f) : memoryForm (s.modGroup t g f) ↔ memoryForm s := Iff.rfl
@[simp] theorem State.memoryForm_setStream (id st) : memoryForm (s.setStream id st) ↔ memoryForm s := Iff.rfl
@[simp] theorem State.memoryForm_modStream (id f) : memoryForm (s.modStream id f) ↔ memoryForm s := Iff.rfl
@[simp] theorem State.memoryForm_setCore (c x) : memoryForm (s.setCore c x) ↔ memoryForm s := Iff.rfl
@[simp] theorem State.memoryForm_modCore (c f) : memoryForm (s.modCore c f) ↔ memoryForm s := Iff.rfl
@[simp] theorem State.memoryForm_setBench (b x) : memoryForm (s.setBench b x) ↔ memoryForm s := Iff.rfl
@[simp] theorem State.memoryForm_modBench (b f) : memoryForm (s.modBench b f) ↔ memoryForm s := Iff.rfl
@[simp] theorem State.memoryForm_setDie (d x) : memoryForm (s.setDie d x) ↔ memoryForm s := Iff.rfl
@[simp] theorem State.memoryForm_modDie (d f) : memoryForm (s.modDie d f) ↔ memoryForm s := Iff.rfl
@[simp] theorem State.memoryForm_modPkg (f) : memoryForm (s.modPkg f) ↔ memoryForm s := Iff.rfl
@[simp] theorem State.memoryForm_tellKiln (kind value) : memoryForm (s.tellKiln kind value) ↔ memoryForm s := Iff.rfl
@[simp] theorem State.memoryForm_modHere (f) : memoryForm (s.modHere f) ↔ memoryForm s := Iff.rfl
@[simp] theorem State.memoryForm_modMyGroup (f) : memoryForm (s.modMyGroup f) ↔ memoryForm s := Iff.rfl
@[simp] theorem State.memoryForm_modMyTeam (f) : memoryForm (s.modMyTeam f) ↔ memoryForm s := Iff.rfl
@[simp] theorem State.memoryForm_fresh : memoryForm s.fresh.2 ↔ memoryForm s := Iff.rfl
@[simp] theorem State.memoryForm_free : memoryForm s.free.2 ↔ memoryForm s := Iff.rfl
@[simp] theorem State.memoryForm_later (n e) : memoryForm (s.later n e) ↔ memoryForm s := Iff.rfl
@[simp] theorem State.memoryForm_again (e) : memoryForm (s.again e) ↔ memoryForm s := Iff.rfl
@[simp] theorem State.memoryForm_hold : memoryForm (s.hold) ↔ memoryForm s := Iff.rfl

/-! ### Machine/Lines -/

@[simp] theorem State.memoryForm_modEntry (c key f) : memoryForm (s.modEntry c key f) ↔ memoryForm s := Iff.rfl
@[simp] theorem State.memoryForm_noteWrite (k) : memoryForm (s.noteWrite k) ↔ memoryForm s := by simp [State.noteWrite]
@[simp] theorem State.memoryForm_storeLine (c key w) : memoryForm (s.storeLine c key w) ↔ memoryForm s := by simp [State.storeLine]
@[simp] theorem State.memoryForm_spadWrite (t team grp date off bs pois) :
    memoryForm (s.spadWrite t team grp date off bs pois) ↔ memoryForm s := by simp [State.spadWrite]
@[simp] theorem State.memoryForm_addPend (t line k) : memoryForm (s.addPend t line k) ↔ memoryForm s := Iff.rfl
@[simp] theorem State.memoryForm_subPend (t line k) : memoryForm (s.subPend t line k) ↔ memoryForm s := Iff.rfl
@[simp] theorem State.memoryForm_drainQueue (id) : memoryForm (s.drainQueue id) ↔ memoryForm s := by simp [State.drainQueue]
@[simp] theorem State.memoryForm_drainGroup (t g) : memoryForm (s.drainGroup t g) ↔ memoryForm s := by simp [State.drainGroup]
@[simp] theorem State.memoryForm_askCkpt (t) : memoryForm (s.askCkpt t) ↔ memoryForm s := by simp [State.askCkpt]
@[simp] theorem State.memoryForm_releaseLehr (c) : memoryForm (s.releaseLehr c) ↔ memoryForm s := by simp [State.releaseLehr]
@[simp] theorem State.memoryForm_enterLehr (c team grp x date w) : memoryForm (s.enterLehr c team grp x date w) ↔ memoryForm s := by
  simp [State.enterLehr, State.fresh]
@[simp] theorem State.memoryForm_depart (c team grp key) : memoryForm (s.depart c team grp key) ↔ memoryForm s := by
  simp [State.depart]
@[simp] theorem State.memoryForm_departAll (c team grp) : memoryForm (s.departAll c team grp) ↔ memoryForm s := by
  simp [State.departAll]
@[simp] theorem State.memoryForm_takeCkpt (t) : memoryForm (s.takeCkpt t) ↔ memoryForm s := Iff.rfl

/-! ### Machine/Translate -/

@[simp] theorem State.memoryForm_tlbPut (c asid va t) : memoryForm (s.tlbPut c asid va t) ↔ memoryForm s := Iff.rfl
@[simp] theorem State.memoryForm_dropWalk (c id) : memoryForm (s.dropWalk c id) ↔ memoryForm s := Iff.rfl
@[simp] theorem State.memoryForm_modWalk (c id f) : memoryForm (s.modWalk c id f) ↔ memoryForm s := Iff.rfl
@[simp] theorem State.memoryForm_forgetWalk (c w) : memoryForm (s.forgetWalk c w) ↔ memoryForm s := by simp [State.forgetWalk]
@[simp] theorem State.memoryForm_startWalk (c kv k asid addr lanes grp ticket who root logged) :
    memoryForm (s.startWalk c kv k asid addr lanes grp ticket who root logged) ↔ memoryForm s := by
  simp [State.startWalk, State.fresh]
@[simp] theorem State.memoryForm_translate (c k asid va lanes grp ticket who logged) :
    memoryForm (s.translate c k asid va lanes grp ticket who logged).2 ↔ memoryForm s := by
  unfold State.translate
  dsimp only
  split
  · rfl
  · cases s.walkOf c k asid (BitVec.ofNat 64 va) grp who with
    | some w =>
      dsimp only
      split <;> simp
    | none =>
      cases s.tlbFind c asid va with
      | none => simp
      | some t =>
        dsimp only
        split <;> simp
@[simp] theorem State.memoryForm_kvPut (c e) : memoryForm (s.kvPut c e) ↔ memoryForm s := Iff.rfl
@[simp] theorem State.memoryForm_kvTranslate (c k asid root coord lanes grp ticket who) :
    memoryForm (s.kvTranslate c k asid root coord lanes grp ticket who).2 ↔ memoryForm s := by
  unfold State.kvTranslate
  dsimp only
  cases s.walkOf c k asid (BitVec.ofNat 64 coord) grp who with
  | some w =>
    dsimp only
    split <;> simp
  | none =>
    cases s.kvFind c asid (kvPage coord) with
    | none => simp
    | some e =>
      dsimp only
      split <;> simp
@[simp] theorem State.memoryForm_setEgress (l) : memoryForm (s.setEgress l) ↔ memoryForm s := Iff.rfl
@[simp] theorem State.memoryForm_dropFlits (n) : memoryForm (s.dropFlits n) ↔ memoryForm s := Iff.rfl
@[simp] theorem State.memoryForm_sendFlits (lane n) : memoryForm (s.sendFlits lane n) ↔ memoryForm s := Iff.rfl
@[simp] theorem State.memoryForm_sendOut (pkg) : memoryForm (s.sendOut pkg) ↔ memoryForm s := by
  unfold State.sendOut
  split <;> simp
@[simp] theorem State.memoryForm_translateSpan (c k asid va n lanes grp ticket who) :
    memoryForm (s.translateSpan c k asid va n lanes grp ticket who).2 ↔ memoryForm s := by
  refine memoryForm_foldl_snd _ (fun r p => ?_) _ _
  obtain ⟨tx, s⟩ := r
  cases tx <;> simp
@[simp] theorem State.memoryForm_settlePoison (die t bs bad va) : memoryForm (s.settlePoison die t bs bad va) ↔ memoryForm s := by
  simp [State.settlePoison]

/-! ### Machine/Far -/

@[simp] theorem State.memoryForm_consume (t granule) : memoryForm (s.consume t granule) ↔ memoryForm s := Iff.rfl
@[simp] theorem State.memoryForm_writePending (id p) : memoryForm (s.writePending id p) ↔ memoryForm s := Iff.rfl
@[simp] theorem State.memoryForm_journalAmo (id a) : memoryForm (s.journalAmo id a) ↔ memoryForm s := Iff.rfl
@[simp] theorem State.memoryForm_dropAmo (id a) : memoryForm (s.dropAmo id a) ↔ memoryForm s := Iff.rfl
@[simp] theorem State.memoryForm_writeAmo (id a) : memoryForm (s.writeAmo id a) ↔ memoryForm s := Iff.rfl

/-! ### Machine/Ops -/

@[simp] theorem State.memoryForm_askRelease (id sc) : memoryForm (s.askRelease id sc) ↔ memoryForm s := by simp [State.askRelease]
@[simp] theorem State.memoryForm_beginRelease (id sc) : memoryForm (s.beginRelease id sc) ↔ memoryForm s := by
  simp [State.beginRelease]
@[simp] theorem State.memoryForm_dropPrefetch (t) : memoryForm (s.dropPrefetch t) ↔ memoryForm s := Iff.rfl
@[simp] theorem State.memoryForm_newEpoch (id sc) : memoryForm (s.newEpoch id sc) ↔ memoryForm s := by simp [State.newEpoch]
@[simp] theorem State.memoryForm_acquire (id sc) : memoryForm (s.acquire id sc) ↔ memoryForm s := by simp [State.acquire]
@[simp] theorem State.memoryForm_writeResult (id p) : memoryForm (s.writeResult id p) ↔ memoryForm s := by simp [State.writeResult]
@[simp] theorem State.memoryForm_writeAll (id) : memoryForm (s.writeAll id) ↔ memoryForm s := by simp [State.writeAll]
@[simp] theorem State.memoryForm_acquireOn (id p sc) : memoryForm (s.acquireOn id p sc) ↔ memoryForm s := by simp [State.acquireOn]
@[simp] theorem State.memoryForm_setLineAt (r l) : memoryForm (s.setLineAt r l) ↔ memoryForm s := Iff.rfl
@[simp] theorem State.memoryForm_dropLines (c ks) : memoryForm (s.dropLines c ks) ↔ memoryForm s := Iff.rfl
@[simp] theorem State.memoryForm_dropCopies (c) : memoryForm (s.dropCopies c) ↔ memoryForm s := Iff.rfl
@[simp] theorem State.memoryForm_trimCopies (c) : memoryForm (s.trimCopies c) ↔ memoryForm s := by simp [State.trimCopies]
@[simp] theorem State.memoryForm_endFence (id f) : memoryForm (s.endFence id f) ↔ memoryForm s := by simp [State.endFence]
@[simp] theorem State.memoryForm_pruneFences (id) : memoryForm (s.pruneFences id) ↔ memoryForm s := by simp [State.pruneFences]
@[simp] theorem State.memoryForm_leaveLine (r) : memoryForm (s.leaveLine r) ↔ memoryForm s := by simp [State.leaveLine]
@[simp] theorem State.memoryForm_closeLine (r) : memoryForm (s.closeLine r) ↔ memoryForm s := by simp [State.closeLine]
@[simp] theorem State.memoryForm_wakeReg (r cause) : memoryForm (s.wakeReg r cause) ↔ memoryForm s := by
  unfold State.wakeReg
  refine memoryForm_foldl_iff _ (fun s a => ?_) _ _
  split <;> simp
@[simp] theorem State.memoryForm_recallReg (r) : memoryForm (s.recallReg r) ↔ memoryForm s := by
  unfold State.recallReg
  dsimp only
  split
  · rfl
  · split <;> simp
@[simp] theorem State.memoryForm_recallWhere (p) : memoryForm (s.recallWhere p) ↔ memoryForm s := by simp [State.recallWhere]
@[simp] theorem State.memoryForm_freeLock (t b) : memoryForm (s.freeLock t b) ↔ memoryForm s := Iff.rfl
@[simp] theorem State.memoryForm_freeLocks (id m) : memoryForm (s.freeLocks id m) ↔ memoryForm s := by simp [State.freeLocks]
@[simp] theorem State.memoryForm_dropLanes (id m) : memoryForm (s.dropLanes id m) ↔ memoryForm s := by simp [State.dropLanes]
@[simp] theorem State.memoryForm_releaseTeam (t sc total bad) : memoryForm (s.releaseTeam t sc total bad) ↔ memoryForm s := by
  unfold State.releaseTeam
  refine memoryForm_foldl_iff _ (fun s a => ?_) _ _
  split <;> simp
@[simp] theorem State.memoryForm_releasePhase (teams sc p) : memoryForm (s.releasePhase teams sc p) ↔ memoryForm s := by
  simp [State.releasePhase]
@[simp] theorem State.memoryForm_checkPackage (launch) : memoryForm (s.checkPackage launch) ↔ memoryForm s := by
  simp [State.checkPackage]
@[simp] theorem State.memoryForm_checkDie (launch die sc) : memoryForm (s.checkDie launch die sc) ↔ memoryForm s := by
  simp [State.checkDie]
@[simp] theorem State.memoryForm_checkCluster (bench cl) : memoryForm (s.checkCluster bench cl) ↔ memoryForm s := by
  unfold State.checkCluster
  dsimp only
  split <;> simp
@[simp] theorem State.memoryForm_checkTeam (t sc) : memoryForm (s.checkTeam t sc) ↔ memoryForm s := by
  unfold State.checkTeam
  dsimp only
  split
  · rfl
  · cases sc
    case cluster =>
      dsimp only
      split <;> simp
    all_goals simp
@[simp] theorem State.memoryForm_recheckBarriers (t) : memoryForm (s.recheckBarriers t) ↔ memoryForm s := by
  simp [State.recheckBarriers]
@[simp] theorem State.memoryForm_modPair (t p f) : memoryForm (s.modPair t p f) ↔ memoryForm s := Iff.rfl
@[simp] theorem State.memoryForm_recordOf (t g r) : memoryForm (s.recordOf t g r) ↔ memoryForm s := by
  unfold State.recordOf
  split <;> simp
@[simp] theorem State.memoryForm_endGroup (t g) : memoryForm (s.endGroup t g) ↔ memoryForm s := by simp [State.endGroup]
@[simp] theorem State.memoryForm_endStream (id) : memoryForm (s.endStream id) ↔ memoryForm s := by
  simp [State.endStream, State.free]
@[simp] theorem State.memoryForm_haltGroup (id r nest) : memoryForm (s.haltGroup id r nest) ↔ memoryForm s := Iff.rfl
@[simp] theorem State.memoryForm_askAbort (t g code) : memoryForm (s.askAbort t g code) ↔ memoryForm s := Iff.rfl
@[simp] theorem State.memoryForm_withdraw (t g) : memoryForm (s.withdraw t g) ↔ memoryForm s := Iff.rfl
@[simp] theorem State.memoryForm_dropContribution (t g) : memoryForm (s.dropContribution t g) ↔ memoryForm s := by
  simp [State.dropContribution]
@[simp] theorem State.memoryForm_feedTrailer (t g f) : memoryForm (s.feedTrailer t g f) ↔ memoryForm s := by
  unfold State.feedTrailer
  split <;> simp
@[simp] theorem State.memoryForm_shareTrap (id r) : memoryForm (s.shareTrap id r) ↔ memoryForm s := by
  unfold State.shareTrap
  split
  · simp
  · split <;> simp
  · rfl
@[simp] theorem State.memoryForm_keepTrap (id r) : memoryForm (s.keepTrap id r) ↔ memoryForm s := Iff.rfl
@[simp] theorem State.memoryForm_leaveHandler (id again) : memoryForm (s.leaveHandler id again) ↔ memoryForm s := by
  simp [State.leaveHandler]

/-! ### Machine/Operands -/

@[simp] theorem State.memoryForm_push (q ready id m) : memoryForm (s.push q ready id m) ↔ memoryForm s := Iff.rfl
@[simp] theorem State.memoryForm_setDst (d ex f) : memoryForm (s.setDst d ex f) ↔ memoryForm s := by
  unfold State.setDst
  split <;> simp
@[simp] theorem State.memoryForm_setPair (d ex f) : memoryForm (s.setPair d ex f) ↔ memoryForm s := by simp [State.setPair]
@[simp] theorem State.memoryForm_setDsts (d ex n f) : memoryForm (s.setDsts d ex n f) ↔ memoryForm s := by simp [State.setDsts]
@[simp] theorem State.memoryForm_setPred (p ex f) : memoryForm (s.setPred p ex f) ↔ memoryForm s := Iff.rfl
@[simp] theorem State.memoryForm_popQueues (us) : memoryForm (s.popQueues us) ↔ memoryForm s := by simp [State.popQueues]
@[simp] theorem State.memoryForm_pushZeros (us) : memoryForm (s.pushZeros us) ↔ memoryForm s := by simp [State.pushZeros]

/-! ### Machine/Flags -/

@[simp] theorem State.memoryForm_raise (f) : memoryForm (s.raise f) ↔ memoryForm s := Iff.rfl
@[simp] theorem State.memoryForm_setRes (d ex f) : memoryForm (s.setRes d ex f) ↔ memoryForm s := by simp [State.setRes]
@[simp] theorem State.memoryForm_setRes64 (d ex f) : memoryForm (s.setRes64 d ex f) ↔ memoryForm s := by simp [State.setRes64]

/-! ### Machine/Issue -/

@[simp] theorem State.memoryForm_pairIssued : memoryForm (s.pairIssued) ↔ memoryForm s := by
  unfold State.pairIssued
  split <;> simp
@[simp] theorem State.memoryForm_record (what ex data) : memoryForm (s.record what ex data) ↔ memoryForm s := by simp [State.record]
@[simp] theorem State.memoryForm_inject (us ex) : memoryForm (s.inject us ex) ↔ memoryForm s := by simp [State.inject]
@[simp] theorem State.memoryForm_longLat (c la d n f fl) : memoryForm (s.longLat c la d n f fl) ↔ memoryForm s := by
  cases d <;> simp [State.longLat, State.fresh]
@[simp] theorem State.memoryForm_advance (id m) : memoryForm (s.advance id m) ↔ memoryForm s := Iff.rfl
@[simp] theorem State.memoryForm_park : memoryForm (s.park) ↔ memoryForm s := Iff.rfl
@[simp] theorem State.memoryForm_countIssue (iss) : memoryForm (s.countIssue iss) ↔ memoryForm s := by simp [State.countIssue]

/-! ### Machine/LineMem -/

theorem State.memoryForm_of_refreshLine {s r : State} {t g l} (h : s.refreshLine t g l = some r) : memoryForm r ↔ memoryForm s := by
  unfold State.refreshLine at h
  dsimp only at h
  split at h
  · split at h
    · cases h
    · cases h
      simp
  · cases h
    simp
@[simp] theorem State.memoryForm_lineOpens (r l) : memoryForm (s.lineOpens r l) ↔ memoryForm s := Iff.rfl
@[simp] theorem State.memoryForm_lineArrives (r l) : memoryForm (s.lineArrives r l) ↔ memoryForm s := by
  unfold State.lineArrives
  dsimp only
  split
  · simp
  · split
    · simp
    · next r opened => simp [State.memoryForm_of_refreshLine opened]
@[simp] theorem State.memoryForm_lineFatal (r l adr) : memoryForm (s.lineFatal r l adr) ↔ memoryForm s := Iff.rfl
@[simp] theorem State.memoryForm_bindLine (r x mode line byte key rw lanes) :
    memoryForm (s.bindLine r x mode line byte key rw lanes) ↔ memoryForm s := by simp [State.bindLine]
@[simp] theorem State.memoryForm_clearRel (id ex) : memoryForm (s.clearRel id ex) ↔ memoryForm s := Iff.rfl
@[simp] theorem State.memoryForm_journalCheck (c) : memoryForm (s.journalCheck c) ↔ memoryForm s := by simp [State.journalCheck]

/-! ### Machine/Atomics -/

@[simp] theorem State.memoryForm_setMark (ex v) : memoryForm (s.setMark ex v) ↔ memoryForm s := Iff.rfl
@[simp] theorem State.memoryForm_setWords (d n w) : memoryForm (s.setWords d n w) ↔ memoryForm s := by simp [State.setWords]
@[simp] theorem State.memoryForm_takeReplay (j id) : memoryForm (s.takeReplay j id) ↔ memoryForm s := Iff.rfl
@[simp] theorem State.memoryForm_dropReplay (id) : memoryForm (s.dropReplay id) ↔ memoryForm s := Iff.rfl
@[simp] theorem State.memoryForm_startAmo (c la op acq scope d a x served pois nth) :
    memoryForm (s.startAmo c la op acq scope d a x served pois nth) ↔ memoryForm s := by
  cases d <;> simp [State.startAmo, State.fresh]
@[simp] theorem State.memoryForm_holdTrap (id d r) : memoryForm (s.holdTrap id d r) ↔ memoryForm s := Iff.rfl
@[simp] theorem State.memoryForm_enterUpdates (c op a us) : memoryForm (s.enterUpdates c op a us) ↔ memoryForm s := by
  simp [State.enterUpdates]

/-! ### Machine/Sched -/

@[simp] theorem State.memoryForm_setFetched (id line l) : memoryForm (s.setFetched id line l) ↔ memoryForm s := Iff.rfl
@[simp] theorem State.memoryForm_dropFetched (team) : memoryForm (s.dropFetched team) ↔ memoryForm s := Iff.rfl
@[simp] theorem State.memoryForm_grant (c part) : memoryForm (s.grant c part) ↔ memoryForm s := by
  unfold State.grant
  split <;> simp
@[simp] theorem State.memoryForm_modRot (id f) : memoryForm (s.modRot id f) ↔ memoryForm s := Iff.rfl
@[simp] theorem State.memoryForm_commit (id) : memoryForm (s.commit id) ↔ memoryForm s := Iff.rfl
@[simp] theorem State.memoryForm_decided : memoryForm (s.decided) ↔ memoryForm s := by
  unfold State.decided
  repeat' split
  all_goals simp
@[simp] theorem State.memoryForm_resetAge (id pc) : memoryForm (s.resetAge id pc) ↔ memoryForm s := Iff.rfl
theorem State.memoryForm_of_takeEvent {s : State} {k : Nat} {e} (h : s.takeEvent k = some e) : memoryForm e.2 ↔ memoryForm s := by
  unfold State.takeEvent at h
  split at h
  · cases h
  · split at h
    · cases h
    · cases h
      rfl
theorem State.memoryForm_of_takeInput {s : State} {e} (h : s.takeInput = some e) : memoryForm e.2 ↔ memoryForm s := by
  unfold State.takeInput at h
  split at h
  · cases h
  · cases h
    rfl
theorem State.memoryForm_of_nextStep {s : State} {e} (h : s.nextStep = some e) : memoryForm e.2 ↔ memoryForm s := by
  unfold State.nextStep at h
  split at h
  · next taken => cases h; exact State.memoryForm_of_takeEvent taken
  · split at h
    · next taken => cases h; exact State.memoryForm_of_takeInput taken
    · split at h
      · cases h
        rfl
      · split at h <;> cases h
        rfl
theorem State.memoryForm_of_chosen {s : State} {c : Choice} {e} (h : s.chosen c = some e) : memoryForm e.2 ↔ memoryForm s := by
  cases c with
  | event k => exact State.memoryForm_of_takeEvent h
  | input => exact State.memoryForm_of_takeInput h
  | grant c p =>
    simp only [State.chosen] at h
    split at h <;> cases h
    rfl
@[simp] theorem State.memoryForm_tick : memoryForm (s.tick) ↔ memoryForm s := Iff.rfl
@[simp] theorem State.memoryForm_mark (id pc) : memoryForm (s.mark id pc) ↔ memoryForm s := Iff.rfl
@[simp] theorem State.memoryForm_settleMarks : memoryForm (s.settleMarks) ↔ memoryForm s := by simp [State.settleMarks]
@[simp] theorem State.memoryForm_drainFor (i id) : memoryForm (s.drainFor i id) ↔ memoryForm s := by simp [State.drainFor]
@[simp] theorem State.memoryForm_issued (c resumed) : memoryForm (s.issued c resumed) ↔ memoryForm s := by simp [State.issued]

/-! ### Machine/Matrix -/

@[simp] theorem State.memoryForm_accLater (c la outs fl) : memoryForm (s.accLater c la outs fl) ↔ memoryForm s := Iff.rfl
@[simp] theorem State.memoryForm_askEntries (id lanes) : memoryForm (s.askEntries id lanes) ↔ memoryForm s := by
  unfold State.askEntries
  refine memoryForm_foldl_iff _ (fun s a => ?_) _ _
  split
  · rfl
  · split <;> simp
@[simp] theorem State.memoryForm_mmaFire (k o ea eb cls depth l c) :
    memoryForm (mmaFire k o ea eb cls depth l c s) ↔ memoryForm s := Iff.rfl
@[simp] theorem State.memoryForm_endSet (id cv) : memoryForm (s.endSet id cv) ↔ memoryForm s := Iff.rfl
@[simp] theorem State.memoryForm_credWrite (bench r) : memoryForm (s.credWrite bench r) ↔ memoryForm s := by simp [State.credWrite]
@[simp] theorem State.memoryForm_checkCreds (bench) : memoryForm (s.checkCreds bench) ↔ memoryForm s := by
  unfold State.checkCreds
  refine memoryForm_foldl_iff _ (fun s a => ?_) _ _
  split <;> simp
@[simp] theorem State.memoryForm_settleCreds : memoryForm (s.settleCreds) ↔ memoryForm s := by simp [State.settleCreds]
@[simp] theorem State.memoryForm_contribute (t g) : memoryForm (s.contribute t g) ↔ memoryForm s := by
  unfold State.contribute
  split <;> simp

/-! ### Machine/Cluster -/

@[simp] theorem State.memoryForm_joinCluster (t asid key n) : memoryForm (s.joinCluster t asid key n) ↔ memoryForm s := Iff.rfl
@[simp] theorem State.memoryForm_recallWindow (t) : memoryForm (s.recallWindow t) ↔ memoryForm s := by simp [State.recallWindow]

/-! ### Machine/Control -/

@[simp] theorem State.memoryForm_keepState : memoryForm (keepState s) ↔ memoryForm s := Iff.rfl
@[simp] theorem State.memoryForm_endTurn : memoryForm (s.endTurn) ↔ memoryForm s := Iff.rfl
@[simp] theorem State.memoryForm_setSreg (r x) : memoryForm (s.setSreg r x) ↔ memoryForm s := by
  unfold State.setSreg
  split <;> simp

/-! ### Machine/Stage -/

@[simp] theorem State.memoryForm_ringPhase (t off) : memoryForm (s.ringPhase t off) ↔ memoryForm s := by
  unfold State.ringPhase
  split <;> simp
@[simp] theorem State.memoryForm_putStage (t grp date off o) : memoryForm (s.putStage t grp date off o) ↔ memoryForm s := by
  simp [State.putStage]

/-! ### Machine/Units -/

@[simp] theorem State.memoryForm_modCmd (c id f) : memoryForm (s.modCmd c id f) ↔ memoryForm s := Iff.rfl
@[simp] theorem State.memoryForm_dropCmd (c id) : memoryForm (s.dropCmd c id) ↔ memoryForm s := Iff.rfl
@[simp] theorem State.memoryForm_setTagAt (t g d n x) : memoryForm (s.setTagAt t g d n x) ↔ memoryForm s := Iff.rfl
@[simp] theorem State.memoryForm_raisePending (t credit) : memoryForm (s.raisePending t credit) ↔ memoryForm s := by
  simp [State.raisePending]
@[simp] theorem State.memoryForm_creditLines (c k ls) : memoryForm (s.creditLines c k ls) ↔ memoryForm s := by
  simp [State.creditLines]
@[simp] theorem State.memoryForm_creditAll (k) : memoryForm (s.creditAll k) ↔ memoryForm s := by simp [State.creditAll]
@[simp] theorem State.memoryForm_applyCount (t grp x) : memoryForm (s.applyCount t grp x) ↔ memoryForm s := by
  unfold State.applyCount
  split <;> simp
@[simp] theorem State.memoryForm_countUnit (k bytes pois ecode fault) :
    memoryForm (s.countUnit k bytes pois ecode fault) ↔ memoryForm s := by simp [State.countUnit]
@[simp] theorem State.memoryForm_noteTicket (k) : memoryForm (s.noteTicket k) ↔ memoryForm s := by simp [State.noteTicket]
@[simp] theorem State.memoryForm_takeTicket (t) : memoryForm (s.takeTicket t).2 ↔ memoryForm s := Iff.rfl
@[simp] theorem State.memoryForm_failCmd (c k code) : memoryForm (s.failCmd c k code) ↔ memoryForm s := by simp [State.failCmd]
@[simp] theorem State.memoryForm_checkDone (c id) : memoryForm (s.checkDone c id) ↔ memoryForm s := by
  unfold State.checkDone
  split <;> simp
@[simp] theorem State.memoryForm_failLane (c k lane adr lines) : memoryForm (s.failLane c k lane adr lines) ↔ memoryForm s := by
  simp [State.failLane]
@[simp] theorem State.memoryForm_padLand (t grp date bs pois) : memoryForm (s.padLand t grp date bs pois) ↔ memoryForm s := by
  simp [State.padLand]
@[simp] theorem State.memoryForm_bankLand (t date i bs pois) : memoryForm (s.bankLand t date i bs pois) ↔ memoryForm s := Iff.rfl
@[simp] theorem State.memoryForm_landUnit (c k unit o) : memoryForm (s.landUnit c k unit o) ↔ memoryForm s := by
  unfold State.landUnit
  split <;> simp

/-! ### Machine/Engines -/

@[simp] theorem State.memoryForm_addCmd (c kind ticket sb units bytes credit) :
    memoryForm (s.addCmd c kind ticket sb units bytes credit) ↔ memoryForm s := by simp [State.addCmd, State.fresh]
@[simp] theorem State.memoryForm_kickAll (c) (l : List Nat) : memoryForm (s.kickAll c l) ↔ memoryForm s := by
  induction l generalizing s with
  | nil => rfl
  | cons x l ih => simp [State.kickAll, ih]
@[simp] theorem State.memoryForm_startUnits (c k) : memoryForm (s.startUnits c k) ↔ memoryForm s := by
  unfold State.startUnits
  repeat' split
  all_goals simp

@[simp] theorem State.memoryForm_unitOut (c k u o again) : memoryForm (s.unitOut c k u o again) ↔ memoryForm s := by
  simp [State.unitOut]
@[simp] theorem State.memoryForm_unbar (c k u) : memoryForm (s.unbar c k u) ↔ memoryForm s := by simp [State.unbar]
@[simp] theorem State.memoryForm_setPrefetch (k tid rows) : memoryForm (s.setPrefetch k tid rows) ↔ memoryForm s := Iff.rfl

/-! ### Machine/Gates -/

@[simp] theorem State.memoryForm_markCall (id) : memoryForm (s.markCall id) ↔ memoryForm s := Iff.rfl
@[simp] theorem State.memoryForm_rewake (id) : memoryForm (s.rewake id) ↔ memoryForm s := by
  unfold State.rewake
  dsimp only
  cases (s.stream id).watch with
  | none => simp
  | some w =>
    dsimp only
    cases w.due <;> simp

/-! ### Machine/KvSpace -/

@[simp] theorem State.memoryForm_dropKv (pe) : memoryForm (s.dropKv pe) ↔ memoryForm s := Iff.rfl
@[simp] theorem State.memoryForm_recallKv (f) : memoryForm (s.recallKv f) ↔ memoryForm s := by simp [State.recallKv]
@[simp] theorem State.memoryForm_retryKv (root page) : memoryForm (s.retryKv root page) ↔ memoryForm s := by
  simp [State.retryKv, State.fresh]
@[simp] theorem State.memoryForm_kvWords (x) : memoryForm (s.kvWords x).2 ↔ memoryForm s := by
  unfold State.kvWords
  split <;> rfl
@[simp] theorem State.memoryForm_kvResult (c la d ws lo) : memoryForm (s.kvResult c la d ws lo) ↔ memoryForm s := by
  simp [State.kvResult]

/-! ### Machine/Room -/

@[simp] theorem State.memoryForm_seat (t) : memoryForm (s.seat t) ↔ memoryForm s := by simp [State.seat]
@[simp] theorem State.memoryForm_unseat (t) : memoryForm (s.unseat t) ↔ memoryForm s := Iff.rfl

/-! ### Machine/System -/

@[simp] theorem State.memoryForm_invalidate (w) : memoryForm (s.invalidate w) ↔ memoryForm s := by simp [State.invalidate]
@[simp] theorem State.memoryForm_copyLines (t t' g) : memoryForm (s.copyLines t t' g) ↔ memoryForm s := by simp [State.copyLines]
@[simp] theorem State.memoryForm_formPair (t g core) : memoryForm (s.formPair t g core) ↔ memoryForm s := by
  simp [State.formPair, State.fresh]
@[simp] theorem State.memoryForm_endPair (t g p) : memoryForm (s.endPair t g p) ↔ memoryForm s := by
  unfold State.endPair
  dsimp only
  split <;> simp
@[simp] theorem State.memoryForm_endSoon (t p) : memoryForm (s.endSoon t p) ↔ memoryForm s := by simp [State.endSoon]
@[simp] theorem State.memoryForm_returnFrom (id again) : memoryForm (s.returnFrom id again) ↔ memoryForm s := by
  simp [State.returnFrom]
@[simp] theorem State.memoryForm_reformPair (id core) : memoryForm (s.reformPair id core) ↔ memoryForm s := by
  unfold State.reformPair
  split <;> simp

/-! ### Machine/Departs -/

@[simp] theorem State.memoryForm_dropEntry (c id) : memoryForm (s.dropEntry c id) ↔ memoryForm s := Iff.rfl
@[simp] theorem State.memoryForm_logWrite (c e rec) : memoryForm (s.logWrite c e rec) ↔ memoryForm s := Iff.rfl
@[simp] theorem State.memoryForm_takeRecords (c page) : memoryForm (s.takeRecords c page).2 ↔ memoryForm s := Iff.rfl
@[simp] theorem State.memoryForm_replayPage (c page) : memoryForm (s.replayPage c page) ↔ memoryForm s := by simp [State.replayPage]
@[simp] theorem State.memoryForm_suspend (c w) : memoryForm (s.suspend c w) ↔ memoryForm s := by simp [State.suspend]
@[simp] theorem State.memoryForm_retryWalk (c w) : memoryForm (s.retryWalk c w) ↔ memoryForm s := Iff.rfl
@[simp] theorem State.memoryForm_departPad (c e t off bs) : memoryForm (s.departPad c e t off bs) ↔ memoryForm s := by
  simp [State.departPad]

/-! ### Machine/Front -/

@[simp] theorem State.memoryForm_fetchHolds (id pc) : memoryForm (s.fetchHolds id pc) ↔ memoryForm s := Iff.rfl

/-! ### Machine/Regroup -/

@[simp] theorem State.memoryForm_reformOne (r j new) : memoryForm (s.reformOne r j new) ↔ memoryForm s := by simp [State.reformOne]
@[simp] theorem State.memoryForm_reform (c r) : memoryForm (s.reform c r) ↔ memoryForm s := by simp [State.reform]

/-! ### Machine/Sync -/

@[simp] theorem State.memoryForm_addFence (id f) : memoryForm (s.addFence id f) ↔ memoryForm s := by simp [State.addFence]
@[simp] theorem State.memoryForm_beginPath (id p sc rel) : memoryForm (s.beginPath id p sc rel) ↔ memoryForm s := by
  simp [State.beginPath]
@[simp] theorem State.memoryForm_arrive (c sc op v) : memoryForm (s.arrive c sc op v) ↔ memoryForm s := by simp [State.arrive]
@[simp] theorem State.memoryForm_takeRelease (c sc) : memoryForm (s.takeRelease c sc) ↔ memoryForm s := by simp [State.takeRelease]

/-! ### Machine/Recovery -/

@[simp] theorem State.memoryForm_commitCkpt (t) : memoryForm (s.commitCkpt t) ↔ memoryForm s := by
  unfold State.commitCkpt
  split <;> simp
@[simp] theorem State.memoryForm_stopTeams (ts) : memoryForm (s.stopTeams ts) ↔ memoryForm s := by simp [State.stopTeams]
@[simp] theorem State.memoryForm_cancelWork (c t date) : memoryForm (s.cancelWork c t date) ↔ memoryForm s := by
  simp [State.cancelWork]
@[simp] theorem State.memoryForm_uncredit (c t date) : memoryForm (s.uncredit c t date) ↔ memoryForm s := by
  unfold State.uncredit
  refine memoryForm_foldl_iff _ (fun s a => ?_) _ _
  split <;> simp
@[simp] theorem State.memoryForm_recount (t date) : memoryForm (s.recount t date) ↔ memoryForm s := by simp [State.recount]
@[simp] theorem State.memoryForm_rebind (date r) : memoryForm (s.rebind date r) ↔ memoryForm s := by simp [State.rebind]
@[simp] theorem State.memoryForm_resumeGroup (t g) : memoryForm (s.resumeGroup t g) ↔ memoryForm s := by
  unfold State.resumeGroup
  dsimp only
  refine (memoryForm_foldl_iff _ (fun s x => s.memoryForm_rewake _) _ _).trans ?_
  cases (s.group t g).abort with
  | none =>
    refine memoryForm_foldl_iff _ (fun s sc => ?_) _ _
    split <;> simp
  | some code =>
    refine (State.memoryForm_later ..).trans (memoryForm_foldl_iff _ (fun s sc => ?_) _ _)
    split <;> simp
@[simp] theorem State.memoryForm_rollTeam (t) : memoryForm (s.rollTeam t) ↔ memoryForm s := by simp [State.rollTeam]
@[simp] theorem State.memoryForm_planeDown (p) : memoryForm (s.planeDown p) ↔ memoryForm s := Iff.rfl

/-! ### Machine/Launch -/

@[simp] theorem State.memoryForm_pollOnce (n e) : memoryForm (s.pollOnce n e) ↔ memoryForm s := by simp [State.pollOnce]
@[simp] theorem State.memoryForm_modLaunch (id f) : memoryForm (s.modLaunch id f) ↔ memoryForm s := Iff.rfl
@[simp] theorem State.memoryForm_dropLaunch (id) : memoryForm (s.dropLaunch id) ↔ memoryForm s := Iff.rfl
@[simp] theorem State.memoryForm_raiseIrq (irq) : memoryForm (s.raiseIrq irq) ↔ memoryForm s := by
  unfold State.raiseIrq
  split <;> simp
@[simp] theorem State.memoryForm_launchOver (l state) : memoryForm (s.launchOver l state) ↔ memoryForm s := by
  unfold State.launchOver
  split <;> simp
@[simp] theorem State.memoryForm_enterOrders (m) : memoryForm (s.enterOrders m) ↔ memoryForm s := by simp [State.enterOrders]
@[simp] theorem State.memoryForm_enterCore (t) : memoryForm (s.enterCore t) ↔ memoryForm s := by simp [State.enterCore, State.fresh]
@[simp] theorem State.memoryForm_leaveOrder (die code weak) : memoryForm (s.leaveOrder die code weak) ↔ memoryForm s := Iff.rfl
theorem State.memoryForm_of_admitBack {s r : State} {die b} (h : s.admitBack die b = some r) : memoryForm r ↔ memoryForm s := by
  unfold State.admitBack at h
  split at h
  · cases h
    rfl
  · split at h
    · cases h
    · cases h
      simp
@[simp] theorem State.memoryForm_moveCluster (id a b) : memoryForm (s.moveCluster id a b) ↔ memoryForm s := by
  simp [State.moveCluster]
theorem State.memoryForm_of_admitSaved {s r : State} {die t weak} (h : s.admitSaved die t weak = some r) :
    memoryForm r ↔ memoryForm s := by
  unfold State.admitSaved at h
  split at h
  · cases h
  · cases h
    split <;> simp
@[simp] theorem State.memoryForm_forget (t) : memoryForm (s.forget t) ↔ memoryForm s := by simp [State.forget]
@[simp] theorem State.memoryForm_release (t) : memoryForm (s.release t) ↔ memoryForm s := by simp [State.release]

/-! ### Machine/Graphs -/

@[simp] theorem State.memoryForm_modGraph (id f) : memoryForm (s.modGraph id f) ↔ memoryForm s := Iff.rfl
@[simp] theorem State.memoryForm_modNode (id n f) : memoryForm (s.modNode id n f) ↔ memoryForm s := Iff.rfl
@[simp] theorem State.memoryForm_veil (g on) : memoryForm (s.veil g on) ↔ memoryForm s := by
  unfold State.veil
  refine memoryForm_foldl_iff _ (fun s a => ?_) _ _
  split <;> simp
@[simp] theorem State.memoryForm_graphError (id reason node) : memoryForm (s.graphError id reason node) ↔ memoryForm s := Iff.rfl
@[simp] theorem State.memoryForm_submitNode (g n va) : memoryForm (s.submitNode g n va) ↔ memoryForm s := by
  simp [State.submitNode, State.fresh]
@[simp] theorem State.memoryForm_taskDone (id n i w) : memoryForm (s.taskDone id n i w) ↔ memoryForm s := by
  unfold State.taskDone
  dsimp only
  split <;> simp
@[simp] theorem State.memoryForm_seekTasks (c n) : memoryForm (s.seekTasks c n) ↔ memoryForm s := by simp [State.seekTasks]
@[simp] theorem State.memoryForm_formWave (c) : memoryForm (s.formWave c) ↔ memoryForm s := by
  unfold State.formWave
  split <;> simp
@[simp] theorem State.memoryForm_queueTasks (c ts) : memoryForm (s.queueTasks c ts) ↔ memoryForm s := by simp [State.queueTasks]
@[simp] theorem State.memoryForm_dealChunk (g n r split) : memoryForm (s.dealChunk g n r split) ↔ memoryForm s := by
  simp [State.dealChunk]
@[simp] theorem State.memoryForm_endWave (x) : memoryForm (s.endWave x) ↔ memoryForm s := by simp [State.endWave]

/-! ### Machine/HostPort -/

@[simp] theorem State.memoryForm_answer (bs) : memoryForm (s.answer bs) ↔ memoryForm s := Iff.rfl
@[simp] theorem State.memoryForm_setQueueBlock (fn q b) : memoryForm (s.setQueueBlock fn q b) ↔ memoryForm s := Iff.rfl
@[simp] theorem State.memoryForm_submitEntry (fn q b kind die va irq) :
    memoryForm (s.submitEntry fn q b kind die va irq) ↔ memoryForm s := by
  unfold State.submitEntry
  dsimp only [State.fresh]
  split <;> rfl
@[simp] theorem State.memoryForm_modColl (id f) : memoryForm (s.modColl id f) ↔ memoryForm s := Iff.rfl
@[simp] theorem State.memoryForm_sendPieces (id chunk members) : memoryForm (s.sendPieces id chunk members) ↔ memoryForm s := by
  unfold State.sendPieces
  split
  · rfl
  · refine memoryForm_foldl_iff _ (fun s a => ?_) _ _
    split
    · simp
    · split <;> simp
@[simp] theorem State.memoryForm_haltAll : memoryForm (s.haltAll) ↔ memoryForm s := by simp [State.haltAll]
@[simp] theorem State.memoryForm_killTeam (t) : memoryForm (s.killTeam t) ↔ memoryForm s := by simp [State.killTeam]
@[simp] theorem State.memoryForm_debugPut (t g l v) : memoryForm (s.debugPut t g l v) ↔ memoryForm s := by
  unfold State.debugPut
  split <;> simp

/-! ### Machine/Locks -/

@[simp] theorem State.memoryForm_takeLocks (id bit) (l : List Nat) : memoryForm (s.takeLocks id bit l).2 ↔ memoryForm s := by
  induction l generalizing s with
  | nil => rfl
  | cons i l ih =>
    simp only [State.takeLocks]
    split <;> simp [ih]
@[simp] theorem State.memoryForm_unlockLane (c l n o b i) : memoryForm (s.unlockLane c l n o b i) ↔ memoryForm s := by
  simp [State.unlockLane]

/-! ### Machine/Multicast -/

@[simp] theorem State.memoryForm_startCast (c line d ts at_) : memoryForm (s.startCast c line d ts at_) ↔ memoryForm s := by
  simp [State.startCast, State.fresh]
@[simp] theorem State.memoryForm_castPresent (c k) : memoryForm (s.castPresent c k) ↔ memoryForm s := by simp [State.castPresent]
@[simp] theorem State.memoryForm_castLands (c e cast t off bytes pois) :
    memoryForm (s.castLands c e cast t off bytes pois) ↔ memoryForm s := by
  unfold State.castLands
  dsimp only
  split
  · simp
  · split <;> simp

/-! ### Machine/Narrow -/

@[simp] theorem State.memoryForm_stepGens (ex) : memoryForm (s.stepGens ex) ↔ memoryForm s := Iff.rfl

/-! ### Machine/Waiting -/

@[simp] theorem State.memoryForm_pollFails (id pc) : memoryForm (s.pollFails id pc) ↔ memoryForm s := Iff.rfl

/-! ### Machine/Preempt -/

@[simp] theorem State.memoryForm_flushTeam (t) : memoryForm (s.flushTeam t) ↔ memoryForm s := by simp [State.flushTeam]
theorem State.memoryForm_of_takeArea {s : State} {die : Nat} {r} (h : s.takeArea die = some r) : memoryForm r.2 ↔ memoryForm s := by
  unfold State.takeArea at h
  split at h
  · cases h
  · cases h
    rfl
@[simp] theorem State.memoryForm_askMembers (t) : memoryForm (s.askMembers t) ↔ memoryForm s := by
  unfold State.askMembers
  dsimp only
  split
  · rfl
  · refine memoryForm_foldl_iff _ (fun s u => ?_) _ _
    split
    · rfl
    · next r taken => simp [State.memoryForm_of_takeArea taken]
@[simp] theorem State.memoryForm_startSave (t by_) : memoryForm (s.startSave t by_) ↔ memoryForm s := by
  unfold State.startSave
  split <;> simp
@[simp] theorem State.memoryForm_preempt (t by_ drain) : memoryForm (s.preempt t by_ drain) ↔ memoryForm s := by
  unfold State.preempt
  split <;> simp
@[simp] theorem State.memoryForm_disarm (id) : memoryForm (s.disarm id) ↔ memoryForm s := by
  unfold State.disarm execLwaitWake
  cases (s.stream id).watch with
  | none => rfl
  | some w => cases s.wakeHolds id w 2 <;> simp
theorem State.memoryForm_atDepth (t g d) {f : State → State} (hf : ∀ s, memoryForm (f s) ↔ memoryForm s) :
    memoryForm (s.atDepth t g d f) ↔ memoryForm s := by
  unfold State.atDepth
  dsimp only
  split
  · exact hf s
  · exact hf _
@[simp] theorem State.memoryForm_disarmAll (t g) : memoryForm (s.disarmAll t g) ↔ memoryForm s := by
  have disarmed (x) (s : State) : memoryForm ((s.disarm ⟨t, g, x⟩).modStream ⟨t, g, x⟩ fun st => { st with poll := [] }) ↔ memoryForm s := by
    simp
  unfold State.disarmAll
  refine memoryForm_foldl_iff _ (fun s d => memoryForm_foldl_iff _ (fun s x => ?_) _ _) _ _
  exact s.memoryForm_atDepth t g d (disarmed x)
@[simp] theorem State.memoryForm_saveReg (r) : memoryForm (s.saveReg r) ↔ memoryForm s := by simp [State.saveReg]
@[simp] theorem State.memoryForm_switchOut (t area asid) : memoryForm (s.switchOut t area asid) ↔ memoryForm s := by
  simp [State.switchOut]
@[simp] theorem State.memoryForm_lookArea (t) : memoryForm (s.lookArea t).2 ↔ memoryForm s := by simp [State.lookArea]
@[simp] theorem State.memoryForm_enterSet (t h asid) : memoryForm (s.enterSet t h asid) ↔ memoryForm s := Iff.rfl
@[simp] theorem State.memoryForm_areaTeam (asid area h gs) : memoryForm (s.areaTeam asid area h gs).2 ↔ memoryForm s := by
  unfold State.areaTeam
  split <;> simp [State.fresh]
@[simp] theorem State.memoryForm_lateCred (t) : memoryForm (s.lateCred t) ↔ memoryForm s := by simp [State.lateCred]
@[simp] theorem State.memoryForm_strangerArrivals (t bars pend) : memoryForm (s.strangerArrivals t bars pend) ↔ memoryForm s := by
  simp [State.strangerArrivals]
@[simp] theorem State.memoryForm_strangerHolds (t) : memoryForm (s.strangerHolds t) ↔ memoryForm s := by simp [State.strangerHolds]
@[simp] theorem State.memoryForm_loadPad (t base rd) : memoryForm (s.loadPad t base rd) ↔ memoryForm s := by simp [State.loadPad]

/-! ### Machine/Turn -/

@[simp] theorem State.memoryForm_unfetched (c) : memoryForm (s.unfetched c) ↔ memoryForm s := Iff.rfl
@[simp] theorem State.memoryForm_atWord (c w) : memoryForm (s.atWord c w) ↔ memoryForm s := Iff.rfl
@[simp] theorem State.memoryForm_ready (c w i) : memoryForm (s.ready c w i) ↔ memoryForm s := by simp [State.ready]
@[simp] theorem State.memoryForm_foundReady (c traps) : memoryForm (s.foundReady c traps) ↔ memoryForm s := Iff.rfl
@[simp] theorem State.memoryForm_restStep : memoryForm (s.restStep) ↔ memoryForm s := Iff.rfl
@[simp] theorem State.memoryForm_placeWord (nbits w) : memoryForm (s.placeWord nbits w) ↔ memoryForm s := by simp [State.placeWord]

/-! ### Machine/Step -/

@[simp] theorem State.memoryForm_withFetchWord (nbits w) : memoryForm (s.withFetchWord nbits w) ↔ memoryForm s := by
  simp [State.withFetchWord]

end

end Sys2Proof.Machine

end

section
/-!
PROOF. Effects and their issue (O60): the canonical form of an effect's answer, the functions that write memory, traps, the
issue of an instruction, and the checks, waits and gates that instructions share.
-/

namespace Sys2Proof.Machine

/-! ## What an answer carries -/

/-- The states that an effect answers are in canonical form, and what it notes or does on the state keeps the form. -/
def Act.form : Act → Prop
  | .done s | .jump s | .trapIn s _ => memoryForm s
  | .wait f | .trapBy f _ => ∀ s, memoryForm s → memoryForm (f s)
  | .hold | .park | .trap _ | .halt _ => True

section
variable (s : State) (f : State → State) (r : TrapRec)

@[simp] theorem Act.form_done : (Act.done s).form ↔ memoryForm s := Iff.rfl
@[simp] theorem Act.form_jump : (Act.jump s).form ↔ memoryForm s := Iff.rfl
@[simp] theorem Act.form_trapIn : (Act.trapIn s r).form ↔ memoryForm s := Iff.rfl
@[simp] theorem Act.form_wait : (Act.wait f).form ↔ ∀ s, memoryForm s → memoryForm (f s) := Iff.rfl
@[simp] theorem Act.form_trapBy : (Act.trapBy f r).form ↔ ∀ s, memoryForm s → memoryForm (f s) := Iff.rfl
@[simp] theorem Act.form_hold : Act.hold.form := trivial
@[simp] theorem Act.form_park : Act.park.form := trivial
@[simp] theorem Act.form_trap : (Act.trap r).form := trivial
@[simp] theorem Act.form_halt : (Act.halt r).form := trivial

end

/-- The next state of an outcome, where there is one, is in canonical form. -/
def nextForm : Host.Outcome State Fault Refusal → Prop
  | .next s => memoryForm s
  | _ => True

@[simp] theorem nextForm_next (s : State) : nextForm (.next s) ↔ memoryForm s := Iff.rfl

@[simp] theorem Act.form_ite (c : Prop) [Decidable c] (a b : Act) : (if c then a else b).form ↔ if c then a.form else b.form := by
  split <;> rfl

/-! ## Writes at points of coherence -/

@[simp] theorem State.farApply_memoryForm {s : State} (h : memoryForm s) (die t va op c merge) :
    memoryForm (s.farApply die t va op c merge).2 := by
  simp [State.farApply, State.writeNat_memoryForm h]

@[simp] theorem State.amoLane_memoryForm {s : State} (h : memoryForm s) (id a l) : memoryForm (s.amoLane id a l).2 := by
  unfold State.amoLane
  dsimp only
  split
  · exact h
  · split
    · simp [h]
    · simp [h]
    · split <;> simp [h]

@[simp] theorem State.amoLanes_memoryForm (id a) (ls : List AmoLane) :
    ∀ {s : State} (bad : List Nat), memoryForm s → memoryForm (s.amoLanes id a bad ls).2 := by
  induction ls with
  | nil => exact fun _ h => h
  | cons l ls ih =>
    intro s bad h
    simp only [State.amoLanes]
    refine ih _ ?_
    split <;> simp [h]

@[simp] theorem State.sendAmo_memoryForm {s : State} (h : memoryForm s) (id a) : memoryForm (s.sendAmo id a).2 := by
  simp [State.sendAmo, h]

@[simp] theorem State.flushAmos_memoryForm {s : State} (h : memoryForm s) (id) : memoryForm (s.flushAmos id) := by
  refine memoryForm_foldl _ (fun s a hs => ?_) _ _ h
  simp [hs]

@[simp] theorem State.dropResults_memoryForm {s : State} (h : memoryForm s) (id) : memoryForm (s.dropResults id) := by
  have performed : memoryForm ((s.stream id).amos.foldl (fun r a => if (r.stream id).amoBehind a then r else (r.sendAmo id a).2) s) :=
    memoryForm_foldl _ (fun s a hs => by simp [hs]) _ _ h
  simp [State.dropResults, performed]

/-! ## Traps -/

@[simp] theorem State.enterHandler_memoryForm {s : State} (h : memoryForm s) (id r target thnd save) :
    memoryForm (s.enterHandler id r target thnd save) := by
  simp [State.enterHandler, h]

@[simp] theorem State.entry_memoryForm {s : State} (h : memoryForm s) (id r target thnd save) :
    memoryForm (s.entry_ id r target thnd save) := by
  simp [State.entry_, h]

@[simp] theorem State.trapStream_memoryForm {s : State} (h : memoryForm s) (id r) : memoryForm (s.trapStream id r) := by
  unfold State.trapStream
  dsimp only
  split
  · simpa using h
  · split
    · simpa using h
    · split
      · simpa using h
      · split
        · simpa using h
        · split
          · simp [h]
          · split <;> simp [h]

@[simp] theorem State.trapOne_memoryForm {s : State} (h : memoryForm s) (id r) : memoryForm (s.trapOne id r) := by
  simp [State.trapOne, h]

@[simp] theorem State.takeTrap_memoryForm {s : State} (h : memoryForm s) (id r) : memoryForm (s.takeTrap id r) := by
  simp [State.takeTrap, h]

@[simp] theorem State.lateTrap_memoryForm {s : State} (h : memoryForm s) (id r) : memoryForm (s.lateTrap id r) := by
  simp [State.lateTrap, h]

@[simp] theorem State.machineCheck_memoryForm {s : State} (h : memoryForm s) (id adr) : memoryForm (s.machineCheck id adr) := by
  simp [State.machineCheck, h]

@[simp] theorem State.trapHere_memoryForm {s : State} (h : memoryForm s) (r) : memoryForm (s.trapHere r) := by
  simp [State.trapHere, h]

/-! ## The issue -/

/-- Where an instruction's own effect keeps the form, its issue does. -/
theorem State.runAct_memoryForm {s : State} (h : memoryForm s) {u : Info} {c : Ctx} {body : Ctx → State → Act}
    (keeps : ∀ c s, memoryForm s → (body c s).form) : memoryForm (s.runAct u c body) := by
  have act : (if u.lanes && c.ex == 0 then Act.done (((s.countIssue c.iss).popQueues u.uses).pushZeros u.uses)
      else body c ((s.countIssue c.iss).popQueues u.uses)).form := by
    split
    · simp [h]
    · exact keeps _ _ (by simp [h])
  unfold State.runAct
  dsimp only
  split
  all_goals
    next taken =>
      rw [taken] at act
      simp_all

theorem issue_nextForm {u : Info} {body : Ctx → State → Act} (keeps : ∀ c s, memoryForm s → (body c s).form) {s : State}
    (h : memoryForm s) : nextForm (issue u body s) := by
  have run (c) := State.runAct_memoryForm h (u := u) (c := c) keeps
  unfold issue
  dsimp only
  split
  · trivial
  · show memoryForm _
    repeat' split
    all_goals simp [h, run]

/-! ## What instructions share -/

@[simp] theorem Ctx.form_bad (c : Ctx) (code) : (c.bad code).form := trivial
@[simp] theorem Ctx.form_illegal (c : Ctx) : c.illegal.form := trivial
@[simp] theorem Ctx.form_uniformity (c : Ctx) : c.uniformity.form := trivial
@[simp] theorem Ctx.form_trapOf (c : Ctx) (code info adr m) : (c.trapOf code info adr m).form := trivial
@[simp] theorem form_slotTrap (c sc) : (slotTrap c sc).form := trivial

@[simp] theorem form_cmpAct (x k adr m) : (cmpAct x k adr m).form := by simp [cmpAct]

/-- A data comparator that matches traps or halts (R357). -/
theorem State.form_of_dataMatch {s : State} {c ls n rd wr a} (h : s.dataMatch c ls n rd wr = some a) : a.form := by
  unfold State.dataMatch at h
  split at h
  · cases h
  · obtain ⟨k, -, match_⟩ := List.exists_of_findSome?_eq_some h
    dsimp only at match_
    split at match_
    · split at match_ <;> cases match_
      exact form_cmpAct ..
    · cases match_

/-- The checks of an access stop it without a write (R223, R224). -/
theorem State.form_of_checkLine {s : State} {c ln n o modeOk park a} (h : s.checkLine c ln n o modeOk park = .stop a) : a.form := by
  unfold State.checkLine at h
  dsimp only at h
  repeat' split at h
  all_goals cases h
  all_goals simp

section
variable {c : Ctx} {s : State} {go : Act}

theorem form_endFirst {stay} (hgo : go.form) : (endFirst c s stay go).form := by simp [endFirst, hgo]

theorem State.form_lineMatch {l n o rd wr} (hgo : go.form) : (s.lineMatch c l n o rd wr go).form := by
  unfold State.lineMatch
  split
  · exact hgo
  · split
    · next stops => exact State.form_of_dataMatch stops
    · exact hgo

theorem State.form_farMatch {n a} (hgo : go.form) : (s.farMatch c n a go).form := by
  unfold State.farMatch
  split
  · next stops => exact State.form_of_dataMatch stops
  · exact hgo

@[simp] theorem Ctx.form_consume {granule adr} : (c.consume s granule adr).form := by simp [Ctx.consume]

theorem State.form_linePoison {l o} (hgo : go.form) : (s.linePoison c l o go).form := by
  unfold State.linePoison
  dsimp only
  split
  · simp
  · exact hgo

theorem form_farCheck {n a} (hgo : go.form) : (farCheck c n a go).form := by simp [farCheck, hgo]

theorem form_cpyCheck {size a d v} (hgo : go.form) : (cpyCheck c size a d v go).form := by simp [cpyCheck, hgo]

theorem form_extentCheck {size al ext} (hgo : go.form) : (extentCheck c size al ext go).form := by
  unfold extentCheck
  split
  · simp
  · split
    · simp
    · exact hgo

theorem form_readPad {l} (hgo : go.form) : (readPad c s l go).form := by
  unfold readPad
  dsimp only
  split
  · simp
  · split
    · simp
    · split
      · simp
      · exact hgo

theorem form_tblPoison {k} (hgo : go.form) : (tblPoison c s k go).form := by
  unfold tblPoison
  dsimp only
  split
  · exact hgo
  · simp

theorem form_accsFree {accs} (hgo : go.form) : (accsFree c s accs go).form := by simp [accsFree, hgo]

theorem form_departFirst {p sc} (hgo : go.form) : (departFirst c s p sc go).form := by simp [departFirst, hgo]

theorem form_arriveFirst {sc} (hgo : go.form) : (arriveFirst c s sc go).form := by
  simp [arriveFirst, form_departFirst hgo]

theorem form_castCheck {d m} {go : List Nat → Act} (hgo : ∀ ts, (go ts).form) : (castCheck c s d m go).form := by
  unfold castCheck
  dsimp only
  split_ifs
  · simp
  · simp
  · split
    · simp
    · simp [hgo]

theorem form_stageLive {off} {go : StageObj → Act} (hgo : ∀ o, (go o).form) : (stageLive c s off go).form := by
  simp [stageLive, hgo]

theorem form_stageAt {l} {go : Nat → State → Act} (hgo : ∀ n, (go n s).form) : (stageAt c s l go).form := by
  unfold stageAt
  dsimp only
  split
  · next stops => exact State.form_of_checkLine stops
  · exact hgo _

end

section
variable {c : Ctx} {s : State} (h : memoryForm s)
include h

theorem form_releaseFirst {sc start done} {go : State → Act} (hstart : ∀ s, memoryForm s → memoryForm (start s))
    (hgo : ∀ s, memoryForm s → (go s).form) : (releaseFirst c s sc start done go).form := by
  unfold releaseFirst
  dsimp only
  split_ifs
  · intro r hr
    simp [hstart r hr]
  · exact hgo _ (by simpa using h)
  · trivial

theorem form_lsRelease {rel sc} {go : State → Act} (hgo : ∀ s, memoryForm s → (go s).form) : (lsRelease c s rel sc go).form := by
  unfold lsRelease
  split
  · exact hgo s h
  · exact form_releaseFirst h (fun s hs => by simpa using hs) hgo

theorem form_frRelease {rel sc} {go : State → Act} (hgo : ∀ s, memoryForm s → (go s).form) : (frRelease c s rel sc go).form := by
  unfold frRelease
  split
  · exact hgo s h
  · exact form_releaseFirst h (fun s hs => by simpa using hs) hgo

theorem form_joinFirst {go : State → Act} (hgo : ∀ s, memoryForm s → (go s).form) : (joinFirst c s go).form :=
  form_releaseFirst h (fun s hs => by simpa using hs) hgo

theorem form_recallPhase {room start isOver} {go : State → Act} (hstart : ∀ s, memoryForm s → memoryForm (start s))
    (hgo : ∀ s, memoryForm s → (go s).form) : (recallPhase c s room start isOver go).form := by
  unfold recallPhase
  split
  · split
    · exact hgo _ (by simpa using h)
    · trivial
  · split
    · trivial
    · exact fun r hr => by simpa using hstart r hr

theorem form_dmrGate {what data go serve} (hgo : ∀ n s, memoryForm s → (go n s).form) (hserve : ∀ w s, memoryForm s → (serve w s).form) :
    (dmrGate c s what data go serve).form := by
  unfold dmrGate
  dsimp only
  split
  · exact hgo 0 s h
  · split
    · simp
    · split
      · split
        · exact hgo _ _ (by simpa using h)
        · trivial
      · exact hgo 0 s h
  · split
    · simp
    · split
      · trivial
      · exact hserve _ _ (by simpa using h)

theorem form_tensorAt {tid} {go : Tensor → State → Act} (hgo : ∀ e s, memoryForm s → (go e s).form) : (tensorAt c tid s go).form := by
  unfold tensorAt
  dsimp only
  split
  · simp
  · split
    · simp
    · simp
    · split_ifs
      · simp
      · simp
      · simp
      · exact hgo _ _ (by simpa using h)

theorem form_sexpFormat {q} {go : Option NFmt → State → Act} (hgo : ∀ f s, memoryForm s → (go f s).form) :
    (sexpFormat c q s go).form := by
  unfold sexpFormat
  split
  · exact hgo none s h
  · refine form_tensorAt h fun e s hs => ?_
    split
    · simp
    · exact hgo _ s hs

theorem form_stagePut {off o} : (stagePut c s off o).form := by simp [stagePut, h]

theorem State.form_queueOne {d kind sb units bytes spans} : (s.queueOne c d kind sb units bytes spans).form := by
  simp [State.queueOne, h]

theorem form_reloadLines {go : State → Act} (hgo : ∀ s, memoryForm s → (go s).form) : (reloadLines c s go).form := by
  unfold reloadLines
  split
  · exact hgo s h
  · dsimp only
    split
    · exact hgo s h
    · split
      · simp
      · exact hgo _ (by simpa using h)
      · split
        · simp
        · exact hgo _ (by simpa using h)

theorem form_writeState {v} {go : State → Act} (hgo : ∀ s, memoryForm s → (go s).form) : (writeState c s v go).form := by
  unfold writeState
  split
  · exact hgo s h
  · dsimp only
    split
    · simp
    · exact hgo _ (by simpa using h)
    · exact hgo _ (State.putBytes_memoryForm (by simpa using h) _ _ _ _)

theorem State.form_joinSet {d g k} : (s.joinSet c d g k).form := by
  unfold State.joinSet
  dsimp only
  split <;> simp [h]

end

/-! ## Bodies that instructions share -/

/-- What the check of a target answers or notes. -/
def Target.form : Target → Prop
  | .ok s => memoryForm s
  | .wait f | .trap f _ => ∀ s, memoryForm s → memoryForm (f s)

@[simp] theorem Target.form_ok (s : State) : (Target.ok s).form ↔ memoryForm s := Iff.rfl
@[simp] theorem Target.form_wait (f) : (Target.wait f).form ↔ ∀ s, memoryForm s → memoryForm (f s) := Iff.rfl
@[simp] theorem Target.form_trap (f r) : (Target.trap f r).form ↔ ∀ s, memoryForm s → memoryForm (f s) := Iff.rfl

section
variable {c : Ctx} {s : State} (h : memoryForm s)
include h

theorem form_storeBody {op multi size rel scope l b modeOk} : (storeBody op multi size rel scope l b modeOk c s).form := by
  unfold storeBody
  dsimp only
  split
  · next stops => exact State.form_of_checkLine stops
  · refine State.form_lineMatch ?_
    split
    · trivial
    · refine form_lsRelease h fun s hs => ?_
      split <;> simp [hs]

theorem form_redBody {code op rel scope a b merge} : (redBody code op rel scope a b merge c s).form := by
  unfold redBody
  refine form_farCheck (State.form_farMatch ?_)
  dsimp only
  split
  · trivial
  · refine form_frRelease h fun s hs => ?_
    split <;> simp [hs]

theorem State.form_checkTarget {id pc m} : (s.checkTarget id pc m).form := by
  unfold State.checkTarget
  split
  · split <;> simp [h]
  · dsimp only
    split
    · simp
    · simp
    · split_ifs <;> simp [h]

/-- The targets of a transfer are only read (R42). -/
theorem State.form_checkTargets {m f} {go : State → Act} (hgo : ∀ s, memoryForm s → (go s).form) (ls : List Nat) :
    (s.checkTargets c m f go ls).form := by
  induction ls generalizing s with
  | nil => exact hgo s h
  | cons i ls ih =>
    simp only [State.checkTargets]
    split
    · exact ih h
    · have checked := s.form_checkTarget h (id := c.id) (pc := f i) (m := m)
      split
      · next found => exact ih (by rwa [found] at checked)
      · next found => rwa [found] at checked
      · next found => rwa [found] at checked

theorem form_branch {u f link} (hlink : ∀ s, memoryForm (link s) ↔ memoryForm s) : (branch c u s f link).form := by
  unfold branch
  dsimp only
  split_ifs
  · simp
  · exact h
  · split
    · simp
    · exact State.form_checkTargets h (fun s hs => by simpa using (hlink s).2 hs) _

theorem form_mmaIssue {k o} : (mmaIssue k o c s).form := by
  unfold mmaIssue
  split
  · simp
  · refine form_tensorAt h fun ea s hs => form_tensorAt hs fun eb s hs => ?_
    dsimp only
    split
    · simp
    · simp [form_readPad, hs]

@[simp] theorem State.settleSet_memoryForm {id k} : memoryForm (s.settleSet id k) := by
  unfold State.settleSet
  dsimp only
  split
  · exact h
  · next o operation =>
    split
    · exact h
    · have issued := form_mmaIssue h (c := ⟨id, k.slot, (s.stream id).heldFor (.mma k.cv), (s.stream id).heldFor (.mma k.cv)⟩)
        (k := k) (o := o)
      split
      · next found => rw [found] at issued; simpa using issued
      · next found => rw [found] at issued; exact issued s h
      · simp [h]
      · next found => rw [found] at issued; exact State.takeTrap_memoryForm (by simpa using issued) ..
      · next found => rw [found] at issued; exact State.takeTrap_memoryForm (by simpa using issued s h) ..
      · exact h

theorem form_signMma {i cv b cr} : (signMma i cv b cr c s).form := by
  simp [signMma, h]

end

@[simp] theorem State.settleSets_memoryForm {s : State} (h : memoryForm s) : memoryForm s.settleSets := by
  refine memoryForm_foldl _ (fun s p hs => ?_) _ _ h
  split
  · exact hs
  · refine memoryForm_foldl _ (fun s q hs => ?_) _ _ hs
    split
    · exact hs
    · exact memoryForm_foldl _ (fun s k hs => State.settleSet_memoryForm hs) _ _ hs

@[simp] theorem State.settleAll_memoryForm {s : State} (h : memoryForm s) : memoryForm s.settleAll := by
  simp [State.settleAll, h]

/-! ## Clusters, gates and key-value pages -/

@[simp] theorem State.dropCred_memoryForm {s : State} (h : memoryForm s) (t grp) : memoryForm (s.dropCred t grp) := by
  unfold State.dropCred
  split <;> simp [h]

@[simp] theorem State.endCreds_memoryForm {s : State} (h : memoryForm s) (t cl m) : memoryForm (s.endCreds t cl m) := by
  unfold State.endCreds
  dsimp only
  refine memoryForm_foldl _ (fun s g hs => ?_) _ _ (memoryForm_foldl _ (fun s r hs => ?_) _ _ (by simpa using h))
  · split
    · exact hs
    · simp [hs]
  · exact memoryForm_foldl _ (fun s u hs => by simp [hs]) _ _ hs

@[simp] theorem State.leaveCluster_memoryForm {s : State} (h : memoryForm s) (t) : memoryForm (s.leaveCluster t) := by
  unfold State.leaveCluster
  split <;> simp [h]

@[simp] theorem State.settleGroup_memoryForm {s : State} (h : memoryForm s) (t g) : memoryForm (s.settleGroup t g) :=
  memoryForm_foldl _ (fun s x hs => by simp [hs]) _ _ h

@[simp] theorem State.enterGate_memoryForm {s : State} (h : memoryForm s) (c d n) : memoryForm (s.enterGate c d n) := by
  simp [State.enterGate, h]

@[simp] theorem State.leaveGate_memoryForm {s : State} (h : memoryForm s) (t g back) : memoryForm (s.leaveGate t g back) := by
  unfold State.leaveGate
  split <;> simp [h]

@[simp] theorem State.putPe_memoryForm {s : State} (h : memoryForm s) (pe p w rc) : memoryForm (s.putPe pe p w rc) := by
  simp [State.putPe, State.writeNat_memoryForm h]

@[simp] theorem State.putL1_memoryForm {s : State} (h : memoryForm s) (l1 x) : memoryForm (s.putL1 l1 x) := by
  simp [State.putL1, State.writeNat_memoryForm h]

section
variable {s : State} (h : memoryForm s)
include h

theorem State.kvMapOp_memoryForm (root d a b) : memoryForm (s.kvMapOp root d a b).2 := by
  unfold State.kvMapOp
  split
  · exact h
  · split
    all_goals
      dsimp only
      repeat' split
    all_goals simp [h]

theorem State.kvSource_memoryForm {d a go} (hgo : ∀ l1 pe s, memoryForm s → memoryForm (go l1 pe s).2) :
    memoryForm (s.kvSource d a go).2 := by
  unfold State.kvSource
  split
  · exact h
  · exact h
  · dsimp only
    split_ifs
    · exact h
    · exact h
    · exact hgo _ _ s h

theorem State.kvForkOp_memoryForm (d a b) : memoryForm (s.kvForkOp d a b).2 := by
  refine State.kvSource_memoryForm h fun l1 pe s hs => ?_
  dsimp only
  split
  · exact hs
  · split
    · exact hs
    · exact hs
    · split_ifs <;> simp [hs]

theorem State.kvDropOp_memoryForm (root d a) : memoryForm (s.kvDropOp root d a).2 := by
  refine State.kvSource_memoryForm h fun l1 pe s hs => ?_
  dsimp only
  split <;> simp [hs]

theorem State.kvLane_memoryForm (o root a b) : memoryForm (s.kvLane o root a b).2 := by
  unfold State.kvLane
  split
  · exact h
  · split
    · exact h
    · dsimp only
      split
      · exact h
      · cases o
        · exact State.kvMapOp_memoryForm h ..
        · exact State.kvForkOp_memoryForm h ..
        · exact State.kvDropOp_memoryForm h ..

end

@[simp] theorem State.kvLanes_memoryForm (o root) (ls : List (Nat × DWord × DWord)) :
    ∀ {s : State}, memoryForm s → memoryForm (s.kvLanes o root ls).2 := by
  induction ls with
  | nil => exact fun h => h
  | cons l ls ih => exact fun h => ih (by simpa using State.kvLane_memoryForm h ..)

theorem form_kvBody {o la d a b c} {s : State} (h : memoryForm s) : (kvBody o la d a b c s).form := by
  unfold kvBody
  refine form_releaseFirst h (fun s hs => by simpa using hs) fun s hs => form_dmrGate hs (fun n s hs => ?_) fun w s hs => ?_
  · split
    · simp
    · simpa [State.fresh] using hs
    · dsimp only
      split
      · trivial
      · simpa [State.fresh] using State.kvLanes_memoryForm _ _ _ hs
  · simpa using hs

end Sys2Proof.Machine

end

section
/-!
PROOF. Instructions keep the canonical form (O60), where their effect is more than one change of registers.
-/

namespace Sys2Proof.Machine

/-! ## Instructions whose effect goes through checks, waits and gates -/

section
variable {s : State} (h : memoryForm s)
include h

/-! ### Lines and words of memory (14, 15) -/

theorem execLd_nextForm {g la size acq scope d l} : nextForm (execLd g la size acq scope d l s) := by
  refine issue_nextForm (fun c s h => ?_) h
  dsimp only
  split
  · next stops => exact State.form_of_checkLine stops
  · refine State.form_lineMatch ?_
    split
    · trivial
    · next t found =>
      have kept : memoryForm t := by
        split at found
        · exact (State.memoryForm_of_refreshLine found).2 h
        · cases found; exact h
      refine State.form_linePoison ?_
      split <;> simp [kept]

theorem execSt_nextForm {g size rel scope l b} : nextForm (execSt g size rel scope l b s) :=
  issue_nextForm (fun _ _ h => form_storeBody h) h

theorem execMst_nextForm {g size rel scope l b} : nextForm (execMst g size rel scope l b s) :=
  issue_nextForm (fun _ _ h => form_storeBody h) h

theorem execAmo_nextForm {g la op sem scope d a b} : nextForm (execAmo g la op sem scope d a b s) := by
  refine issue_nextForm (fun c s h => form_farCheck (State.form_farMatch ?_)) h
  dsimp only
  split
  · simp
  · refine form_frRelease h fun s hs => form_dmrGate hs (fun n s hs => ?_) fun w s hs => ?_
    · split <;> simp [hs]
    · simpa using hs

theorem execRed_nextForm {g op rel scope a b} : nextForm (execRed g op rel scope a b s) :=
  issue_nextForm (fun _ _ h => form_redBody h) h

theorem execScat_nextForm {g op rel scope a b} : nextForm (execScat g op rel scope a b s) :=
  issue_nextForm (fun _ _ h => form_redBody h) h

theorem execLlk_nextForm {g la wide d l} : nextForm (execLlk g la wide d l s) := by
  refine issue_nextForm (fun c s h => ?_) h
  dsimp only
  split
  · next stops => exact State.form_of_checkLine stops
  · split
    · simp
    · split
      · split <;> simp [h]
      · refine State.form_linePoison ?_
        split <;> simp [h]

theorem execSul_nextForm {g wide l b} : nextForm (execSul g wide l b s) := by
  refine issue_nextForm (fun c s h => ?_) h
  dsimp only
  split
  · next stops => exact State.form_of_checkLine stops
  · split <;> simp [h]

theorem execCmcast_nextForm {g at_ l b} : nextForm (execCmcast g at_ l b s) := by
  refine issue_nextForm (fun c s h => ?_) h
  dsimp only
  split
  · next stops => exact State.form_of_checkLine stops
  · refine form_castCheck fun ts => ?_
    simp [h]

/-- An attempt looks at the line again, and where no refresh is possible at the line as it is. -/
theorem State.refreshLine_getD_memoryForm {t g l} : memoryForm ((s.refreshLine t g l).getD s) := by
  cases found : s.refreshLine t g l with
  | none => exact h
  | some r => exact (State.memoryForm_of_refreshLine found).2 h

theorem execPoll_nextForm {g cmp acq scope d l b} : nextForm (execPoll g cmp acq scope d l b s) := by
  refine issue_nextForm (fun c s h => ?_) h
  dsimp only
  split
  · next stops => exact State.form_of_checkLine stops
  · refine State.form_lineMatch (State.form_linePoison ?_)
    split_ifs <;> simp +contextual [h, State.refreshLine_getD_memoryForm]

theorem execLwait_nextForm {g d ln b} : nextForm (execLwait g d ln b s) := by
  refine issue_nextForm (fun c s h => ?_) h
  dsimp only
  split
  · next stops => exact State.form_of_checkLine stops
  · split <;> simp [h]

/-! ### Tiles and tensors (09, 10, 11) -/

theorem execMma_nextForm {g la r cv d a b cr tid} : nextForm (execMma g la r cv d a b cr tid s) :=
  issue_nextForm (fun _ _ h => form_signMma h) h

theorem execMmas_nextForm {g la r cv n d a b cr tid} : nextForm (execMmas g la r cv n d a b cr tid s) :=
  issue_nextForm (fun _ _ h => form_signMma h) h

theorem execMaccZero_nextForm {g la d} : nextForm (execMaccZero g la d s) :=
  issue_nextForm (fun _ _ h => form_accsFree (by simpa using h)) h

theorem execMaccInit_nextForm {g la d} : nextForm (execMaccInit g la d s) :=
  issue_nextForm (fun _ _ h => form_accsFree (by simpa using h)) h

theorem execMaccMov_nextForm {g la d a} : nextForm (execMaccMov g la d a s) :=
  issue_nextForm (fun _ _ h => form_accsFree (by simpa using h)) h

theorem execMaccRd_nextForm {g la d a b} : nextForm (execMaccRd g la d a b s) :=
  issue_nextForm (fun _ _ h => form_accsFree (by simpa using h)) h

theorem execMaccWr_nextForm {g la d a b} : nextForm (execMaccWr g la d a b s) :=
  issue_nextForm (fun _ _ h => form_accsFree (by simpa using h)) h

theorem execMaccRdst_nextForm {g la d a} : nextForm (execMaccRdst g la d a s) :=
  issue_nextForm (fun _ _ h => form_accsFree (by simpa using h)) h

theorem execMaccWrst_nextForm {g la d a} : nextForm (execMaccWrst g la d a s) :=
  issue_nextForm (fun _ _ h => form_accsFree (by simpa using h)) h

theorem execSmax_nextForm {g la d a} : nextForm (execSmax g la d a s) :=
  issue_nextForm (fun _ _ h => form_accsFree (by simpa using h)) h

theorem execSexp_nextForm {g la q d a} : nextForm (execSexp g la q d a s) :=
  issue_nextForm (fun _ _ h => form_sexpFormat h fun _ _ hs => form_accsFree (by simpa using hs)) h

theorem execSmerge_nextForm {g la d a} : nextForm (execSmerge g la d a s) :=
  issue_nextForm (fun _ _ h => form_accsFree (by simpa using h)) h

theorem execQnt_nextForm {g clamp rm d a b tid} : nextForm (execQnt g clamp rm d a b tid s) :=
  issue_nextForm (fun _ _ h => form_tensorAt h fun _ _ hs => by dsimp only; split_ifs <;> simp [hs]) h

theorem execDqnt_nextForm {g d a b tid} : nextForm (execDqnt g d a b tid s) :=
  issue_nextForm (fun _ _ h => form_tensorAt h fun _ _ hs => by simp [hs]) h

theorem execBscale_nextForm {g d a b tid} : nextForm (execBscale g d a b tid s) :=
  issue_nextForm (fun _ _ h => form_tensorAt h fun _ _ hs => by simp [hs]) h

theorem execCvtf_nextForm {g from_ rm d a tid} : nextForm (execCvtf g from_ rm d a tid s) :=
  issue_nextForm (fun _ _ h => form_tensorAt h fun _ _ hs => by dsimp only; split_ifs <;> simp [hs]) h

theorem execSmooth_nextForm {g d a b tid} : nextForm (execSmooth g d a b tid s) := by
  refine issue_nextForm (fun c s h => form_tensorAt h fun e s hs => ?_) h
  split
  · simp
  · refine form_tensorAt hs fun v s hs => ?_
    split
    · simp
    · split
      · simp
      · exact form_readPad (by simpa using hs)

theorem execTblev_nextForm {g la d a b e} : nextForm (execTblev g la d a b e s) :=
  issue_nextForm (fun _ _ h => form_tblPoison (by simpa using h)) h

/-! ### Clusters, stage objects, fences and barriers (15) -/

theorem execCred_nextForm {g la d} : nextForm (execCred g la d s) := by
  refine issue_nextForm (fun c s h => form_accsFree ?_) h
  split
  · simp
  · split_ifs <;> simp [h, State.fresh]

theorem execCjoin_nextForm {g d a b} : nextForm (execCjoin g d a b s) := by
  refine issue_nextForm (fun c s h => ?_) h
  dsimp only
  split
  · simp
  · split
    · split_ifs <;> simp [h]
    · split
      · split
        · simp
        · refine form_joinFirst h fun s hs => ?_
          split <;> simp [hs]
      · exact form_joinFirst h fun s hs => by simp

theorem execCleave_nextForm {g} : nextForm (execCleave g s) := by
  refine issue_nextForm (fun c s h => ?_) h
  dsimp only
  generalize (s.team c.id.team).st.groups.any _ = pending
  split
  · exact h
  · split
    · simp
    · split
      · simp
      · refine form_releaseFirst h (fun s hs => by simpa using hs) fun s hs => ?_
        split <;> simp [hs]

theorem execSbinit_nextForm {g l b} : nextForm (execSbinit g l b s) := by
  refine issue_nextForm (fun c s h => form_stageAt fun n => ?_) h
  dsimp only
  split
  · simp
  · exact form_stagePut h

theorem execSbexp_nextForm {g l b} : nextForm (execSbexp g l b s) :=
  issue_nextForm (fun _ _ h => form_stageAt fun _ => form_stageLive fun _ => form_stagePut h) h

theorem execSbarv_nextForm {g l b} : nextForm (execSbarv g l b s) :=
  issue_nextForm (fun _ _ h => form_stageAt fun _ => form_stageLive fun _ => form_stagePut h) h

theorem execSbwait_nextForm {g d l b} : nextForm (execSbwait g d l b s) :=
  issue_nextForm (fun _ _ h => form_stageAt fun _ => form_stageLive fun _ => by split_ifs <;> simp [h]) h

theorem execFence_nextForm {g sem path scope} : nextForm (execFence g sem path scope s) := by
  refine issue_nextForm (fun c s h => ?_) h
  dsimp only
  split
  · simp [h]
  · exact form_departFirst (by simpa using h)

theorem execXfence_nextForm {g pa pb scope} : nextForm (execXfence g pa pb scope s) :=
  issue_nextForm (fun _ _ h => form_departFirst (by simpa using h)) h

theorem execAfence_nextForm {g} : nextForm (execAfence g s) :=
  issue_nextForm (fun _ _ h => form_departFirst (by simpa using h)) h

theorem execBar_nextForm {g sc} : nextForm (execBar g sc s) := by
  refine issue_nextForm (fun c s h => ?_) h
  dsimp only
  split
  · exact form_arriveFirst (by simpa using h)
  · split <;> simp
  · split_ifs <;> simp [h]

theorem execBara_nextForm {g op sc a} : nextForm (execBara g op sc a s) := by
  refine issue_nextForm (fun c s h => ?_) h
  split
  · exact form_arriveFirst (by simpa using h)
  · simp

/-! ### Control flow and system instructions (07, 08, 20) -/

theorem execPmov_nextForm {g form} : nextForm (execPmov g form s) := by
  cases form <;> exact issue_nextForm (fun _ _ h => by simp [h]) h

theorem execBra_nextForm {g u slot toff} : nextForm (execBra g u slot toff s) :=
  issue_nextForm (fun _ _ h => form_branch h fun _ => Iff.rfl) h

theorem execBrx_nextForm {g u a} : nextForm (execBrx g u a s) :=
  issue_nextForm (fun _ _ h => form_branch h fun _ => Iff.rfl) h

theorem execCall_nextForm {g u d slot toff} : nextForm (execCall g u d slot toff s) :=
  issue_nextForm (fun _ _ h => form_branch h fun s => s.memoryForm_setPair ..) h

theorem execRet_nextForm {g u a} : nextForm (execRet g u a s) :=
  issue_nextForm (fun _ _ h => form_branch h fun _ => Iff.rfl) h

theorem execExit_nextForm {g} : nextForm (execExit g s) :=
  issue_nextForm (fun _ _ h => form_endFirst (by simpa using h)) h

theorem execTdone_nextForm {g a} : nextForm (execTdone g a s) :=
  issue_nextForm (fun _ _ h => form_endFirst (by simpa using h)) h

theorem execSetsrAmask_nextForm {g a} : nextForm (execSetsrAmask g a s) := by
  refine issue_nextForm (fun c s h => ?_) h
  dsimp only
  split
  · simpa using h
  · exact form_endFirst (by simpa using h)

theorem execSetsrLpc_nextForm {g a} : nextForm (execSetsrLpc g a s) := by
  refine issue_nextForm (fun c s h => ?_) h
  dsimp only
  split
  · simp
  · split
    · simpa using h
    · exact State.form_checkTargets h (fun s hs => by simpa using hs) _

theorem execRegrp_nextForm {g d a b} : nextForm (execRegrp g d a b s) := by
  refine issue_nextForm (fun c s h => ?_) h
  dsimp only
  split
  · simp
  · simp [State.form_joinSet h]

theorem execGcond_nextForm {g op num a} : nextForm (execGcond g op num a s) := by
  refine issue_nextForm (fun c s h => ?_) h
  split <;> simp [h]

theorem execGsig_nextForm {g num} : nextForm (execGsig g num s) := by
  refine issue_nextForm (fun c s h => ?_) h
  split
  · simp
  · split
    · simp
    · exact form_releaseFirst h (fun s hs => by simpa using hs) fun s hs => by simpa using hs

theorem execGcall_nextForm {g d num} : nextForm (execGcall g d num s) := by
  refine issue_nextForm (fun c s h => ?_) h
  split
  · simp
  · split
    · exact h
    · split
      · simp [h]
      · split
        · exact fun s hs => by simpa using hs
        · simp [h]

theorem execGret_nextForm {g a} : nextForm (execGret g a s) := by
  refine issue_nextForm (fun c s h => ?_) h
  dsimp only
  split_ifs
  · simp
  · simpa using h
  · simp
  · exact fun s hs => by simpa using hs
  · simp [h]

theorem execKvmap_nextForm {g la d a b} : nextForm (execKvmap g la d a b s) := issue_nextForm (fun _ _ h => form_kvBody h) h
theorem execKvfork_nextForm {g la d a b} : nextForm (execKvfork g la d a b s) := issue_nextForm (fun _ _ h => form_kvBody h) h
theorem execKvdrop_nextForm {g la d a} : nextForm (execKvdrop g la d a s) := issue_nextForm (fun _ _ h => form_kvBody h) h

theorem execTlbinv_nextForm {g f} : nextForm (execTlbinv g f s) := by
  refine issue_nextForm (fun c s h => ?_) h
  split
  · simp
  · dsimp only
    split
    · exact form_recallPhase h (fun s hs => by simpa using hs) fun s hs => by simpa using hs
    · exact form_releaseFirst h (fun s hs => by simpa using hs) fun s hs =>
        form_recallPhase hs (fun s hs => by simpa using hs) fun s hs => by simpa using hs

theorem execRecall_nextForm {g f} : nextForm (execRecall g f s) :=
  issue_nextForm (fun _ _ h => form_recallPhase h (go := .done) (fun s hs => by simpa using hs) fun _ hs => hs) h

theorem execEret_nextForm {g r} : nextForm (execEret g r s) := by
  refine issue_nextForm (fun c s h => ?_) h
  dsimp only
  split_ifs
  · simp
  · simpa using h
  · exact form_endFirst (by simpa using h)
  · simp
  · exact form_reloadLines h fun s hs => by simpa using hs
  · simp
  · exact form_reloadLines h fun s hs => form_writeState hs fun s hs => by simpa using hs

theorem execHalt_nextForm {g} : nextForm (execHalt g s) := by
  refine issue_nextForm (fun c s h => ?_) h
  dsimp only
  generalize ([false, true].any _) = waits
  split_ifs <;> simp [h]

/-! ### Commands (17, 18) -/

theorem execCpy_nextForm {g toGlobal tag a b e} : nextForm (execCpy g toGlobal tag a b e s) := by
  refine issue_nextForm (fun c s h => form_cpyCheck ?_) h
  split
  · simp
  · split
    · simp
    · simp [h]

/-- What a request's missing entries ask for leaves both memories. -/
theorem State.askKick_form {c recs} :
    (∀ f, (s.askKick c recs).1 = some f → ∀ r, memoryForm r → memoryForm (f r)) ∧ memoryForm (s.askKick c recs).2 := by
  unfold State.askKick
  dsimp only
  split
  · exact ⟨fun _ hf => (by cases hf), by simpa using h⟩
  · refine ⟨fun f hf r hr => ?_, h⟩
    cases hf
    simpa using hr

theorem execKick_nextForm {g d a e} : nextForm (execKick g d a e s) := by
  refine issue_nextForm (fun c s h => ?_) h
  dsimp only
  generalize (List.range _).map _ = recs
  cases recs.findIdx? _ with
  | some k =>
    simp [h]
  | none =>
    obtain ⟨asks, kept⟩ := State.askKick_form h (c := c) (recs := recs)
    generalize s.askKick c recs = r at asks kept ⊢
    obtain ⟨_ | f, t⟩ := r
    · simp_all
    · simp_all

theorem execGthr_nextForm {g d a b e tid} : nextForm (execGthr g d a b e tid s) := by
  refine issue_nextForm (fun c s h => ?_) h
  dsimp only
  split
  · exact h
  · refine form_tensorAt h fun t s hs => ?_
    split
    · simp
    · exact form_extentCheck (State.form_queueOne hs)

theorem execEmb_nextForm {g d a tid} : nextForm (execEmb g d a tid s) := by
  refine issue_nextForm (fun c s h => form_tensorAt h fun t s hs => ?_) h
  dsimp only
  split
  · simp
  · refine form_extentCheck ?_
    split
    · simp
    · split
      · simp
      · exact form_extentCheck (State.form_queueOne hs)

theorem execKvfill_nextForm {g d a b e tid} : nextForm (execKvfill g d a b e tid s) := by
  refine issue_nextForm (fun c s h => form_tensorAt h fun t s hs => ?_) h
  dsimp only
  split_ifs
  · simp
  · simp
  · split
    · simp
    · split
      · simp
      · exact form_extentCheck (State.form_queueOne hs)

end

section
variable {s : State} (h : memoryForm s)
include h

/-! ### Instructions whose effect has cases of its own -/

theorem execOpenReopen_nextForm {g ln} : nextForm (execOpenReopen g ln s) := by
  refine issue_nextForm (fun c s h => ?_) h
  dsimp only
  split <;> simp [h]

theorem execMovsr_nextForm {g d r} : nextForm (execMovsr g d r s) := by
  refine issue_nextForm (fun c s h => ?_) h
  split
  · simp
  · dsimp only
    split
    · split
      · simp
      · split <;> simp [h]
    · split <;> simp [h]

theorem execDmrbeg_nextForm {g d} : nextForm (execDmrbeg g d s) := by
  refine issue_nextForm (fun c s h => ?_) h
  dsimp only
  split_ifs
  · simp
  · exact h
  · simp
  · simp [h]
  · split <;> simp [h]

theorem execDmrend_nextForm {g} : nextForm (execDmrend g s) := by
  refine issue_nextForm (fun c s h => ?_) h
  dsimp only
  split
  · simp
  · split
    · exact h
    · split
      · split
        · exact fun s hs => by simpa using hs
        · split <;> simp [h]
      · split <;> simp +contextual
      · simp [h]

theorem execBarw_nextForm {g sc d} : nextForm (execBarw g sc d s) := by
  refine issue_nextForm (fun c s h => ?_) h
  split
  · simp
  · simp
  · dsimp only
    split <;> simp [h]

theorem execVote_nextForm {g form a} : nextForm (execVote g form a s) := by
  refine issue_nextForm (fun c s h => ?_) h
  cases form <;> simp [h]

end

end Sys2Proof.Machine

end

section
/-!
PROOF. Engines keep the canonical form (O60): what the service of a unit comes to, through each reading and its continuation.
-/

namespace Sys2Proof.Machine

/-! ## Engines: what the service of a unit reads (17 R251-R267) -/

/-- The state that the service of a unit leaves is in canonical form. -/
def Serve.form : Serve → Prop
  | .wait s _ | .fail _ _ s | .out _ s => memoryForm s

@[simp] theorem Serve.form_wait (s : State) (susp) : (Serve.wait s susp).form ↔ memoryForm s := Iff.rfl
@[simp] theorem Serve.form_fail (code adr) (s : State) : (Serve.fail code adr s).form ↔ memoryForm s := Iff.rfl
@[simp] theorem Serve.form_out (o) (s : State) : (Serve.out o s).form ↔ memoryForm s := Iff.rfl

section
variable {c : CoreId} {k : Cmd} {s : State} (h : memoryForm s)
include h

theorem form_engGlobal {host va n} {go : (Nat → Byte) → (Nat → Bool) → State → Serve}
    (hgo : ∀ b po s, memoryForm s → (go b po s).form) : (engGlobal c k host va n s go).form := by
  unfold engGlobal
  split
  · exact hgo _ _ s h
  · split
    · exact h
    · have kept := (s.memoryForm_translateSpan c .engRead k.asid va n 0 k.grp (BitVec.ofNat 32 k.ticket) k.who).2 h
      split
      · next found => rwa [found] at kept
      · next found => rwa [found] at kept
      · next found =>
        rw [found] at kept
        split
        · exact kept
        · exact hgo _ _ _ kept

theorem form_engPad {off n} {go : (Nat → Byte) → (Nat → Bool) → State → Serve} (hgo : ∀ b po s, memoryForm s → (go b po s).form) :
    (engPad k off n s go).form := by
  unfold engPad
  split
  · exact h
  · exact hgo _ _ s h

theorem form_engRead {host space a n} {go : (Nat → Byte) → (Nat → Bool) → State → Serve}
    (hgo : ∀ b po s, memoryForm s → (go b po s).form) : (engRead c k host space a n s go).form := by
  unfold engRead
  split
  · exact form_engPad h hgo
  · exact form_engGlobal h hgo

theorem form_engWriteOk {host va n} {go : State → Serve} (hgo : ∀ s, memoryForm s → (go s).form) :
    (engWriteOk c k host va n s go).form := by
  unfold engWriteOk
  split
  · exact hgo s h
  · split
    · exact h
    · have kept := (s.memoryForm_translateSpan c .engWrite k.asid va n 0 k.grp (BitVec.ofNat 32 k.ticket) k.who).2 h
      split
      · next found => rwa [found] at kept
      · next found => rwa [found] at kept
      · next found =>
        rw [found] at kept
        split
        · exact kept
        · exact hgo _ kept

theorem form_engTensor {tid} {go : Tensor → State → Serve} (hgo : ∀ e s, memoryForm s → (go e s).form) :
    (engTensor c k tid s go).form := by
  unfold engTensor
  split
  · exact h
  · refine form_engGlobal h fun b po s hs => ?_
    dsimp only
    split
    · exact hs
    · exact hgo _ s hs

theorem form_engElems {e go} (hgo : ∀ r s, memoryForm s → (go r s).form) (l : List (Nat × Nat)) : (engElems c k e s go l).form := by
  induction l generalizing s go with
  | nil => exact hgo [] s h
  | cons p l ih =>
    refine form_engRead h fun b po s hs => ?_
    dsimp only
    split
    · exact ih hs fun r s hs => hgo _ s hs
    · exact form_engRead hs fun b po s hs => ih hs fun r s hs => hgo _ s hs

theorem form_outOk {o} {go : State → Serve} (hgo : ∀ s, memoryForm s → (go s).form) (l : List Nat) :
    (outOk c k o s go l).form := by
  induction l generalizing s with
  | nil =>
    unfold outOk
    split
    · exact h
    · exact hgo s h
  | cons a l ih => exact form_engWriteOk h fun s hs => ih hs

theorem form_withTile {stid dtid go} (hgo : ∀ e d v s, memoryForm s → (go e d v s).form) : (withTile c k stid dtid s go).form := by
  refine form_engTensor h fun e s hs => form_engTensor hs fun d s hs => ?_
  split
  · exact hgo _ _ _ s hs
  · refine form_engTensor hs fun v s hs => ?_
    split
    · exact hgo _ _ _ s hs
    · exact hs

/-! ### The units of each command -/

theorem form_serveTile {e d v sr0 sc0 dr0 dc0 nr nc u} : (serveTile c k e d v sr0 sc0 dr0 dc0 nr nc u s).form := by
  refine form_engElems h (fun xs s hs => ?_) _
  split
  · exact form_outOk hs (go := .out _) (fun s hs => hs) _
  · exact form_engElems hs (fun ws s hs => form_outOk hs (go := .out _) (fun s hs => hs) _) _

theorem form_serveGather {x y n e j} : (serveGather c k x y n e j s).form := by
  unfold serveGather
  dsimp only
  split
  · exact h
  · refine form_engRead h fun f po s hs => ?_
    split
    · exact hs
    · exact form_engRead hs fun g pg s hs => hs

theorem form_bagRows {e desc hot rows go} (hgo : ∀ r s, memoryForm s → (go r s).form) (l : List (Nat × Bool)) :
    (bagRows c k e desc hot rows s go l).form := by
  induction l generalizing s go with
  | nil => exact hgo _ s h
  | cons p l ih =>
    unfold bagRows
    dsimp only
    split
    · exact form_engElems h (fun xs s hs => ih hs fun r s hs => hgo _ s hs) _
    · split
      · exact ih h fun r s hs => hgo _ s hs
      · exact ih h fun r s hs => hgo _ s hs

theorem form_serveBag {e desc idx bag hot rows b} : (serveBag c k e desc idx bag hot rows b s).form := by
  refine form_bagRows h (fun rs s hs => ?_) _
  split <;> exact hs

theorem form_serveFill {seq layer head kv t0 y desc u} : (serveFill c k seq layer head kv t0 y desc u s).form := by
  unfold serveFill
  split
  · exact h
  · next d _ =>
    have kept := (s.memoryForm_kvTranslate c .kvFill k.asid k.kvroot (kvCoord seq layer head kv (t0 + u) 0) 0 k.grp
      (BitVec.ofNat 32 k.ticket) k.who).2 h
    dsimp only
    generalize s.kvTranslate c .kvFill k.asid k.kvroot (kvCoord seq layer head kv (t0 + u) 0) 0 k.grp (BitVec.ofNat 32 k.ticket) k.who
      = r at kept
    obtain ⟨answer, t⟩ := r
    split
    · exact h
    · cases answer <;> exact kept
    · split
      · exact h
      · cases answer <;> exact kept

theorem form_serveUnit {u} : (serveUnit c k u s).form := by
  unfold serveUnit
  split
  · split
    · exact form_engGlobal h fun _ _ s hs => hs
    · exact h
  · split
    · exact form_engWriteOk h fun s hs => hs
    · exact h
  · refine form_engRead h fun f po s hs => ?_
    dsimp only
    split
    · exact hs
    · exact form_engWriteOk hs fun s hs => hs
  · exact form_withTile h fun e d v s hs => form_serveTile hs
  · exact form_engRead h fun _ _ s hs => hs
  · exact form_serveGather h
  · exact form_serveBag h
  · exact form_serveFill h

theorem form_tileStart {stid dtid sr0 sc0 dr0 dc0 nr nc} : (tileStart c k stid dtid sr0 sc0 dr0 dc0 nr nc s).form := by
  refine form_withTile h fun e d v s hs => ?_
  dsimp only
  split
  · exact hs
  · simpa using hs

theorem form_embGather {t desc remote go} (hgo : ∀ r s, memoryForm s → (go r s).form) (l : List Nat) :
    (embGather c k t desc remote s go l).form := by
  induction l generalizing s go with
  | nil => exact hgo _ s h
  | cons r l ih =>
    unfold embGather
    dsimp only
    split
    · split
      · exact ih h fun r s hs => hgo _ s hs
      · exact h
    · split
      · exact ih h fun r s hs => hgo _ s hs
      · exact form_engElems h (fun xs s hs => ih hs fun r s hs => hgo _ s hs) _

@[simp] theorem State.startServe_memoryForm {r : Serve} (hr : r.form) : memoryForm (s.startServe c k r) := by
  unfold State.startServe
  split
  · simpa using hr
  · simpa using hr
  · split
    · simpa using hr
    · exact h

/-! ### The steps of the engines -/

theorem execCommandServiceStart_nextForm {id} : nextForm (execCommandServiceStart c id s) := by
  unfold execCommandServiceStart
  rw [nextForm_next]
  split
  · exact h
  · split
    · exact h
    · split
      · simpa using h
      · next k _ _ _ =>
        dsimp only
        generalize grant : State.modCmd (if k.stopped.isEmpty then s.modCore c _ else s) c id _ = t
        have granted : memoryForm t := by simp [← grant, h]
        split
        · exact State.startServe_memoryForm granted (form_tileStart granted)
        · exact State.startServe_memoryForm granted (by split <;> exact granted)
        · exact State.startServe_memoryForm granted (by split <;> exact granted)
        · simpa using granted
        · exact State.startServe_memoryForm granted granted

theorem execEngineUnitLands_nextForm {id lane unit} : nextForm (execEngineUnitLands c id lane unit s) := by
  unfold execEngineUnitLands
  dsimp only
  rw [nextForm_next]
  split
  · exact h
  · next k _ =>
    split
    · exact h
    · split
      · exact h
      · have served := form_serveUnit h (c := c) (k := k) (u := lane + unit)
        split
        · next found => rw [found] at served; split <;> simp_all
        · next found => rw [found] at served; split_ifs <;> simp_all
        · next found => rw [found] at served; simpa using served

theorem execEmbExchange_nextForm {id remote} : nextForm (execEmbExchange c id remote s) := by
  unfold execEmbExchange
  rw [nextForm_next]
  split
  · exact h
  · next k _ =>
    split
    · next tid t d _ _ _ _ _ =>
      split
      · exact h
      · dsimp only
        generalize (if t.ecm = 2 then s.padWords k.team (embHot d) (embHotN d) else []) = hot
        split
        · simpa using h
        · generalize sent : (if k.stopped.isEmpty then List.foldl State.sendOut s _ else s) = t'
          have asked : memoryForm t' := by
            rw [← sent]
            split <;> simp [h]
          generalize ends : embGather c k t d remote _ _ _ = r
          have kept : r.form := by
            refine ends ▸ form_embGather asked (fun rows s hs => form_embGather hs (fun ahead s hs => ?_) _) _
            split <;> simp [hs]
          split
          · simpa using kept
          · simpa using kept
          · split
            · simpa using kept
            · exact kept
    · exact h

end

end Sys2Proof.Machine

end

section
/-!
PROOF. The device's functions that write memory keep the canonical form (O60): departures, walks, fault records, launches,
graphs, collectives, saves and restores.
-/

namespace Sys2Proof.Machine

/-! ## Departures, walks and records of faults (14 R236-R238, 16 R287-R293) -/

section
variable {s : State} (h : memoryForm s)
include h

@[simp] theorem State.amoStep_memoryForm {id n} : memoryForm (s.amoStep id n).1 := by
  unfold State.amoStep
  split
  · exact h
  · split
    · simpa using h
    · dsimp only
      split
      · simp [h]
      · split
        · split <;> simp [h]
        · generalize ((s.sendAmo id _).1.lanes.filter fun l => l.bad) = bad
          cases bad <;> split <;> simp [h]

@[simp] theorem State.applyEngine_memoryForm {c e cmd unit o} : memoryForm (s.applyEngine c e cmd unit o) := by
  unfold State.applyEngine
  dsimp only
  split
  · simpa using h
  · simpa using State.putBytes_memoryForm (by simpa using h) _ _ _ _

@[simp] theorem State.discardTrap_memoryForm {e} : memoryForm (s.discardTrap e) := by
  unfold State.discardTrap
  dsimp only
  split
  · exact h
  · split
    · exact h
    · split_ifs <;> simp [h]

@[simp] theorem State.discard_memoryForm {c e} : memoryForm (s.discard c e) := by
  simp [State.discard, h]

@[simp] theorem State.discardPage_memoryForm {c page} : memoryForm (s.discardPage c page) := by
  have discarded := memoryForm_foldl State.discardTrap (fun s e hs => State.discardTrap_memoryForm hs (e := e))
    ((s.takeRecords c page).1.filterMap fun x => x.entries.head?) (s.takeRecords c page).2 (by simpa using h)
  simpa [State.discardPage] using discarded

@[simp] theorem State.walkFatal_memoryForm {c w} : memoryForm (s.walkFatal c w) := by
  simp [State.walkFatal, h]

@[simp] theorem State.walkMissing_memoryForm {c w home} : memoryForm (s.walkMissing c w home) := by
  unfold State.walkMissing
  split
  · simp [h]
  · dsimp only
    split <;> simp [h, State.fresh]

@[simp] theorem State.putRecord_memoryForm {home} : memoryForm (s.putRecord home) := by
  unfold State.putRecord
  dsimp only
  split
  · exact h
  · split
    · exact h
    · simp [State.writeNat_memoryForm h]

theorem State.writeLookup_memoryForm {c e k asid va lanes go} (hgo : ∀ t s, memoryForm s → memoryForm (go t s)) :
    memoryForm (s.writeLookup c e k asid va lanes go) := by
  have looked := (s.memoryForm_translate c k asid va lanes e.grp 0 e.who true).2 h
  unfold State.writeLookup
  dsimp only
  split
  · simpa using h
  · split
    · split <;> simp [h]
    · split
      · split
        · simpa using looked
        · exact hgo _ _ looked
      · exact State.discard_memoryForm looked
      · split
        · split <;> simp [h]
        · simpa using h

@[simp] theorem State.departMem_memoryForm {c e va rep bs clean t} : memoryForm (s.departMem c e va rep bs clean t) := by
  unfold State.departMem
  dsimp only
  split
  · simpa using h
  · have put := State.putBytes_memoryForm (s := s.dropEntry c e.id) (by simpa using h) (rep.getD c.die) (fun _ => some t)
      (departBytes va bs) []
    split
    · exact put
    · simpa using put

@[simp] theorem State.departKv_memoryForm {c e pa key bs clean} : memoryForm (s.departKv c e pa key bs clean) := by
  have put := memoryForm_foldl (fun s b => s.writePa key (pa + b.off) b.b) (fun s b hs => State.writePa_memoryForm hs _ _ _) bs
    (s.dropEntry c e.id) (by simpa using h)
  simpa [State.departKv] using put

/-! ## The front end and hardware checks (04, 22) -/

@[simp] theorem State.closedTarget_memoryForm {id pc} : memoryForm (s.closedTarget id pc) := by
  simp [State.closedTarget, h]

@[simp] theorem State.acceptLine_memoryForm {id pc l} : memoryForm (s.acceptLine id pc l) := by
  simp [State.acceptLine, h]

@[simp] theorem State.rollPair_memoryForm {q} : memoryForm (s.rollPair q) := by
  simp [State.rollPair, h]

@[simp] theorem State.checkGroups_memoryForm {gs} : memoryForm (s.checkGroups gs) :=
  memoryForm_foldl _ (fun s g hs => by simp [hs]) _ _ h

/-! ## Launches, graphs and collectives (09, 20) -/

@[simp] theorem State.writeVirt_memoryForm {die asid va n x} : memoryForm (s.writeVirt die asid va n x) :=
  State.putBytes_memoryForm h _ _ _ _

@[simp] theorem State.setStatus_memoryForm {l state reason} : memoryForm (s.setStatus l state reason) :=
  State.writeVirt_memoryForm h

@[simp] theorem State.admitTeams_memoryForm {l ns} : memoryForm (s.admitTeams l ns) := by
  unfold State.admitTeams
  dsimp only
  split <;> simp [h]

theorem State.memoryForm_of_admitAll {l t} (admitted : s.admitAll l = some t) : memoryForm t := by
  unfold State.admitAll at admitted
  dsimp only at admitted
  split at admitted
  · cases admitted
  · injection admitted with admitted
    subst admitted
    split <;> simp [h]

theorem State.memoryForm_of_admitNext {l die weak t} (admitted : s.admitNext l die weak = some t) : memoryForm t := by
  unfold State.admitNext at admitted
  dsimp only at admitted
  split at admitted
  · cases admitted
  · split at admitted
    · cases admitted
    · injection admitted with admitted
      subst admitted
      split <;> simp [h]

theorem State.memoryForm_of_admitHead {die weak t} (admitted : s.admitHead die weak = some t) : memoryForm t := by
  unfold State.admitHead at admitted
  dsimp only at admitted
  split at admitted
  · exact (State.memoryForm_of_admitBack admitted).2 h
  · split at admitted
    · cases admitted
    · split at admitted
      · exact (State.memoryForm_of_admitSaved admitted).2 h
      · split at admitted
        · cases admitted
          simpa using h
        · split at admitted
          · exact State.memoryForm_of_admitAll h admitted
          · exact State.memoryForm_of_admitNext h admitted

@[simp] theorem State.countDone_memoryForm {id} : memoryForm (s.countDone id) := by
  unfold State.countDone
  split
  · exact h
  · dsimp only
    split <;> simp [h]

@[simp] theorem State.writeNode_memoryForm {g n off x} : memoryForm (s.writeNode g n off x) := State.writeVirt_memoryForm h

@[simp] theorem State.wordsBack_memoryForm {g} : memoryForm (s.wordsBack g) :=
  memoryForm_foldl _ (fun _ _ hs => State.writeVirt_memoryForm hs) _ _ h

@[simp] theorem State.graphOver_memoryForm {id} : memoryForm (s.graphOver id) := by
  unfold State.graphOver
  split
  · exact h
  · split
    · exact h
    · dsimp only
      split <;> simp [h]

@[simp] theorem State.startNode_memoryForm {g n} : memoryForm (s.startNode g n) := by
  unfold State.startNode
  dsimp only
  split
  · split <;> simp [h]
  · simpa using h

@[simp] theorem State.tryStart_memoryForm {id n} : memoryForm (s.tryStart id n) := by
  unfold State.tryStart
  split
  · exact h
  · dsimp only
    split
    · exact h
    · split <;> simp [h]

@[simp] theorem State.arriveNode_memoryForm {id n} : memoryForm (s.arriveNode id n) :=
  State.tryStart_memoryForm (by simpa using h)

@[simp] theorem State.batchDone_memoryForm {g n r} : memoryForm (s.batchDone g n r) := by
  simp [State.batchDone, h]

@[simp] theorem State.openBatch_memoryForm {g n r} : memoryForm (s.openBatch g n r) := by
  unfold State.openBatch
  split
  · simpa using h
  · dsimp only
    split <;> simp [h, State.fresh]

@[simp] theorem State.collOver_memoryForm {id} : memoryForm (s.collOver id) := by
  unfold State.collOver
  split
  · exact h
  · split
    · exact h
    · dsimp only
      split
      · simpa using h
      · rw [State.memoryForm_modPkg, State.memoryForm_raiseIrq]
        exact State.writeVirt_memoryForm (memoryForm_foldl _ (fun s p hs => State.writeVirt_memoryForm hs) _ _ h)

/-! ## Saves and restores (22 R382-R395) -/

@[simp] theorem State.saveFails_memoryForm {t} : memoryForm (s.saveFails t) := by
  unfold State.saveFails
  dsimp only
  split <;> simp [h]

@[simp] theorem State.deliverOne_memoryForm {id area} : memoryForm (s.deliverOne id area) := by
  simp [State.deliverOne, h]

@[simp] theorem State.deliver_memoryForm {t area} : memoryForm (s.deliver t area) := by
  refine memoryForm_foldl _ (fun s g hs => ?_) _ _ h
  exact memoryForm_foldl _ (fun s x hs => State.deliverOne_memoryForm hs) _ _ (by simpa using hs)

@[simp] theorem State.spill_memoryForm {t} : memoryForm (s.spill t) := by
  unfold State.spill
  dsimp only
  split
  · exact h
  · refine (State.memoryForm_switchOut ..).2 ?_
    exact memoryForm_foldl _ (fun s line hs => State.putBytes_memoryForm hs _ _ _ _) _ _ h

@[simp] theorem State.restoreOver_memoryForm {t area} : memoryForm (s.restoreOver t area) := by
  unfold State.restoreOver
  dsimp only
  split
  · exact h
  · split
    · simpa using h
    · split
      · simpa using h
      · simpa using h
      · rw [State.memoryForm_modTeam]
        exact State.putBytes_memoryForm (by simpa using h) _ _ _ _

end

end Sys2Proof.Machine

end

section
/-!
PROOF. The steps of the device keep the canonical form (O60).
-/

namespace Sys2Proof.Machine

/-! ## Steps of the device that write memory or choose among many cases -/

section
variable {s : State} (h : memoryForm s)
include h

theorem execFrUpdateMerge_nextForm {c id} : nextForm (execFrUpdateMerge c id s) := by
  unfold execFrUpdateMerge
  rw [nextForm_next]
  split
  · exact h
  · split
    · split
      · exact h
      · refine State.writeLookup_memoryForm h fun t s hs => ?_
        split
        · exact State.discard_memoryForm hs
        · simp [hs]
    · exact h

theorem execFaultRecord_nextForm {home c id rec} : nextForm (execFaultRecord home c id rec s) := by
  unfold execFaultRecord
  rw [nextForm_next]
  dsimp only
  split
  · simpa using h
  · generalize queued : (if (s.die home).waiting.any _ then s else _) = t
    have kept : memoryForm t := by
      rw [← queued]
      split <;> simp [h]
    have put := memoryForm_foldl (fun s _ => s.putRecord home) (fun s _ hs => State.putRecord_memoryForm hs)
      (List.range (t.die home).waiting.length) t kept
    split
    · simpa using put
    · exact put

theorem execDepartureApplied_nextForm {c id} : nextForm (execDepartureApplied c id s) := by
  unfold execDepartureApplied
  rw [nextForm_next]
  split
  · exact h
  · dsimp only
    split
    · exact h
    · split
      · exact State.writeLookup_memoryForm h fun t s hs => State.departMem_memoryForm hs
      · split_ifs <;> simp [h]
      · split_ifs <;> simp [h]
      · split_ifs <;> simp [h]
      · exact h

theorem execRollback_nextForm {t} : nextForm (execRollback t s) := by
  unfold execRollback
  rw [nextForm_next]
  split
  · exact h
  · exact memoryForm_foldl _ (fun s q hs => State.rollPair_memoryForm hs) _ _ (by simpa using h)

theorem execLaunchSubmit_nextForm {id} : nextForm (execLaunchSubmit id s) := by
  unfold execLaunchSubmit
  rw [nextForm_next]
  split
  · exact h
  · next l _ =>
    split
    · exact h
    · split
      · simpa using h
      · dsimp only
        generalize cleared : (if l.graph.isSome then _ else s) = t
        have kept : memoryForm t := by
          rw [← cleared]
          split <;> simp [h]
        split
        · split <;> simp [kept]
        · simpa using kept

theorem execTeamAdmission_nextForm {die weak} : nextForm (execTeamAdmission die weak s) := by
  have head : memoryForm ((s.admitHead die weak).getD s) := by
    cases admitted : s.admitHead die weak with
    | none => exact h
    | some t => exact State.memoryForm_of_admitHead h admitted
  unfold execTeamAdmission
  rw [nextForm_next]
  dsimp only
  generalize taken : @ite State _ (_) ((s.admitHead die weak).getD s) s = t
  have kept : memoryForm t := by
    rw [← taken]
    split
    · exact head
    · exact h
  split <;> simp [kept]

theorem execGraphSubmit_nextForm {id} : nextForm (execGraphSubmit id s) := by
  unfold execGraphSubmit
  rw [nextForm_next]
  split
  · exact h
  · dsimp only
    split
    · exact h
    · split
      · simpa using h
      · split
        · simp [h]
        · exact State.graphOver_memoryForm (State.startNode_memoryForm (by simp [h]))

theorem execNodeCompletion_nextForm {id n} : nextForm (execNodeCompletion id n s) := by
  unfold execNodeCompletion
  rw [nextForm_next]
  split
  · exact h
  · dsimp only
    split
    · exact h
    · split
      · simpa using h
      · refine State.graphOver_memoryForm (State.tryStart_memoryForm ?_)
        generalize marked : @ite State _ (_) (State.graphError _ id 3 n) _ = t
        have kept : memoryForm t := by
          rw [← marked]
          split <;> simp [h]
        split
        · exact kept
        · exact memoryForm_foldl _ (fun s m hs => State.arriveNode_memoryForm hs) _ _ kept

theorem execQueueEntry_nextForm {fn q} : nextForm (execQueueEntry fn q s) := by
  unfold execQueueEntry
  rw [nextForm_next]
  dsimp only
  split
  · exact h
  · split
    · simpa using h
    · simp [State.writePa_memoryForm h]

theorem execHostBar2Access_nextForm {fn q va n acc} : nextForm (execHostBar2Access fn q va n acc s) := by
  unfold execHostBar2Access
  rw [nextForm_next]
  dsimp only
  split
  · simpa using h
  · split
    · simpa using h
    · simpa using h
    · split
      · exact State.putBytes_memoryForm h _ _ _ _
      · simpa using h

theorem execCollectiveChunk_nextForm {id chunk parts lost} : nextForm (execCollectiveChunk id chunk parts lost s) := by
  unfold execCollectiveChunk
  rw [nextForm_next]
  dsimp only
  split
  · next c _ _ _ =>
    generalize sent : @ite State _ (_) (s.sendPieces id chunk _) s = t
    have kept : memoryForm t := by
      rw [← sent]
      split <;> simp [h]
    split
    · exact kept
    · split
      · exact kept
      · split
        · simpa using kept
        · split
          · simpa using kept
          · split
            · simpa using kept
            · refine State.collOver_memoryForm ((State.memoryForm_modColl ..).2 ?_)
              exact memoryForm_foldl _ (fun s o hs => State.putBytes_memoryForm hs _ _ _ _) _ _ kept
  · exact h

theorem execManagementAccess_nextForm {pa n wr} : nextForm (execManagementAccess pa n wr s) := by
  unfold execManagementAccess
  rw [nextForm_next]
  split
  · simpa using h
  · split
    · simpa using State.writePas_memoryForm 0 _ _ _ h
    · simpa using h

theorem execSaveRequest_nextForm {t} : nextForm (execSaveRequest t s) := by
  unfold execSaveRequest
  rw [nextForm_next]
  dsimp only
  split
  · exact h
  · split
    · exact h
    · split
      · split
        · exact memoryForm_foldl _ (fun s u hs => State.saveFails_memoryForm hs) _ _ h
        · simpa using h
      · split
        · simpa using h
        · split
          · simpa using h
          · split
            · simp [h]
            · split
              · simpa using h
              · split <;> simp [h]

theorem execSaveSpill_nextForm {t} : nextForm (execSaveSpill t s) := by
  unfold execSaveSpill
  rw [nextForm_next]
  dsimp only
  split
  · exact h
  · split
    · rw [State.memoryForm_again]
      split <;> simp [h]
    · split
      · simpa using h
      · split
        · simpa using h
        · generalize looked : List.foldl _ (([] : List Tx), s) _ = r
          have kept : memoryForm r.2 := by
            rw [← looked]
            refine (memoryForm_foldl_snd _ (fun r u => ?_) _ _).2 h
            exact State.memoryForm_lookArea ..
          split
          · exact memoryForm_foldl _ (fun s u hs => State.saveFails_memoryForm hs) _ _ kept
          · split
            · simpa using kept
            · exact memoryForm_foldl _ (fun s u hs => State.spill_memoryForm hs) _ _ kept

end

/-! ## The other steps of the device -/

section
variable {s : State} (h : memoryForm s)
include h

/-! ### Lines, words and casts (14, 15) -/

theorem execLineFetchLands_nextForm {r} : nextForm (execLineFetchLands r s) := by
  unfold execLineFetchLands
  dsimp only
  rw [nextForm_next]
  split
  · exact h
  · split
    · simpa using h
    · split
      · split <;> simp [h]
      · split
        · simpa using h
        · split
          · split
            · simpa using h
            · simpa using h
            · split <;> simp [h]
          · split
            · split
              · simpa using h
              · split <;> simp [h]
            · split <;> simp [h]

theorem execAmoPerformed_nextForm {id n} : nextForm (execAmoPerformed id n s) := by
  unfold execAmoPerformed
  dsimp only
  rw [nextForm_next]
  split
  · exact h
  · split
    · split
      · simp [h]
      · split <;> simp [h]
    · split <;> simp [h]

theorem execCmcastLanding_nextForm {c id} : nextForm (execCmcastLanding c id s) := by
  unfold execCmcastLanding
  rw [nextForm_next]
  split
  · split
    · split
      · exact h
      · split <;> simp [h]
    · exact h
  · exact h

theorem execCmcastTimedPresence_nextForm {c id} : nextForm (execCmcastTimedPresence c id s) := by
  unfold execCmcastTimedPresence
  rw [nextForm_next]
  split
  · exact h
  · split
    · exact h
    · split
      · exact h
      · split <;> simp [h]

theorem execPollRetry_nextForm {st} : nextForm (execPollRetry st s) := by
  simp [execPollRetry, h]

theorem execLwaitWake_nextForm {st cause} : nextForm (execLwaitWake st cause s) := by
  unfold execLwaitWake
  split <;> simp [h]

/-! ### Barriers, clusters, gates and pairs (15, 18, 22) -/

theorem execBarrierArrival_nextForm {team grp scope} : nextForm (execBarrierArrival team grp scope s) := by
  unfold execBarrierArrival
  split <;> simp [h]

theorem execBarrierRelease_nextForm {team grp scope total bad} : nextForm (execBarrierRelease team grp scope total bad s) := by
  unfold execBarrierRelease
  split <;> simp [h]

theorem execCredContribution_nextForm {team grp} : nextForm (execCredContribution team grp s) := by
  simp [execCredContribution, h]

theorem execGateAbort_nextForm {t g code} : nextForm (execGateAbort t g code s) := by
  unfold execGateAbort
  dsimp only
  rw [nextForm_next]
  split
  · exact h
  · split
    · simp [h]
    · split
      · exact h
      · split <;> simp [h]

theorem execCompareRecord_nextForm {b p} : nextForm (execCompareRecord b p s) := by
  unfold execCompareRecord
  rw [nextForm_next]
  split
  · exact h
  · split
    · split
      · dsimp only
        split <;> simp [h]
      · simp [h]
    · exact h

/-! ### The front end (04, 06) -/

theorem execFetchLine_nextForm {id flips} : nextForm (execFetchLine id flips s) := by
  unfold execFetchLine
  rw [nextForm_next]
  split
  · exact h
  · dsimp only
    split
    · simp [h]
    · split
      · simpa using h
      · simp [h]
      · split
        · simp [h]
        · split_ifs <;> simp [h]

theorem execIssueGrant_nextForm {c part} : nextForm (execIssueGrant c part s) := by
  simp [execIssueGrant, h]

theorem execLongLatencyWriteback_nextForm {st id} : nextForm (execLongLatencyWriteback st id s) := by
  unfold execLongLatencyWriteback
  split <;> simp [h]

theorem execTrapEntry_nextForm {id} : nextForm (execTrapEntry id s) := by
  unfold execTrapEntry
  dsimp only
  rw [nextForm_next]
  split
  · split <;> simp [h]
  · simpa using h
  · split
    · split <;> simp [h]
    · simpa using h
    · split
      · exact h
      · split <;> simp [h]

/-! ### Walks (13, 16) -/

theorem execPageWalk_nextForm {c id} : nextForm (execPageWalk c id s) := by
  unfold execPageWalk
  rw [nextForm_next]
  split
  · exact h
  · split
    · simpa using h
    · split
      · exact h
      · split
        · simpa using h
        · split
          · dsimp only
            split <;> simp [h]
          · simp [h]
          · simp [h]

theorem execKvWalk_nextForm {c id} : nextForm (execKvWalk c id s) := by
  unfold execKvWalk
  rw [nextForm_next]
  split
  · exact h
  · split
    · simpa using h
    · split
      · exact h
      · dsimp only
        split <;> simp [h]

theorem execFaultResponse_nextForm {c reply} : nextForm (execFaultResponse c reply s) := by
  unfold execFaultResponse
  rw [nextForm_next]
  split
  · exact h
  · split
    · exact h
    · split
      · split
        · exact h
        · split <;> simp [h]
      · split
        · exact h
        · split <;> simp [h]

/-! ### Checkpoints and failures (22) -/

theorem execCheckpointTaken_nextForm {t} : nextForm (execCheckpointTaken t s) := by
  unfold execCheckpointTaken
  dsimp only
  rw [nextForm_next]
  split
  · exact h
  · split
    · simpa using h
    · split
      · split
        · simpa using h
        · split <;> simp [h]
      · split
        · simpa using h
        · split <;> simp [h]

theorem execCheckpointSafe_nextForm {t date} : nextForm (execCheckpointSafe t date s) := by
  unfold execCheckpointSafe
  dsimp only
  rw [nextForm_next]
  generalize ((s.team t).blocked.isSome || _) = stale
  split
  · exact h
  · split
    · simpa using h
    · rw [State.memoryForm_releaseLehr]
      split
      · split <;> simp [h]
      · simp [h]

theorem execLehrAgeTimeout_nextForm {team entered} : nextForm (execLehrAgeTimeout team entered s) := by
  simp [execLehrAgeTimeout, h]

theorem execStrikeReport_nextForm {c} : nextForm (execStrikeReport c s) := by
  simp [execStrikeReport, h]

theorem execMemoryUncorrectable_nextForm {site again} : nextForm (execMemoryUncorrectable site again s) := by
  unfold execMemoryUncorrectable
  split <;> simp [h]

theorem execFlitCrcError_nextForm {plane fails} : nextForm (execFlitCrcError plane fails s) := by
  simp [execFlitCrcError, h]

theorem execPlaneFailure_nextForm {plane} : nextForm (execPlaneFailure plane s) := by
  simp [execPlaneFailure, h]

theorem execPowerClamp_nextForm {draw} : nextForm (execPowerClamp draw s) := by
  simp [execPowerClamp, h]

theorem execThermalLimit_nextForm {die temp} : nextForm (execThermalLimit die temp s) := by
  simp [execThermalLimit, h]

theorem execHostLinkTraining_nextForm {width rate} : nextForm (execHostLinkTraining width rate s) := by
  simp [execHostLinkTraining, h]

/-! ### Launches, tasks and graphs (09) -/

theorem execTimedLaunchStart_nextForm {launch} : nextForm (execTimedLaunchStart launch s) := by
  unfold execTimedLaunchStart
  split <;> simp [h]

theorem execTeamEnd_nextForm {team} : nextForm (execTeamEnd team s) := by
  unfold execTeamEnd
  split <;> simp [h]

theorem execTaskDeal_nextForm {id n} : nextForm (execTaskDeal id n s) := by
  unfold execTaskDeal
  rw [nextForm_next]
  split
  · exact h
  · dsimp only
    split
    · exact h
    · split
      · simpa using h
      · split
        · exact h
        · split <;> simp [h]

theorem execWaveFormation_nextForm {c} : nextForm (execWaveFormation c s) := by
  simp [execWaveFormation, h]

theorem execStealRequest_nextForm {thief victim} : nextForm (execStealRequest thief victim s) := by
  simp [execStealRequest, h]

theorem execStealRetry_nextForm {c} : nextForm (execStealRetry c s) := by
  simp [execStealRetry, h]

theorem execGcondUpdate_nextForm {upd op num x} : nextForm (execGcondUpdate upd op num x s) := by
  unfold execGcondUpdate
  split <;> simp [h]

theorem execGsigArrival_nextForm {graph node} : nextForm (execGsigArrival graph node s) := by
  unfold execGsigArrival
  split <;> simp [h]

/-! ### The host, the package and its egress (19, 20, 21) -/

theorem execQueueDoorbell_nextForm {fn q tail} : nextForm (execQueueDoorbell fn q tail s) := by
  simp [execQueueDoorbell, h]

theorem execConfigWrite_nextForm {reg v} : nextForm (execConfigWrite reg v s) := by
  unfold execConfigWrite
  rw [nextForm_next]
  split
  · exact h
  · cases reg
    case ownership => dsimp only; split <;> simp [h]
    case comparator => dsimp only; split <;> simp [h]
    case queueBlock => dsimp only; split_ifs <;> simp [h]
    all_goals simpa using h

theorem execCollectiveSubmit_nextForm {fn q coll} : nextForm (execCollectiveSubmit fn q coll s) := by
  unfold execCollectiveSubmit
  rw [nextForm_next]
  split
  · exact h
  · split
    · simp [h]
    · split
      · simpa using h
      · split <;> simp [h]

theorem execEgressFlit_nextForm {lane dst isGroup} : nextForm (execEgressFlit lane dst isGroup s) := by
  simp [execEgressFlit, h]

theorem execPackageReset_nextForm {sigOk egress sources} : nextForm (execPackageReset sigOk egress sources s) := by
  simp [execPackageReset, h]

theorem execAttestationRequest_nextForm {nonce} : nextForm (execAttestationRequest nonce s) := by
  simp [execAttestationRequest, h]

theorem execKeyLoad_nextForm {id} : nextForm (execKeyLoad id s) := by
  simp [execKeyLoad, h]

theorem execDebugResume_nextForm {t g act} : nextForm (execDebugResume t g act s) := by
  unfold execDebugResume
  rw [nextForm_next]
  split
  · exact h
  · split
    · simpa using h
    · split <;> simp [h]
    · simpa using h
    · dsimp only
      split <;> split <;> simp [h]

/-! ### Preemption and restoring (22) -/

theorem execPreemptRequest_nextForm {t by_} : nextForm (execPreemptRequest t by_ s) := by
  unfold execPreemptRequest
  dsimp only
  rw [nextForm_next]
  generalize (!(s.team t).live || _ || _ || _ : Bool) = refused
  split
  · exact h
  · split
    · split <;> simp [h]
    · exact h
    · simp [h]

theorem execDrainTimeout_nextForm {team} : nextForm (execDrainTimeout team s) := by
  unfold execDrainTimeout
  dsimp only
  split <;> simp [h]

theorem execRestoreRequest_nextForm {asid area} : nextForm (execRestoreRequest asid area s) := by
  unfold execRestoreRequest
  dsimp only
  rw [nextForm_next]
  split
  · exact h
  · split
    · simpa using h
    · split
      · simpa using h
      · split
        · simpa using h
        · split <;> simp [h]

theorem execRestoreLoad_nextForm {t} : nextForm (execRestoreLoad t s) := by
  unfold execRestoreLoad
  dsimp only
  rw [nextForm_next]
  split
  · split
    · exact h
    · split
      · simpa using h
      · split
        · simpa using h
        · simpa using h
        · split <;> simp [h]
  · simp [h]
  · exact h

end

end Sys2Proof.Machine

end

section
/-!
PROOF. Every step keeps the canonical form of both memories (O60): no instruction and no step of the device writes a memory but
byte by byte through the frames and tags, so the invariant passes through the issue, the probe and the events.
-/

namespace Sys2Proof.Machine

/-! ## Every instruction and every step of the machine -/

/-- Whatever the instruction or the step of the device does, both memories stay in canonical form. -/
theorem exec_nextForm {s : State} (h : memoryForm s) : ∀ i : Instr, nextForm (exec i s)
  | .nop => issue_nextForm (fun _ _ h => by simp [h]) h
  | .bra .. => execBra_nextForm h
  | .brx .. => execBrx_nextForm h
  | .call .. => execCall_nextForm h
  | .ret .. => execRet_nextForm h
  | .exit .. => execExit_nextForm h
  | .yield .. => issue_nextForm (fun _ _ h => by simp [h]) h
  | .poll .. => execPoll_nextForm h
  | .lwait .. => execLwait_nextForm h
  | .enrol .. => issue_nextForm (fun _ _ h => by simp [h]) h
  | .park .. => issue_nextForm (fun _ _ h => by simp [h]) h
  | .strike .. => issue_nextForm (fun _ _ h => by simp [h]) h
  | .brk .. => issue_nextForm (fun _ _ h => by simp [h]) h
  | .iadd .. => issue_nextForm (fun _ _ h => by simp [h]) h
  | .isub .. => issue_nextForm (fun _ _ h => by simp [h]) h
  | .imul .. => issue_nextForm (fun _ _ h => by simp [h]) h
  | .imulh .. => issue_nextForm (fun _ _ h => by simp [h]) h
  | .imad .. => issue_nextForm (fun _ _ h => by simp [h]) h
  | .imin .. => issue_nextForm (fun _ _ h => by simp [h]) h
  | .imax .. => issue_nextForm (fun _ _ h => by simp [h]) h
  | .iabs .. => issue_nextForm (fun _ _ h => by simp [h]) h
  | .iadd64 .. => issue_nextForm (fun _ _ h => by simp [h]) h
  | .imad64 .. => issue_nextForm (fun _ _ h => by simp [h]) h
  | .lea .. => issue_nextForm (fun _ _ h => by simp [h]) h
  | .sel .. => issue_nextForm (fun _ _ h => by simp [h]) h
  | .icmp .. => issue_nextForm (fun _ _ h => by simp [h]) h
  | .idiv .. => issue_nextForm (fun _ _ h => by simp [h]) h
  | .irem .. => issue_nextForm (fun _ _ h => by simp [h]) h
  | .and .. => issue_nextForm (fun _ _ h => by simp [h]) h
  | .or .. => issue_nextForm (fun _ _ h => by simp [h]) h
  | .xor .. => issue_nextForm (fun _ _ h => by simp [h]) h
  | .shl .. => issue_nextForm (fun _ _ h => by simp [h]) h
  | .shr .. => issue_nextForm (fun _ _ h => by simp [h]) h
  | .sar .. => issue_nextForm (fun _ _ h => by simp [h]) h
  | .rot .. => issue_nextForm (fun _ _ h => by simp [h]) h
  | .popc .. => issue_nextForm (fun _ _ h => by simp [h]) h
  | .clz .. => issue_nextForm (fun _ _ h => by simp [h]) h
  | .brev .. => issue_nextForm (fun _ _ h => by simp [h]) h
  | .bfe .. => issue_nextForm (fun _ _ h => by simp [h]) h
  | .bfi .. => issue_nextForm (fun _ _ h => by simp [h]) h
  | .mov .. => issue_nextForm (fun _ _ h => by simp [h]) h
  | .plop .. => issue_nextForm (fun _ _ h => by simp [h]) h
  | .pmov .. => execPmov_nextForm h
  | .movsr .. => execMovsr_nextForm h
  | .vote .. => execVote_nextForm h
  | .shfl .. => issue_nextForm (fun _ _ h => by simp [h]) h
  | .redg .. => issue_nextForm (fun _ _ h => by simp [h]) h
  | .scan .. => issue_nextForm (fun _ _ h => by simp [h]) h
  | .part .. => issue_nextForm (fun _ _ h => by simp [h]) h
  | .matchLanes .. => issue_nextForm (fun _ _ h => by simp [h]) h
  | .compact .. => issue_nextForm (fun _ _ h => by simp [h]) h
  | .regrp .. => execRegrp_nextForm h
  | .fadd .. => issue_nextForm (fun _ _ h => by simp [h]) h
  | .fmul .. => issue_nextForm (fun _ _ h => by simp [h]) h
  | .ffma .. => issue_nextForm (fun _ _ h => by simp [h]) h
  | .fmin .. => issue_nextForm (fun _ _ h => by simp [h]) h
  | .fmax .. => issue_nextForm (fun _ _ h => by simp [h]) h
  | .fcmp .. => issue_nextForm (fun _ _ h => by simp [h]) h
  | .frnd .. => issue_nextForm (fun _ _ h => by simp [h]) h
  | .hadd2 .. => issue_nextForm (fun _ _ h => by simp [h]) h
  | .hmul2 .. => issue_nextForm (fun _ _ h => by simp [h]) h
  | .hfma2 .. => issue_nextForm (fun _ _ h => by simp [h]) h
  | .dadd .. => issue_nextForm (fun _ _ h => by simp [h]) h
  | .dmul .. => issue_nextForm (fun _ _ h => by simp [h]) h
  | .dfma .. => issue_nextForm (fun _ _ h => by simp [h]) h
  | .dmin .. => issue_nextForm (fun _ _ h => by simp [h]) h
  | .dmax .. => issue_nextForm (fun _ _ h => by simp [h]) h
  | .dcmp .. => issue_nextForm (fun _ _ h => by simp [h]) h
  | .fcvt .. => issue_nextForm (fun _ _ h => by simp [h]) h
  | .rcp .. => issue_nextForm (fun _ _ h => by simp [h]) h
  | .rsq .. => issue_nextForm (fun _ _ h => by simp [h]) h
  | .sqrt .. => issue_nextForm (fun _ _ h => by simp [h]) h
  | .ex2 .. => issue_nextForm (fun _ _ h => by simp [h]) h
  | .lg2 .. => issue_nextForm (fun _ _ h => by simp [h]) h
  | .sin .. => issue_nextForm (fun _ _ h => by simp [h]) h
  | .cos .. => issue_nextForm (fun _ _ h => by simp [h]) h
  | .tanh .. => issue_nextForm (fun _ _ h => by simp [h]) h
  | .tblev .. => execTblev_nextForm h
  | .tblsw .. => issue_nextForm (fun _ _ h => by simp [h]) h
  | .drcp .. => issue_nextForm (fun _ _ h => by simp [h]) h
  | .dsqrt .. => issue_nextForm (fun _ _ h => by simp [h]) h
  | .qnt .. => execQnt_nextForm h
  | .dqnt .. => execDqnt_nextForm h
  | .bscale .. => execBscale_nextForm h
  | .cvtf .. => execCvtf_nextForm h
  | .pack6 .. => issue_nextForm (fun _ _ h => by simp [h]) h
  | .unpk6 .. => issue_nextForm (fun _ _ h => by simp [h]) h
  | .pack4 .. => issue_nextForm (fun _ _ h => by simp [h]) h
  | .unpk4 .. => issue_nextForm (fun _ _ h => by simp [h]) h
  | .smooth .. => execSmooth_nextForm h
  | .openLine .. => issue_nextForm (fun _ _ h => by simp [h]) h
  | .openReopen .. => execOpenReopen_nextForm h
  | .opens .. => issue_nextForm (fun _ _ h => by simp [h]) h
  | .close .. => issue_nextForm (fun _ _ h => by simp [h]) h
  | .flush .. => issue_nextForm (fun _ _ h => by simp [h]) h
  | .ld .. => execLd_nextForm h
  | .st .. => execSt_nextForm h
  | .linfo .. => issue_nextForm (fun _ _ h => by simp [h]) h
  | .llk .. => execLlk_nextForm h
  | .sul .. => execSul_nextForm h
  | .amo .. => execAmo_nextForm h
  | .red .. => execRed_nextForm h
  | .scat .. => execScat_nextForm h
  | .cmcast .. => execCmcast_nextForm h
  | .mst .. => execMst_nextForm h
  | .fence .. => execFence_nextForm h
  | .xfence .. => execXfence_nextForm h
  | .afence .. => execAfence_nextForm h
  | .bar .. => execBar_nextForm h
  | .bara .. => execBara_nextForm h
  | .barw .. => execBarw_nextForm h
  | .sbinit .. => execSbinit_nextForm h
  | .sbexp .. => execSbexp_nextForm h
  | .sbarv .. => execSbarv_nextForm h
  | .sbwait .. => execSbwait_nextForm h
  | .cjoin .. => execCjoin_nextForm h
  | .cleave .. => execCleave_nextForm h
  | .cpy .. => execCpy_nextForm h
  | .cpwait .. => issue_nextForm (fun _ _ h => by simp [h]) h
  | .kick .. => execKick_nextForm h
  | .gthr .. => execGthr_nextForm h
  | .emb .. => execEmb_nextForm h
  | .cpstBt .. => issue_nextForm (fun _ _ h => by simp [h]) h
  | .cpstTkt .. => issue_nextForm (fun _ _ h => by simp [h]) h
  | .mma .. => execMma_nextForm h
  | .mmas .. => execMmas_nextForm h
  | .maccZero .. => execMaccZero_nextForm h
  | .maccInit .. => execMaccInit_nextForm h
  | .maccMov .. => execMaccMov_nextForm h
  | .maccRd .. => execMaccRd_nextForm h
  | .maccWr .. => execMaccWr_nextForm h
  | .maccRdst .. => execMaccRdst_nextForm h
  | .maccWrst .. => execMaccWrst_nextForm h
  | .maccDecl .. => issue_nextForm (fun _ _ h => by simp [h]) h
  | .mrel .. => issue_nextForm (fun _ _ h => by simp [h]) h
  | .smax .. => execSmax_nextForm h
  | .sexp .. => execSexp_nextForm h
  | .smerge .. => execSmerge_nextForm h
  | .cred .. => execCred_nextForm h
  | .tdone .. => execTdone_nextForm h
  | .gcond .. => execGcond_nextForm h
  | .gsig .. => execGsig_nextForm h
  | .kvopen .. => issue_nextForm (fun _ _ h => by simp [h]) h
  | .kvfill .. => execKvfill_nextForm h
  | .kvmap .. => execKvmap_nextForm h
  | .kvfork .. => execKvfork_nextForm h
  | .kvdrop .. => execKvdrop_nextForm h
  | .gcall .. => execGcall_nextForm h
  | .gret .. => execGret_nextForm h
  | .trap .. => issue_nextForm (fun _ _ h => by simp [h]) h
  | .eret .. => execEret_nextForm h
  | .setsr .. => issue_nextForm (fun _ _ h => by simp [h]) h
  | .setsrAmask .. => execSetsrAmask_nextForm h
  | .setsrLpc .. => execSetsrLpc_nextForm h
  | .dmrbeg .. => execDmrbeg_nextForm h
  | .dmrend .. => execDmrend_nextForm h
  | .rgn .. => issue_nextForm (fun _ _ h => by simp [h]) h
  | .halt .. => execHalt_nextForm h
  | .tlbinv .. => execTlbinv_nextForm h
  | .recall .. => execRecall_nextForm h
  | .pollRetry .. => execPollRetry_nextForm h
  | .lwaitWake .. => execLwaitWake_nextForm h
  | .lineFetchLands .. => execLineFetchLands_nextForm h
  | .amoPerformed .. => execAmoPerformed_nextForm h
  | .frUpdateMerge .. => execFrUpdateMerge_nextForm h
  | .cmcastLanding .. => execCmcastLanding_nextForm h
  | .cmcastTimedPresence .. => execCmcastTimedPresence_nextForm h
  | .barrierArrival .. => execBarrierArrival_nextForm h
  | .barrierRelease .. => execBarrierRelease_nextForm h
  | .embExchange .. => execEmbExchange_nextForm h
  | .commandServiceStart .. => execCommandServiceStart_nextForm h
  | .engineUnitLands .. => execEngineUnitLands_nextForm h
  | .credContribution .. => execCredContribution_nextForm h
  | .gateAbort .. => execGateAbort_nextForm h
  | .compareRecord .. => execCompareRecord_nextForm h
  | .fetchLine .. => execFetchLine_nextForm h
  | .issueGrant .. => execIssueGrant_nextForm h
  | .longLatencyWriteback .. => execLongLatencyWriteback_nextForm h
  | .trapEntry .. => execTrapEntry_nextForm h
  | .pageWalk .. => execPageWalk_nextForm h
  | .kvWalk .. => execKvWalk_nextForm h
  | .faultRecord .. => execFaultRecord_nextForm h
  | .faultResponse .. => execFaultResponse_nextForm h
  | .departureApplied .. => execDepartureApplied_nextForm h
  | .checkpointTaken .. => execCheckpointTaken_nextForm h
  | .checkpointSafe .. => execCheckpointSafe_nextForm h
  | .lehrAgeTimeout .. => execLehrAgeTimeout_nextForm h
  | .strikeReport .. => execStrikeReport_nextForm h
  | .rollback .. => execRollback_nextForm h
  | .memoryUncorrectable .. => execMemoryUncorrectable_nextForm h
  | .flitCrcError .. => execFlitCrcError_nextForm h
  | .planeFailure .. => execPlaneFailure_nextForm h
  | .launchSubmit .. => execLaunchSubmit_nextForm h
  | .teamAdmission .. => execTeamAdmission_nextForm h
  | .timedLaunchStart .. => execTimedLaunchStart_nextForm h
  | .teamEnd .. => execTeamEnd_nextForm h
  | .taskDeal .. => execTaskDeal_nextForm h
  | .waveFormation .. => execWaveFormation_nextForm h
  | .stealRequest .. => execStealRequest_nextForm h
  | .stealRetry .. => execStealRetry_nextForm h
  | .graphSubmit .. => execGraphSubmit_nextForm h
  | .nodeCompletion .. => execNodeCompletion_nextForm h
  | .gcondUpdate .. => execGcondUpdate_nextForm h
  | .gsigArrival .. => execGsigArrival_nextForm h
  | .queueDoorbell .. => execQueueDoorbell_nextForm h
  | .queueEntry .. => execQueueEntry_nextForm h
  | .hostBar2Access .. => execHostBar2Access_nextForm h
  | .configWrite .. => execConfigWrite_nextForm h
  | .collectiveSubmit .. => execCollectiveSubmit_nextForm h
  | .collectiveChunk .. => execCollectiveChunk_nextForm h
  | .egressFlit .. => execEgressFlit_nextForm h
  | .packageReset .. => execPackageReset_nextForm h
  | .attestationRequest .. => execAttestationRequest_nextForm h
  | .keyLoad .. => execKeyLoad_nextForm h
  | .powerClamp .. => execPowerClamp_nextForm h
  | .thermalLimit .. => execThermalLimit_nextForm h
  | .managementAccess .. => execManagementAccess_nextForm h
  | .debugResume .. => execDebugResume_nextForm h
  | .preemptRequest .. => execPreemptRequest_nextForm h
  | .drainTimeout .. => execDrainTimeout_nextForm h
  | .saveRequest .. => execSaveRequest_nextForm h
  | .saveSpill .. => execSaveSpill_nextForm h
  | .restoreRequest .. => execRestoreRequest_nextForm h
  | .restoreLoad .. => execRestoreLoad_nextForm h
  | .hostLinkTraining .. => execHostLinkTraining_nextForm h

/-- What a next state carries is in canonical form. -/
theorem memoryForm_of_exec {i : Instr} {s t : State} (h : memoryForm s) (ran : exec i s = .next t) : memoryForm t := by
  have kept := exec_nextForm h i
  rwa [ran] at kept

section
variable {s t : State} (h : memoryForm s)
include h

@[simp] theorem State.illegalWord_memoryForm {c w} : memoryForm (s.illegalWord c w) := by
  simp [State.illegalWord, h]

omit h in
@[simp] theorem State.ended_memoryForm {c} (h : memoryForm t) : memoryForm (t.ended s c) := by
  simp [State.ended, h]

@[simp] theorem State.afterEvent_memoryForm : memoryForm s.afterEvent := by
  unfold State.afterEvent
  dsimp only
  split <;> simp [h]

theorem stepIssue_nextForm {c} : nextForm (stepIssue s c) := by
  unfold stepIssue
  split
  · exact h
  · split
    · simpa using h
    · split
      · simp [h]
      · split
        · next ran => exact State.ended_memoryForm (memoryForm_of_exec (by simpa using h) ran)
        · exact exec_nextForm (by simpa using h) _

theorem stepProbe_nextForm : nextForm (stepProbe s) := by
  unfold stepProbe
  split
  · simpa using h
  · split
    · simpa using h
    · split
      · simpa using h
      · split
        · next t ran =>
          have kept : memoryForm t := memoryForm_of_exec (by simpa using h) ran
          split <;> simp [kept, h]
        · exact exec_nextForm (by simpa using h) _

theorem stepEvent_nextForm {e} : nextForm (stepEvent e s) := by
  unfold stepEvent
  split
  · next t ran => exact State.afterEvent_memoryForm (memoryForm_of_exec (by simpa using h) ran)
  · exact exec_nextForm (by simpa using h) _

theorem step_nextForm : nextForm (step s) := by
  unfold step
  split
  · exact stepIssue_nextForm (by simpa using h)
  · split
    · exact stepProbe_nextForm h
    · split
      · exact stepEvent_nextForm h
      · split
        · split
          · next chosen => exact stepEvent_nextForm ((State.memoryForm_of_chosen chosen).2 (by simpa using h))
          · simpa using h
        · split
          · next found => exact stepEvent_nextForm ((State.memoryForm_of_nextStep found).2 h)
          · simpa using h

end

end Sys2Proof.Machine

open Sys2Proof Sys2Proof.Machine

/-- Settles O60: an issue, a probe and an event each run an instruction or a step of the device, which keeps the form, and then only
settle what has been noted. -/
theorem stepKeepsMemoryForm : Obligations.StepKeepsMemoryForm := by
  intro s t h next
  have kept := step_nextForm h
  rwa [next] at kept

end

section
/-!
PROOF. What an issue comes to past the checks that several families share: of a line (R223), of room, of a compare record.
-/

namespace Sys2Proof.Machine

/-- An instruction that holds leaves the state before it, and its lanes stay. -/
theorem issue_hold {u : Info} {s : State} {body : Ctx → State → Act} (h : u.executes s = true)
    (hb : body (s.ctx u.g) (s.begun u.uses) = .hold) : issue u body s = .next s.hold := by
  rw [issue_admits (Info.admits_of_executes h), runAct_executes h, hb]

/-- An instruction that parks its stream leaves the state before it. -/
theorem issue_park {u : Info} {s : State} {body : Ctx → State → Act} (h : u.executes s = true)
    (hb : body (s.ctx u.g) (s.begun u.uses) = .park) : issue u body s = .next s.park := by
  rw [issue_admits (Info.admits_of_executes h), runAct_executes h, hb]

/-- What an access does after its checks, where they pass. -/
@[reducible] def LineCheck.andThen (x : LineCheck) (go : LineRef → LineReg → Act) : Act :=
  match x with
  | .stop a => a
  | .ok ref lr => go ref lr

/-- A line that passes its checks is what the access goes on with. -/
theorem andThen_of_line {c : Ctx} {r : State} {ln : Fin 16} {n : Nat} {o : Nat → Nat} {modes : LineReg → Bool} {park : Bool}
    {ref : LineRef} {lr : LineReg} (line : Claims.line c r ln n o modes park ref lr) (go : LineRef → LineReg → Act) :
    (r.checkLine c ln n o modes park).andThen go = go ref lr := by
  rw [line]

theorem andThen_of_stop {x : LineCheck} {a : Act} (stop : x = .stop a) (go : LineRef → LineReg → Act) : x.andThen go = a := by
  rw [stop]

/-- An effect that waits for room goes on where there is room. -/
theorem if_room_then {a : Act} {room : Bool} (h : room = true) : (if !room then Act.hold else a) = a := by
  rw [h]
  rfl

theorem maskOf_eq_zero {p : Nat → Bool} (h : ∀ i < 32, p i = false) : maskOf p = 0 := by
  apply BitVec.eq_of_getLsbD_eq
  intro i lt
  simp [maskOf_getLsbD, h i lt]

/-! ## A compare record is kept with the bench (R378), and leaves the teams as they are -/

theorem State.myCore_record (s : State) (what : Nat) (ex : Mask) (data : Bytes) : (s.record what ex data).myCore = s.myCore := by
  unfold State.record State.recordOf
  split <;> rfl

theorem State.myGroup_record (s : State) (what : Nat) (ex : Mask) (data : Bytes) : (s.record what ex data).myGroup = s.myGroup := by
  unfold State.record State.recordOf
  split <;> rfl

end Sys2Proof.Machine

end

section
/-!
PROOF. Line registers (O12, O13): an open past its checks, and REOPEN by the state of its register.
-/

namespace Sys2Proof.Machine

/-! ## Opening (R225, R304) -/

/-- With `.u`, an open whose lanes name one line meets no trap of uniformity. -/
theorem uniform_agrees {u : Bool} {m ex : Mask} (agree : u = true → m = ex) : ¬ (u && m != ex) = true := by
  cases u with
  | false => simp
  | true => simp [agree rfl]

theorem State.myAsid_setPred (s : State) (p : Fin 8) (ex : Mask) (f : Nat → Bool) : (s.setPred p ex f).myAsid = s.myAsid := by
  rw [State.myAsid, State.setPred, State.myGroup_modHere]
  cases s.cur.x <;> rfl

/-! ## Keeping a line (R227) -/

/-- What an instruction does by the state of the register that it names, where opening and open registers are treated alike. -/
@[reducible] def LState.act (x : LState) (empty recalled bound : Act) : Act :=
  match x with
  | .empty => empty
  | .recalled => recalled
  | _ => bound

section
variable {x : LState} {empty recalled bound : Act}

theorem LState.act_empty (h : x = .empty) : x.act empty recalled bound = empty := by rw [h]
theorem LState.act_recalled (h : x = .recalled) : x.act empty recalled bound = recalled := by rw [h]
theorem LState.act_bound (h : x = .opening ∨ x = .opened) : x.act empty recalled bound = bound := by
  rcases h with h | h <;> rw [h]

end

/-- The entry's key under which a register's line is fetched again, in the address space and the cluster of now (R227, R228). -/
def State.renewedKey (s : State) (c : Ctx) (ref : LineRef) : Nat :=
  let l := s.lineAt ref
  s.ownKey ref l.mode (if l.mode = 3 then scratchKey c.id.team l.line else if l.mode = 4 then kvKey s.myAsid l.line
    else s.lineKey c.id.team s.myAsid l.line)

/-- What REOPEN does to a RECALLED register (R227). -/
def State.reopen (s : State) (c : Ctx) (ref : LineRef) : State :=
  let key := s.renewedKey c ref
  ((s.modEntry s.myCore key fun e => { e with held := true }).setLineAt ref
    { s.lineAt ref with st := .opening, key := key, fetched := 0, fault := none, lanes := c.ex, byte := 0, bound := s.time }).later 1
      (.lineFetchLands ref)

/-- REOPEN by the state of its register; the chain of conditions on the mode is the model's match. -/
theorem exec_openReopen (g : Guard) (ln : Fin 16) (s : State) : exec (.openReopen g ln) s =
    issue { g := g, uses := [.line ln], cls := if s.here.mode = .normal then .a else .both, path := some .ls } (fun c r =>
      (r.lineAt (r.lineRef c.id ln)).st.act (c.trapOf 5 ln.val 0 c.ex) (.done (r.reopen c (r.lineRef c.id ln))) (.done r)) s := by
  refine congrArg (fun body => issue _ body s) (funext fun c => funext fun r => ?_)
  have byMode (m pad kv mem : Nat) :
      (match m with | 3 => pad | 4 => kv | _ => mem) = if m = 3 then pad else if m = 4 then kv else mem := by
    split
    · rfl
    · rfl
    · next not3 not4 => rw [if_neg not3, if_neg not4]
  dsimp only [State.reopen, State.renewedKey]
  rw [← byMode]
  cases (r.lineAt (r.lineRef c.id ln)).st with
  | empty => rfl
  | opening => rfl
  | opened => rfl
  | recalled => rfl

end Sys2Proof.Machine

open Sys2Proof Sys2Proof.Machine

/-- Settles O12: past the checks of its own space an open needs room for what its register holds, and then binds it. -/
theorem openLines : Obligations.OpenLines := by
  intro g u rw_ mode d l ln b s c i
  refine ⟨?memory, ?pad, ?kv⟩
  case memory =>
    intro o r a same ref executes agree inside window room
    have reached : ¬ (inWindow (a i) && (r.windowTarget c.id.team (a i / 128 * 128)).isNone) = true := by
      cases w : inWindow (a i) with
      | false => simp
      | true => simpa using window w
    exact issue_done executes ((if_neg (uniform_agrees agree)).trans ((if_neg (Nat.not_le.2 inside)).trans
      ((if_neg reached).trans (if_room_then room))))
  case pad =>
    intro o r a same ref executes agree inside room
    exact issue_done executes ((if_neg (uniform_agrees agree)).trans ((if_neg (Nat.not_le.2 inside)).trans (if_room_then room)))
  case kv =>
    intro o r a same ref executes agree root inside range room
    have kept : ¬ (decide (2 ^ 63 ≤ a i) || (match r.kvDesc r.myGroup.c.kvroot with
        | some k => !k.inRange (a i)
        | none => false)) = true := by
      cases desc : r.kvDesc r.myGroup.c.kvroot with
      | none => simpa using inside
      | some k => simpa [range k desc] using inside
    refine issue_done executes ((if_neg (uniform_agrees agree)).trans ((if_neg root).trans
      ((if_neg kept).trans ((if_room_then room).trans ?_))))
    dsimp only
    rw [State.myAsid_setPred]

/-- Settles O13: REOPEN by the state of its register, CLOSE and FLUSH where what leaves finds room, LINFO at once. -/
theorem lineUpkeep : Obligations.LineUpkeep := by
  intro g la d ln s
  refine ⟨?reopen, ?close, ?flush, fun executes => issue_done executes rfl⟩
  case reopen =>
    intro o r ref executes
    refine ⟨fun recalled => ?_, fun bound => ?_, fun empty => ?_⟩
    · exact (exec_openReopen ..).trans (issue_done executes (LState.act_recalled recalled))
    · exact (exec_openReopen ..).trans (issue_done executes (LState.act_bound bound))
    · exact (exec_openReopen ..).trans (issue_trap executes (LState.act_empty empty))
  case close =>
    intro o r ref executes room
    exact issue_done executes (if_room_then room)
  case flush =>
    intro o r ref executes room
    exact issue_done executes (if_room_then room)

end

section
/-!
PROOF. The traps of accesses (O35): each check fails where those before it pass, and the instructions begin with the checks.
-/

namespace Sys2Proof.Machine

/-! ## Opens (R222, R225, R304) -/

/-- A lane that names another line than the lowest one is not among the lanes of the lowest one's line. -/
theorem sameLine_ne {ex : Mask} {a : Nat → Nat} {k : Nat} (lane : k ∈ maskLanes ex) (other : a k / 128 ≠ a (low ex) / 128) :
    sameLine ex a ≠ ex := by
  intro all
  obtain ⟨lt, executing⟩ := mem_maskLanes.1 lane
  have same : (sameLine ex a).getLsbD k = true := by rw [all]; exact executing
  rw [sameLine, maskOf_getLsbD] at same
  exact other (by simpa [lt, executing] using same)

theorem uniformity_off {u : Bool} (off : u = false) (m ex : Mask) : ¬ (u && m != ex) = true := by
  simp [off]

theorem openTraps : Claims.OpenTraps := by
  intro g u rw_ mode d l ln b s c i
  refine ⟨?memory, ?pad, ?kv⟩
  case memory =>
    intro o r a executes
    refine ⟨fun ⟨k, lane, other⟩ uniform => issue_trap executes (if_pos ?_), fun mixed outside => ?_⟩
    · rw [uniform, Bool.true_and, bne_iff_ne]
      exact sameLine_ne lane other
    · exact issue_trap executes ((if_neg (uniformity_off mixed _ _)).trans (if_pos outside))
  case pad =>
    intro o r a executes mixed outside
    exact issue_trap executes ((if_neg (uniformity_off mixed _ _)).trans (if_pos outside))
  case kv =>
    intro o r executes mixed rootless
    refine issue_trap executes ((if_neg (uniformity_off mixed _ _)).trans ((if_pos rootless).trans ?_))
    simp only [Ctx.trapOf, BitVec.ofNat_toNat, BitVec.setWidth_eq]
    rfl

/-! ## Accesses through a line register (R223) -/

theorem lineAccessTraps : Claims.LineAccessTraps := by
  intro c s ln n o modes park ref lr traps odd far
  refine ⟨fun empty inA => ?_, fun recalled => ?_, fun bound => ?_⟩
  · exact (if_pos empty).trans (if_neg (by simp [inA]))
  · have bound : lr.st ≠ .empty := by simp [recalled]
    exact (if_neg bound).trans (if_pos recalled)
  · have notEmpty : lr.st ≠ .empty := by rcases bound with h | h <;> simp [h]
    have notRecalled : lr.st ≠ .recalled := by rcases bound with h | h <;> simp [h]
    have past (mode : modes lr = true) : ¬ (!modes lr) = true := by simp [mode]
    refine ⟨fun wrong => ?_, fun mode misaligned => ?_, fun mode aligned beyond => ?_, fun mode aligned within opened notPad => ?_⟩
    · exact (if_neg notEmpty).trans ((if_neg notRecalled).trans (if_pos (by simpa using wrong)))
    · exact (if_neg notEmpty).trans ((if_neg notRecalled).trans ((if_neg (past mode)).trans (if_pos misaligned)))
    · exact (if_neg notEmpty).trans ((if_neg notRecalled).trans ((if_neg (past mode)).trans
        ((if_neg (not_not.2 aligned)).trans (if_pos beyond))))
    · refine (if_neg notEmpty).trans ((if_neg notRecalled).trans ((if_neg (past mode)).trans
        ((if_neg (not_not.2 aligned)).trans ((if_neg (not_not.2 within)).trans ?_))))
      split
      · next opening _ => exact absurd (opened.symm.trans opening) (by decide)
      · next opening _ => exact absurd (opened.symm.trans opening) (by decide)
      · exact if_neg fun pad => notPad pad.1

/-- LD and ST begin with the checks of their line, so each trap of the checks is theirs, and so is the wait of an X stream. -/
theorem lineInstructionTraps : Claims.LineInstructionTraps := by
  intro g la size f sc d l b s c n traps
  have takes (i : Instr) (u : Info) (modes : LineReg → Bool)
      (raised : ∀ k, u.executes s = true →
        (s.begun u.uses).checkLine c l.ln n ((s.begun u.uses).lineOff l) modes true = .stop (.trap k) → exec i s = .next (s.trapHere k))
      (parked : u.executes s = true →
        (s.begun u.uses).checkLine c l.ln n ((s.begun u.uses).lineOff l) modes true = .stop .park → exec i s = .next s.park) :
      traps i u modes := by
    intro executes
    obtain ⟨empty, recalled, bound⟩ := lineAccessTraps c (s.begun u.uses) l.ln n ((s.begun u.uses).lineOff l) modes true
    refine ⟨fun h inA => raised _ executes (empty h inA), fun h inX outside => parked executes ?_,
      fun h => raised _ executes (recalled h), fun h => ?_⟩
    · exact (if_pos h).trans (if_pos (by simp [inX, outside]))
    · obtain ⟨mode, odd, far, -⟩ := bound h
      exact ⟨fun wrong => raised _ executes (mode wrong), fun right some_ => raised _ executes (odd right some_),
        fun right none_ some_ => raised _ executes (far right none_ some_)⟩
  clear_value traps
  refine ⟨takes _ _ _ (fun k executes stop => ?_) fun executes stop => ?_,
    takes _ _ _ (fun k executes stop => ?_) fun executes stop => ?_⟩
  · exact issue_trap executes (andThen_of_stop stop _)
  · exact issue_park executes (andThen_of_stop stop _)
  · exact issue_trap executes (andThen_of_stop stop _)
  · exact issue_park executes (andThen_of_stop stop _)

/-! ## Far operations (R235, R236) -/

theorem farTraps : Claims.FarTraps := fun _ _ _ _ =>
  ⟨fun odd => if_pos odd, fun even out => (if_neg (not_not.2 even)).trans (if_pos out),
   fun even inside => (if_neg (not_not.2 even)).trans (if_neg (not_not.2 inside))⟩

/-- AMO, RED and SCAT begin with the check of their addresses, so its traps are theirs. -/
theorem farInstructionTraps : Claims.FarInstructionTraps := by
  intro g la op sem rel sc d a b s c n traps u
  have takes (i : Instr) (u : Info)
      (raised : ∀ k, u.executes s = true → (∀ go, farCheck c n ((s.begun u.uses).farAddr a) go = .trap k) →
        exec i s = .next (s.trapHere k)) : traps i u := fun executes =>
    ⟨fun odd => raised _ executes fun go => (farTraps c n _ go).1 odd,
     fun even out => raised _ executes fun go => (farTraps c n _ go).2.1 even out⟩
  clear_value traps
  refine ⟨takes _ _ fun k executes stops => ?_, takes _ _ fun k executes stops => ?_, takes _ _ fun k executes stops => ?_⟩
  · exact issue_trap executes (stops _)
  · exact issue_trap executes (stops _)
  · exact issue_trap executes (stops _)

end Sys2Proof.Machine

open Sys2Proof Sys2Proof.Machine

/-- Settles O35: each check raises its trap where those before it pass, and the instructions begin with these checks. -/
theorem accessTraps : Obligations.AccessTraps :=
  ⟨openTraps, lineAccessTraps, lineInstructionTraps, farTraps, farInstructionTraps⟩

end

section
/-!
PROOF. Far operations (O15): the records of a rolled-back run through the start of an issue, the release of the FR path, and the
updates past their checks.
-/

namespace Sys2Proof.Machine

/-! ## Records that a rolled-back run has left (R371) -/

theorem State.replay_setGroup (s : State) (t g : Nat) (x : Group) (t' : Nat) :
    ((s.setGroup t g x).team t').replay = (s.team t').replay := by
  rw [State.team_setGroup]
  split
  · next same => rw [same]; rfl
  · rfl

theorem State.replay_modTeam (s : State) (t : Nat) {f : Team → Team} (keeps : ∀ x, (f x).replay = x.replay) (t' : Nat) :
    ((s.modTeam t f).team t').replay = (s.team t').replay := by
  rw [State.team_modTeam]
  split
  · next same => rw [same, keeps]
  · rfl

theorem State.replay_pairIssued (s : State) (t : Nat) : (s.pairIssued.team t).replay = (s.team t).replay := by
  unfold State.pairIssued
  split <;> rfl

theorem State.replay_countIssue (s : State) (m : Mask) (t : Nat) : ((s.countIssue m).team t).replay = (s.team t).replay := by
  have started := s.replay_setGroup s.cur.team s.cur.grp
    (s.myGroup.setStream s.cur.x { s.here.spend m with parked := s.here.parkedAfter s.cur.pc }) t
  unfold State.countIssue
  dsimp only
  split
  · exact Eq.trans (State.replay_modTeam _ _ (by intro _; rfl) t) started
  · exact (State.replay_pairIssued _ t).trans (Eq.trans (State.replay_modTeam _ _ (by intro _; rfl) t) started)

/-- The start of an issue leaves the records of a rolled-back run. -/
theorem State.replay_begun (s : State) (us : List Use) (t : Nat) : ((s.begun us).team t).replay = (s.team t).replay :=
  List.foldlRecOn (motive := fun q : State => (q.team t).replay = (s.team t).replay) _ _ (s.replay_countIssue _ t)
    fun q kept n _ => (q.replay_setGroup q.cur.team q.cur.grp (q.myGroup.setQueue n (q.myGroup.queue n).tail) t).trans kept

/-- A stream without a record of a rolled-back run executes afresh. -/
theorem State.replayOf_fresh {s : State} {id : StreamId} (none_ : ∀ j ∈ (s.team id.team).replay, j.grp ≠ id.grp ∨ j.x ≠ id.x)
    (what : Nat) (ls : List (Nat × DWord × DWord)) : s.replayOf id what ls = .fresh := by
  have absent : ((s.team id.team).replay.find? fun j => j.grp == id.grp && j.x == id.x) = none := by
    rw [List.find?_eq_none]
    intro j hj
    rcases none_ j hj with other | other <;> simp [other]
  rw [State.replayOf, absent]

/-! ## The release of an operation on addresses, in a group that executes alone (R210, R377) -/

/-- The state in which an operation on addresses is performed: with a release, its lanes have it behind them. -/
def State.ordered (s : State) (c : Ctx) (rel : Bool) : State := if rel then s.clearRel c.id c.ex else s

theorem State.replay_ordered (s : State) (c : Ctx) (rel : Bool) (t : Nat) : ((s.ordered c rel).team t).replay = (s.team t).replay := by
  cases rel with
  | false => rfl
  | true => exact s.replay_setGroup c.id.team c.id.grp _ t

theorem frRelease_of_released {c : Ctx} {s : State} {rel : Bool} {sc : Scope} {go : State → Act}
    (released : rel = true → Claims.released c s fun d x => x.pathDone c.id .fr sc d [] &&
      (!coreOrWider (x.scopeOf c.id.team sc) || x.safeSince c.id.team d)) :
    frRelease c s rel sc go = go (s.ordered c rel) := by
  cases rel with
  | false => rfl
  | true => exact releaseFirst_of_released (released rfl)

theorem dmrGate_alone {c : Ctx} {s : State} (alone : s.myGroup.dmr = .alone) (what : Nat) (data : Bytes) (go : Nat → State → Act)
    (serve : List (Nat × List Word) → State → Act) : dmrGate c s what data go serve = go 0 s := by
  rw [dmrGate, alone]

theorem State.dmr_modHere (s : State) (f : Stream → Stream) : (s.modHere f).myGroup.dmr = s.myGroup.dmr := by
  rw [State.myGroup_modHere]
  cases s.cur.x <;> rfl

theorem State.dmr_ordered {s : State} {c : Ctx} (here : s.cur.id = c.id) (rel : Bool) :
    (s.ordered c rel).myGroup.dmr = s.myGroup.dmr := by
  cases rel with
  | false => rfl
  | true =>
    rw [State.ordered, if_pos rfl, ← here]
    exact s.dmr_modHere _

/-! ## Updates (R236, R278) -/

/-- The update that each executing lane asks for, in ascending order. -/
def State.laneUpdates (s : State) (c : Ctx) (op : FarOp) (a : AOp) (b : Src) : List (DWord × DWord) :=
  (maskLanes c.ex).map fun i => (s.farAddr a i, s.farOperand op b i)

section
variable {c : Ctx} {r : State} {op : FarOp} {rel : Bool} {sc : Scope} {a : AOp} {b : Src}
  (here : r.cur.id = c.id) (alone : r.myGroup.dmr = .alone)
  (reached : Claims.passes (farCheck c (farBytes op) (r.farAddr a)))
  (unmatched : Claims.passes (r.farMatch c (farBytes op) (r.farAddr a)))
  (released : rel = true → Claims.released c r fun d x => x.pathDone c.id .fr sc d [] &&
      (!coreOrWider (x.scopeOf c.id.team sc) || x.safeSince c.id.team d))
include here alone reached unmatched released

/-- Past its checks an update that finds room and no acquiring AMO before it waits for its release and then enters the lehr. -/
theorem redBody_enters {code : Nat} {merge : List (DWord × DWord) → List (DWord × DWord)}
    (performed : ∀ m ∈ r.here.amos, m.acq = true → m.over = true)
    (room : r.lehrTakes r.myCore c.id.team (merge (r.laneUpdates c op a b)).length = true) :
    redBody code op rel sc a b merge c r =
      .done (((r.ordered c rel).record (code + 256 * farCode op) c.ex (farRecord c (r.farAddr a) (r.farOperand op b))).enterUpdates c op
        (r.farAddr a) (merge (r.laneUpdates c op a b))) := by
  have free : (!r.lehrTakes r.myCore c.id.team (merge (r.laneUpdates c op a b)).length ||
      r.here.amos.any fun b => b.acq && !b.over) = false := by
    rw [room, Bool.not_true, Bool.false_or, List.any_eq_false]
    intro m hm
    cases acq : m.acq with
    | false => simp
    | true => simp [performed m hm acq]
  refine (reached _).trans ((unmatched _).trans ((if_neg (Bool.eq_false_iff.1 free)).trans ((frRelease_of_released released).trans ?_)))
  dsimp only
  rw [State.myGroup_record, State.dmr_ordered here rel, alone]
  rfl

end

end Sys2Proof.Machine

open Sys2Proof Sys2Proof.Machine

/-- Settles O15: past its checks and its release an operation of a group that executes alone is performed at once, AMO afresh where
no record of a rolled-back run is left for its stream. -/
theorem farOperations : Obligations.FarOperations := by
  intro g la op sem rel sc d a b s plain c done
  refine ⟨?amo, ?updates⟩
  case amo =>
    intro u r adr x ls rel' t executes reached unmatched first released fresh
    have alone : t.myGroup.dmr = .alone :=
      (State.dmr_ordered (State.cur_id_begun ..) rel').trans (State.dmr_begun plain _)
    have unserved : t.replayOf c.id (0x89 + 256 * farCode op) ls = .fresh := by
      refine State.replayOf_fresh (fun j hj => fresh j ?_) _ _
      rwa [← State.replay_begun s u.uses, ← State.replay_ordered _ c rel']
    refine issue_done executes ((reached _).trans ((unmatched _).trans ((if_neg (Bool.eq_false_iff.1 first)).trans
      ((frRelease_of_released released).trans ((dmrGate_alone alone _ _ _ _).trans ?_)))))
    show (match t.replayOf c.id (0x89 + 256 * farCode op) ls with | .differs => _ | .served j => _ | .fresh => _) = _
    rw [unserved]
  case updates =>
    intro u r adr x all t enters executes reached unmatched performed released
    have here : r.cur.id = c.id := State.cur_id_begun ..
    have alone : r.myGroup.dmr = .alone := State.dmr_begun plain _
    exact ⟨fun room => issue_done executes (redBody_enters here alone reached unmatched released performed room),
      fun room => issue_done executes (redBody_enters here alone reached unmatched released performed room)⟩

end

section
/-!
PROOF. Fences and barriers (O16, O17): a release whose departures find room, and a barrier instruction by the state of its slot.
-/

namespace Sys2Proof.Machine

/-! ## Releases and arrivals (R205, R210, R366) -/

/-- A release of a path whose departures find room goes on, with no checkpoint of its team pending where its scope takes one. -/
theorem departFirst_of_departs {c : Ctx} {s : State} {p : Path} {sc : Scope} (departs : Claims.departs c s p sc) (go : Act) :
    departFirst c s p sc go = go := by
  obtain ⟨noCheckpoint, out⟩ := departs
  have free : ¬ (coreOrWider (s.scopeOf c.id.team sc) = true ∧ (s.team c.id.team).pending.isSome = true) := by
    rintro ⟨wide, pending⟩
    rw [noCheckpoint wide] at pending
    cases pending
  have room : ¬ (p = .ls ∧ crosses (s.scopeOf c.id.team sc) = true ∧
      (!((s.drainQueue c.id).departAll (s.teamCore c.id.team) c.id.team c.id.grp).allOut (s.teamCore c.id.team)) = true) := by
    rintro ⟨ls, crossing, full⟩
    rw [out ls crossing] at full
    cases full
  exact (if_neg free).trans (if_neg room)

theorem arriveFirst_of_departs {c : Ctx} {s : State} {sc : Scope} (free : (s.team c.id.team).pending = none)
    (departs : Claims.departs c s .ls sc) (go : Act) : arriveFirst c s sc go = go := by
  rw [arriveFirst, free]
  exact departFirst_of_departs departs go

/-! ## Slots and phases (R241-R243) -/

/-- What a barrier instruction does, by the state of its slot. -/
@[reducible] def BarSlot.act (x : BarSlot) (clear pending : Act) (released : DWord → Bool → Act) : Act :=
  match x with
  | .clear => clear
  | .pending _ _ _ _ _ => pending
  | .released total bad => released total bad

section
variable {x : BarSlot} {clear pending : Act} {released : DWord → Bool → Act}

theorem BarSlot.act_clear (h : x = .clear) : x.act clear pending released = clear := by rw [h]

theorem BarSlot.act_pending (h : ∃ o v has_ there date, x = .pending o v has_ there date) :
    x.act clear pending released = pending := by
  obtain ⟨o, v, has_, there, date, h⟩ := h
  rw [h]

theorem BarSlot.act_released {total : DWord} {bad : Bool} (h : x = .released total bad) :
    x.act clear pending released = released total bad := by rw [h]

end

/-- BARA by the state of its slot: the two states that are not clear are one case of the model. -/
theorem exec_bara (g : Guard) (op : BarOp) (sc : Scope) (a : Src) (s : State) : exec (.bara g op sc a) s =
    issue (barInfo g sc (if op = .none then [] else [u2 a])) (fun c r =>
      (r.myGroup.slot sc).act
        (arriveFirst c r sc <| .done (r.arrive c sc op (if op = .none then 0 else r.payload c.ex op a)))
        (slotTrap c sc) fun _ _ => slotTrap c sc) s := by
  refine congrArg (fun body => issue _ body s) (funext fun c => funext fun r => ?_)
  cases r.myGroup.slot sc with
  | clear => rfl
  | pending => rfl
  | released => rfl

theorem Phase.add_mixed {p : Phase} {op : BarOp} (has : p.has = true) (other : p.op ≠ op) (who : Nat) (v : DWord) :
    (p.add who op v true false).mixed = true := by
  simp [Phase.add, has, other]

end Sys2Proof.Machine

open Sys2Proof Sys2Proof.Machine

/-- Settles O16: an acquire is done at once, and a fence that releases goes on where its departures find room. -/
theorem fences : Obligations.Fences := by
  intro g path pb sc s c
  refine ⟨fun executes => ⟨issue_done executes rfl, fun departs => ⟨?_, ?_⟩⟩, ?_, ?_⟩
  · exact issue_done executes (departFirst_of_departs departs _)
  · exact issue_done executes (departFirst_of_departs departs _)
  · exact fun executes departs => issue_done executes (departFirst_of_departs departs _)
  · exact fun executes departs => issue_done executes (departFirst_of_departs departs _)

/-- Settles O17: each of the three instructions does what the state of its slot says, and a second operation marks a phase as mixed. -/
theorem barriers : Obligations.Barriers := by
  intro g op sc a d s total c info takes arrives waits wrong
  refine ⟨?bar, ?bara, ?barw, fun p who v has other => Phase.add_mixed has other who v⟩
  case bar =>
    intro u r mine executes
    refine ⟨fun clear ⟨free, departs⟩ => ?_, fun pending => ⟨fun all => ?_, fun others => ?_⟩, fun released all => ?_,
      fun released all => ?_, fun bad released others => ?_⟩
    · exact issue_jump executes ((BarSlot.act_clear clear).trans (arriveFirst_of_departs free departs _))
    · exact issue_hold executes ((BarSlot.act_pending pending).trans (if_pos all))
    · exact issue_trap executes ((BarSlot.act_pending pending).trans (if_neg others))
    · exact issue_done executes ((BarSlot.act_released released).trans (if_neg (not_not.2 all)))
    · exact issue_trapIn executes ((BarSlot.act_released released).trans (if_neg (not_not.2 all)))
    · exact issue_trap executes ((BarSlot.act_released released).trans (if_pos others))
  case bara =>
    intro u r executes
    refine ⟨fun clear ⟨free, departs⟩ => (exec_bara ..).trans ?_, ?_⟩
    · exact issue_done executes ((BarSlot.act_clear clear).trans (arriveFirst_of_departs free departs _))
    · rintro (pending | ⟨bad, released⟩)
      · exact (exec_bara ..).trans (issue_trap executes (BarSlot.act_pending pending))
      · exact (exec_bara ..).trans (issue_trap executes (BarSlot.act_released released))
  case barw =>
    intro u r executes
    refine ⟨fun released => ?_, fun released => ?_, fun pending => ?_, fun clear => ?_⟩
    · exact issue_done executes (BarSlot.act_released released)
    · exact issue_trapIn executes (BarSlot.act_released released)
    · exact issue_hold executes (BarSlot.act_pending pending)
    · exact issue_trap executes (BarSlot.act_clear clear)

end

section
/-!
PROOF. Multicast (O18): the checks of the destinations.
-/

namespace Sys2Proof.Machine

/-- The checks of R237 pass for an aligned offset inside the scratchpad of every member that the mask names. -/
theorem castCheck_passes {c : Ctx} {s : State} {d m : Nat} {ts : List Nat} (aligned : d % 128 = 0) (mask : m < 65536)
    (members : castMembers (s.clusterOf c.id.team) m = .inr ts) (inside : ∀ t ∈ ts, d < (s.team t).spadSize)
    (go : List Nat → Act) : castCheck c s d m go = go ts := by
  have fits : (ts.any fun t => decide ((s.team t).spadSize ≤ d)) = false := by
    simpa [List.any_eq_false] using inside
  simp [castCheck, aligned, Nat.not_le.2 mask, members, fits]

end Sys2Proof.Machine

open Sys2Proof Sys2Proof.Machine

/-- Settles O18: the source line and the destinations pass their checks, so a mask with members sends where the lehr has room. -/
theorem multicast : Obligations.Multicast := by
  intro g at_ l b s ref lr ts u r c one off executes line aligned mask members inside room
  refine issue_done executes ((andThen_of_line line _).trans ((castCheck_passes aligned mask members inside _).trans ?_))
  cases ts with
  | nil => rfl
  | cons t ts => exact if_room_then room

end

section
/-!
PROOF. Locks and staging objects of the scratchpad (O36), past the checks of their line.
-/

namespace Sys2Proof.Machine

/-! ## Locks (R233, R234) -/

theorem locks : Claims.Locks := by
  intro g la wide d l b s ref lr c n
  refine ⟨?llk, ?sul⟩
  case llk =>
    intro u r o bit q got stay c' executes line alone taken clean
    have once : ¬ (maskOf fun i => c.ex.getLsbD i && r.holdsOther c.id (bit i) i) ≠ 0 := by
      refine not_not.2 (maskOf_eq_zero fun i lt => ?_)
      cases lane : c.ex.getLsbD i with
      | false => rfl
      | true => exact alone i (mem_maskLanes.2 ⟨lt, lane⟩)
    have some_waits : ¬ (got = 0 ∧ c.iss = c.ex) := fun all => taken all.1
    refine issue_jump executes ((andThen_of_line line _).trans ?_)
    refine (if_neg once).trans ((if_neg some_waits).trans ((clean _).trans ?_))
    exact congrArg (fun t : State => Act.jump (t.advance c.id c'.iss)) (if_neg taken)
  case sul =>
    intro u r o executes line room
    refine issue_done executes ((andThen_of_line line _).trans ((if_room_then room).trans ?_))
    dsimp only
    rw [State.myCore_record]

/-! ## Staging objects (R244, R245) -/

section
variable {c : Ctx} {r : State} {l : LOp} {ref : LineRef} {lr : LineReg}

theorem stageAt_of_line
    (line : Claims.line { c with ex := BitVec.twoPow 32 (low c.ex) } r l.ln 16 (r.lineOff l) (fun x => x.mode == 3) false ref lr)
    (go : Nat → State → Act) : stageAt c r l go = go (128 * lr.line + r.lineOff l (low c.ex)) r :=
  andThen_of_line line fun _ lr => go (128 * lr.line + r.lineOff l (low c.ex)) r

theorem stageLive_of_init {off : Nat} (init : (r.stage c.id.team off).init = true) (reserved : (r.stage c.id.team off).rsvd = 0)
    (go : StageObj → Act) : stageLive c r off go = go (r.stage c.id.team off) := by
  simp [stageLive, init, reserved]

theorem stageLive_of_not_init {off : Nat} (dead : (r.stage c.id.team off).init = false ∨ (r.stage c.id.team off).rsvd ≠ 0)
    (go : StageObj → Act) : stageLive c r off go = c.trapOf 13 0 c.pc c.ex := by
  refine if_pos ?_
  rcases dead with off_ | reserved
  · simp [off_]
  · simp [reserved]

theorem stagePut_of_room {off : Nat} (room : r.journalRoom r.myCore c.id.team (scratchKey c.id.team (off / 128)) = true)
    (x : StageObj × Bool) : stagePut c r off x = .done ((r.putStage c.id.team c.id.grp r.time off x).journalCheck r.myCore) :=
  if_room_then room

end

theorem stagingObjects : Claims.StagingObjects := by
  intro g d l b s ref lr c one
  refine ⟨?write, ?wait⟩
  case write =>
    intro u r off o n executes line free puts
    have at_ (go : Nat → State → Act) : stageAt c r l go = go off r := stageAt_of_line line go
    refine ⟨fun few room => ?_, fun many => ?_, fun init reserved room => ⟨?_, ?_⟩, fun dead => ⟨?_, ?_⟩⟩
    · exact issue_done executes ((at_ _).trans ((if_neg (Nat.not_lt.2 few)).trans (stagePut_of_room room _)))
    · exact issue_trap executes ((at_ _).trans (if_pos many))
    · exact issue_done executes ((at_ _).trans ((stageLive_of_init init reserved _).trans (stagePut_of_room room _)))
    · exact issue_done executes ((at_ _).trans ((stageLive_of_init init reserved _).trans (stagePut_of_room room _)))
    · exact issue_trap executes ((at_ _).trans (stageLive_of_not_init dead _))
    · exact issue_trap executes ((at_ _).trans (stageLive_of_not_init dead _))
  case wait =>
    intro u r off o executes line
    have at_ (go : Nat → State → Act) : stageAt c r l go = go off r := stageAt_of_line line go
    refine ⟨fun dead => ?_, fun init reserved clean same => ?_, fun init reserved => ⟨fun clean changed => ?_, fun error => ?_⟩⟩
    · exact issue_trap executes ((at_ _).trans (stageLive_of_not_init dead _))
    · exact issue_hold executes ((at_ _).trans ((stageLive_of_init init reserved _).trans
        ((if_neg (Bool.eq_false_iff.1 clean)).trans (if_pos same))))
    · exact issue_done executes ((at_ _).trans ((stageLive_of_init init reserved _).trans
        ((if_neg (Bool.eq_false_iff.1 clean)).trans (if_neg changed))))
    · exact issue_trap executes ((at_ _).trans ((stageLive_of_init init reserved _).trans (if_pos error)))

end Sys2Proof.Machine

open Sys2Proof Sys2Proof.Machine

/-- Settles O36: locks and objects of a scratchpad line that passes its checks, each instruction by the state that it finds. -/
theorem locksAndStaging : Obligations.LocksAndStaging := ⟨locks, stagingObjects⟩

end

section
/-!
PROOF. Regrouping (O37): a REGRP that the statement re-forms at once and the machine lets wait for a checkpoint.
-/

namespace Sys2Proof.Machine

/-- A fused group of 32 lanes at a REGRP of a set of one group (s0) whose lanes move no vector register (s1), while a checkpoint of its
team is pending. -/
def regrouping : State :=
  State.modHere { State.reset.setTeam 0 { probeTeam with pending := some ⟨probeTeam.st, 0⟩ } with
    cur := ⟨0, 0, false, 0, BitVec.allOnes 32, 0, []⟩ } fun st => st.setUni 0 1

/-- How many sets the regrouping table of core 0 of die 0 holds after a step. -/
def setsAfter : Host.Outcome State Fault Refusal → Nat
  | .next t => (t.core ⟨0, 0⟩).sets.length
  | _ => 0

/-- The REGRP waits in the table for the team's checkpoint. -/
theorem setsAfter_regrouping : setsAfter (exec (.regrp ⟨false, 0⟩ (.v 127) (.s 0) (.s 1)) regrouping) = 1 := by decide +kernel

/-- The order of one participant needs no sorting. -/
theorem State.participants_single {r : RegSet} {j : Nat × Nat × Mask} (one : r.joined = [j]) (s : State) :
    s.participants r = [j] := by
  rw [State.participants, one, List.mergeSort_singleton]

/-- The statement's outcome leaves the table empty, and the machine's does not. -/
theorem not_regrouping : ¬ Claims.Regrouping := by
  intro claim
  have reformed := (claim ⟨false, 0⟩ 127 0 1 regrouping (by decide +kernel) (by decide +kernel) (by decide +kernel)
    (by decide +kernel) (by decide +kernel) (by decide +kernel) (by decide +kernel) (by decide +kernel) (by decide +kernel)
    (by decide +kernel) (by decide +kernel)).1 (by decide +kernel) (by decide +kernel) (by decide +kernel)
  have waits := setsAfter_regrouping
  rw [reformed] at waits
  dsimp only [State.reform] at waits
  rw [State.participants_single rfl] at waits
  exact absurd waits (by decide +kernel)

end Sys2Proof.Machine

open Sys2Proof Sys2Proof.Machine

/-- Refutes O37: a set of one group is not re-formed at once while a checkpoint of its team is pending (R276, R366); its REGRP waits in
the regrouping table, as it does in the state `regrouping`. -/
theorem not_clustersAndRegrouping : ¬ Obligations.ClustersAndRegrouping := fun claims => not_regrouping claims.2

end

section
/-!
PROOF. Copies and their tags (O21): CPY past its checks, CPWAIT past its counts, and the two reports of CPST.
-/

namespace Sys2Proof.Machine

/-! ## Waiting for a tag (R257, R258) -/

/-- No lane holds CPWAIT where every lane's difference of counts is in the lower half of the counter's range: there what had been
issued has landed, also where a count has wrapped. -/
theorem no_lane_lags {ls : List Nat} {landed : Word} {issued : Nat → Word}
    (enough : ∀ i ∈ ls, (landed - issued i).toNat < 2 ^ 31) :
    ¬ (ls.any fun i => decide (2 ^ 31 ≤ (landed - issued i).toNat)) = true := by
  rw [List.any_eq_true]
  rintro ⟨i, lane, lags⟩
  exact absurd (of_decide_eq_true lags) (Nat.not_le.2 (enough i lane))

/-- A tag without an error raises none, in whatever mode. -/
theorem not_raised {err heard : Bool} (clean : err = false) : ¬ (err && heard) = true := by
  rw [clean]
  exact Bool.false_ne_true

end Sys2Proof.Machine

open Sys2Proof Sys2Proof.Machine

/-- Settles O21: CPY goes past its checks and its room, to global memory past the presence of its bytes too, CPWAIT past its
counts and its tag's error, and both forms of CPST report at once. -/
theorem copyEngine : Obligations.CopyEngine := by
  intro g la tag d a b e s c
  refine ⟨?copy, ?wait, ?tagReport, ?ticketReport⟩
  case copy =>
    intro u r adr x v ls counts executes checks room
    refine ⟨issue_done executes ((checks _).trans (if_room_then room)), fun present => ?toGlobal⟩
    have bytes : (ls.all fun i => r.presentRange c.id.team (x i) (v i)) = true := List.all_eq_true.2 present
    exact issue_done executes ((checks _).trans ((if_room_then room).trans (if_room_then bytes)))
  case wait =>
    intro u r y executes landed clean
    exact issue_done executes ((if_neg (no_lane_lags landed)).trans (if_neg (not_raised clean)))
  case tagReport => exact fun executes => issue_done executes rfl
  case ticketReport => exact fun executes => issue_done executes rfl

end

section
/-!
PROOF. Commands of the request, gather, embedding and key-value fill engines (O22): what each instruction queues past its checks.
-/

namespace Sys2Proof.Machine

/-! ## KICK (R259, R260) -/

/-- A KICK whose records' destination entries can all be read asks for no page (log 22). -/
theorem State.askKick_of_present {s : State} {c : Ctx} {recs : List Nat} (present : s.missingEntries c recs = []) :
    s.askKick c recs = (none, s) := by
  simp [State.askKick, present]

/-- Of records that all pass the checks of KICK none is the first at fault. -/
theorem findIdx?_recOk {size : Nat} {recs : List Nat} (ok : ∀ x ∈ recs, recOk size x = true) :
    (recs.findIdx? fun x => !recOk size x) = none := by
  rw [List.findIdx?_eq_none_iff]
  intro x mem
  rw [ok x mem]
  rfl

/-- A KICK past its checks queues its records and writes the ticket of the first to D. -/
theorem kick_queues {g : Guard} {d : Dst} {a e : Src} {s : State} :
    let c := s.ctx g
    let u := engInfo g [d1 d, u1 a, u1 e]
    let r := s.begun u.uses
    let x := (r.src a (low c.ex)).toNat
    let n := (r.src e (low c.ex)).toNat
    let recs := (List.range n).map fun k => r.spadNat c.id.team (x + 64 * k) 64
    u.executes s = true → 0 < n → n ≤ 64 → x % 64 = 0 → x + 64 * n ≤ r.myTeam.spadSize →
    r.presentRange c.id.team x (64 * n) = true → (∀ y ∈ recs, recOk r.myTeam.spadSize y = true) →
    r.queueRoom r.myCore n = true → r.missingEntries c recs = [] →
      Completes (.kick g d a e) u s fun c q => (q.kickAll c recs).setDst d c.ex fun _ => r.myTeam.st.tickets := by
  intro c u r x n recs executes positive few aligned inside present ok room entries
  refine issue_done executes ((if_neg positive.ne').trans ((if_neg (not_not.2 aligned)).trans ((if_neg (Nat.not_lt.2 few)).trans
    ((if_neg (Nat.not_lt.2 inside)).trans ((if_room_then present).trans ?_)))))
  show (match recs.findIdx? fun x => !recOk r.myTeam.spadSize x with
    | some _ => _
    | none => _) = _
  rw [findIdx?_recOk ok]
  refine (if_room_then room).trans ?_
  show (match r.askKick c recs with
    | (some _, _) => _
    | (none, _) => _) = _
  rw [State.askKick_of_present entries]
  rfl

/-! ## KVFILL (R267) -/

/-- A fill of a sequence that the descriptor holds, with its tokens below 2^24, is not beyond the key-value space. -/
theorem not_beyond {held : Bool} {n : Nat} (seq : held = true) (tokens : n ≤ 2 ^ 24) :
    ¬ (!held || decide (2 ^ 24 < n)) = true := by
  rw [seq, decide_eq_false (Nat.not_lt.2 tokens)]
  decide

/-! ## Commands of one ticket (R249) -/

/-- A command for which there is room takes a ticket and enters the queue, its ticket in D. -/
theorem State.queueOne_of_room {s : State} (room : s.queueRoom s.myCore 1 = true) (c : Ctx) (d : Dst) (kind : CmdKind)
    (sb units bytes : Nat) (spans : List (List (Nat × Nat))) :
    let t := s.takeTicket c.id.team
    s.queueOne c d kind sb units bytes spans =
      .done ((t.2.addCmd c kind t.1 (some sb) units bytes (creditOf spans)).setDst d c.ex fun _ => BitVec.ofNat 32 t.1) :=
  if_room_then room

end Sys2Proof.Machine

open Sys2Proof Sys2Proof.Machine

/-- Settles O22: past its entry and its checks each instruction finds room and queues its command. -/
theorem engineCommands : Obligations.EngineCommands := by
  intro g d a b e tid s t f c i one
  refine ⟨?kick, ?gather, ?embed, ?fill⟩
  case kick =>
    intro u r x n recs executes
    exact ⟨fun zero => issue_done executes (if_pos zero), kick_queues executes⟩
  case gather =>
    intro u r x y n sb ds w executes
    refine ⟨fun zero => issue_done executes (if_pos zero), fun positive read space layout extents room => ?_⟩
    exact issue_done executes ((if_neg positive.ne').trans ((read _).trans ((if_neg (by omega)).trans
      ((extents _).trans (State.queueOne_of_room room ..)))))
  case embed =>
    intro u r executes read space layout etype x w header present sound extents room
    exact completes_of_entry rfl executes read ((if_neg (by omega)).trans ((header _).trans ((if_room_then present).trans
      ((if_neg (Bool.eq_false_iff.1 sound)).trans ((extents _).trans (State.queueOne_of_room room ..))))))
  case fill =>
    intro u r executes read space rows root x y sb raw k desc seq tokens extents room
    refine completes_of_entry rfl executes read ((if_neg (by omega)).trans ((if_neg root).trans ?_))
    show (match KvDesc.ofNat raw with
      | none => _
      | some _ => _) = _
    rw [desc]
    exact (if_neg (not_beyond seq tokens)).trans ((extents _).trans (State.queueOne_of_room room ..))

end

section
/-!
PROOF. Engine units, walks and fault records (O43): what each step of the device comes to where its conditions hold.
-/

namespace Sys2Proof.Machine

/-! ## Engine commands (R248, R251, R253, R264) -/

theorem exec_commandServiceStart (c : CoreId) (id : Nat) (s : State) :
    exec (.commandServiceStart c id) s = execCommandServiceStart c id s := rfl
theorem exec_engineUnitLands (c : CoreId) (id lane unit : Nat) (s : State) :
    exec (.engineUnitLands c id lane unit) s = execEngineUnitLands c id lane unit s := rfl
theorem exec_embExchange (c : CoreId) (id : Nat) (remote : List RemoteRow) (s : State) :
    exec (.embExchange c id remote) s = execEmbExchange c id remote s := rfl

/-- An exchange of no rows goes on at once. -/
theorem embGather_nil (c : CoreId) (k : Cmd) (t : Tensor) (desc : Nat) (remote : List RemoteRow) (s : State)
    (go : List (Nat × Option (List Word) × Bool) → State → Serve) : embGather c k t desc remote s go [] = go [] s := rfl

/-- Where this package owns every row of a list, no other package is asked for one (R265). -/
theorem ownersElsewhere_nil {owner : Nat → Nat} {me : Nat} {rows : List Nat} (mine : ∀ row ∈ rows, owner row = me) :
    (((rows ++ []).map owner).eraseDups.filter fun p => p != me) = [] := by
  rw [List.append_nil, List.filter_eq_nil_iff]
  intro p mem
  obtain ⟨row, among, rfl⟩ := List.mem_map.1 (List.mem_eraseDups.1 mem)
  simp [mine row among]

section
variable {s : State} {c : CoreId} {id : Nat} {k : Cmd} (found : s.cmd c id = some k)
include found

/-- A copy whose stream's turn it is begins service: its grant is spent, and nothing stands before its units (R248). -/
theorem commandServiceStart_copy (queued : k.state = 0) (fresh : k.stopped = []) (first : s.queuedBefore c k = false)
    (turn : s.svcTurn c k = true) (copy : (∃ tag ls, k.kind = .cpyGs tag ls) ∨ ∃ tag ls, k.kind = .cpySg tag ls) :
    let st : StreamId := ⟨k.team, k.grp, k.x⟩
    let k' := { k with state := 1, stopped := [] }
    let s' := (s.modCore c fun x => { x with svc := x.svc.spend st (s.weight st) }).modCmd c id fun _ => k'
    exec (.commandServiceStart c id) s = .next (s'.startServe c k' (.out (padUnit [] false) s')) := by
  rcases copy with ⟨tag, ls, kind⟩ | ⟨tag, ls, kind⟩ <;>
    simp [exec_commandServiceStart, execCommandServiceStart, found, queued, fresh, first, turn, kind]

section
variable {lane unit : Nat} (serving : k.state ≠ 0)
  (pending : (k.landed ++ k.sent ++ k.failed).contains (lane + unit) = false) (free : k.barred (lane + unit) = false)
include serving pending free

/-- The service of a unit that is still to land, where no other unit of its command waits, decides its step: it is written, waits, or
fails, a lane transfer alone and any other unit with its command (R251, R253). -/
theorem engineUnitLands_out {o : UnitOut} {t : State} (served : serveUnit c k (lane + unit) s = .out o t) :
    exec (.engineUnitLands c id lane unit) s =
      .next ((t.unbar c k (lane + unit)).unitOut c k (lane + unit) o (.engineUnitLands c id lane unit)) := by
  simp only [exec_engineUnitLands, execEngineUnitLands, found, serving, pending, free, served, Bool.false_eq_true, or_self, if_false]

theorem engineUnitLands_wait {t : State} {susp : Bool} (served : serveUnit c k (lane + unit) s = .wait t susp)
    (turn : k.inTurn (lane + unit) = true) :
    exec (.engineUnitLands c id lane unit) s =
      .next ((t.modCmd c id fun x => x.stop (lane + unit) susp).again (.engineUnitLands c id lane unit)) := by
  simp only [exec_engineUnitLands, execEngineUnitLands, found, serving, pending, free, served, turn, Bool.false_eq_true, or_self, if_false,
    if_true]

theorem engineUnitLands_fail {code adr : Nat} {t : State} (served : serveUnit c k (lane + unit) s = .fail code adr t)
    (turn : k.inTurn (lane + unit) = true) :
    exec (.engineUnitLands c id lane unit) s =
      .next (if k.tag.isSome then t.failLane c k (lane + unit) adr (k.laneLines (lane + unit)) else t.failCmd c k code) := by
  simp only [exec_engineUnitLands, execEngineUnitLands, found, serving, pending, free, served, turn, Bool.false_eq_true, or_self, if_false,
    Bool.not_true]

end

/-- The rows of an embedding command of this package's own arrive, where neither a prefetch buffer nor a hot set has a part (R264). -/
theorem embExchange_arrives {tid d : Nat} {t : Tensor} {i b h : List (Nat × Bool)} {r : List (Nat × Option (List Word) × Bool)}
    (kind : k.kind = .emb tid t d i b h r false) (serving : k.state ≠ 0) (plain : t.ecm = 0)
    {idx bag : List (Nat × Bool)} {need : List Nat × List (Nat × Option (List Word) × Bool)}
    (indices : s.padWords k.team (embIdx d) (min (embN d) (2 ^ 20)) = idx)
    (bags : s.padWords k.team (embBag d) (min (embNb d) 65536 + 1) = bag)
    (needs : embSplit [] [] (idx.map (·.1)) = need) (sound : embOk t d (bag.map (·.1)) [] = true)
    (mine : ∀ row ∈ need.1, embFirst d + row % embOwners d = s.pkg.id)
    {remote : List RemoteRow} {o : UnitOut} {q : State}
    (gathered : embGather c k t d remote s (fun rows s =>
      .out (padUnit [] false) (s.modCmd c id fun x =>
        { x with kind := .emb tid t d idx bag [] (rows ++ need.2) true, stopped := [] })) need.1 = .out o q)
    {k' : Cmd} (still : q.cmd c id = some k') : exec (.embExchange c id remote) s = .next (q.startUnits c k') := by
  have cold : ¬ t.ecm = 2 := by omega
  have unaided : ¬ t.ecm = 1 := by omega
  simp only [exec_embExchange, execEmbExchange, found, kind, serving, cold, unaided, if_false, false_and, List.map_nil, indices, bags,
    needs, sound, Bool.not_true, Bool.false_eq_true, ownersElsewhere_nil mine, List.foldl_nil, ite_self, embGather_nil, gathered, still]

end

/-- R248, R251, R253, R264: a copy's start of service, a unit by what its service comes to, and the rows of an embedding command. -/
theorem engineSteps : Claims.EngineSteps := by
  intro s c id k found
  refine ⟨fun queued fresh first turn tag ls copy => ?start, ?unit, ?rows⟩
  case start =>
    refine commandServiceStart_copy found queued fresh first turn ?_
    exact copy.imp (fun kind => ⟨tag, ls, kind⟩) fun ⟨ls', kind⟩ => ⟨tag, ls', kind⟩
  case unit =>
    intro lane unit u serving pending free
    exact ⟨fun o t served => engineUnitLands_out found serving pending free served,
      fun t susp served turn => engineUnitLands_wait found serving pending free served turn,
      fun code adr t served turn => engineUnitLands_fail found serving pending free served turn⟩
  case rows =>
    intro tid t d i b h r remote idx bag need kind serving plain sound mine o q gathered k' still
    exact embExchange_arrives found kind serving plain rfl rfl rfl sound mine gathered still

/-! ## Walks and fault records (R287-R293, R300) -/

theorem exec_pageWalk (c : CoreId) (id : Nat) (s : State) : exec (.pageWalk c id) s = execPageWalk c id s := rfl
theorem exec_kvWalk (c : CoreId) (id : Nat) (s : State) : exec (.kvWalk c id) s = execKvWalk c id s := rfl
theorem exec_faultRecord (home : Nat) (c : CoreId) (id : Nat) (rec : FaultRec) (s : State) :
    exec (.faultRecord home c id rec) s = execFaultRecord home c id rec s := rfl
theorem exec_faultResponse (c : CoreId) (reply : WalkAnswer) (s : State) :
    exec (.faultResponse c reply) s = execFaultResponse c reply s := rfl

/-- A walk's slot names a ring and a place in it, and none is 0. -/
theorem slotName_parts {home : Nat} (die : home < 4) (n : Nat) :
    slotName home n ≠ 0 ∧ (slotName home n - 1) % 4 = home ∧ (slotName home n - 1) / 4 = n := by
  unfold slotName
  omega

section
variable {s : State} {c : CoreId} {id : Nat} {w : Walk} (found : (s.core c).walks.find? (fun w => w.id == id) = some w)
include found

section
variable (walking : w.phase = .walking)
include walking

section
variable (first : (s.core c).lowerWalks w = false)
include first

/-- A walk whose turn it is ends by what it finds in the tables: it fills the TLBs, its record goes to its home, or it is fatal
(R289, R290, R292). -/
theorem pageWalk_ok {t : Trans} (translated : s.walkFor w.need w.asid w.addr.toNat = .ok t) (unlogged : w.logged = false) :
    exec (.pageWalk c id) s = .next ((s.tlbPut c w.asid w.addr.toNat t).dropWalk c id) := by
  simp [exec_pageWalk, execPageWalk, found, walking, first, translated, unlogged]

theorem pageWalk_missing (missing : s.walkFor w.need w.asid w.addr.toNat = .missing) :
    exec (.pageWalk c id) s = .next (s.walkMissing c w (s.faultHome c.die w.asid w.addr.toNat)) := by
  simp [exec_pageWalk, execPageWalk, found, walking, first, missing]

theorem pageWalk_fatal (fatal : s.walkFor w.need w.asid w.addr.toNat = .fatal) :
    exec (.pageWalk c id) s = .next (s.walkFatal c w) := by
  simp [exec_pageWalk, execPageWalk, found, walking, first, fatal]

end

/-- A key-value walk fills its own entry, or its record goes to the home that its descriptor names (R300, R301). -/
theorem kvWalk_ok {e} (translated : s.kvWalkIn (s.walkDesc c w) w.asid w.addr.toNat (w.need == .kvRw) = .ok e) :
    exec (.kvWalk c id) s = .next ((s.kvPut c e).dropWalk c id) := by
  simp [exec_kvWalk, execKvWalk, found, walking, translated]

theorem kvWalk_missing {d : KvDesc} (missing : s.kvWalkIn (some d) w.asid w.addr.toNat (w.need == .kvRw) = .missing)
    (desc : s.walkDesc c w = some d) : exec (.kvWalk c id) s = .next (s.walkMissing c w (d.fppkg, d.fpdie)) := by
  simp [exec_kvWalk, execKvWalk, found, walking, desc, missing]

end

section
variable (answered : w.phase = .answered)
include answered

/-- An answered walk goes on once a walker is free (R289, R293; log 44). -/
theorem pageWalk_answered :
    exec (.pageWalk c id) s = .next ((s.modWalk c id fun x => { x with phase := s.walkAgain c false }).again (.pageWalk c id)) := by
  simp [exec_pageWalk, execPageWalk, found, answered]

theorem kvWalk_answered :
    exec (.kvWalk c id) s = .next ((s.modWalk c id fun x => { x with phase := s.walkAgain c true }).again (.kvWalk c id)) := by
  simp [exec_kvWalk, execKvWalk, found, answered]

end

section
variable (faulted : w.phase = .faulted)
include faulted

/-- The answer of another package's home ends the wait for a record that has gone there (log 25). -/
theorem faultResponse_input (away : s.recordAway c w = true) (ok : Bool) :
    exec (.faultResponse c ⟨id, some ok⟩) s = .next (if ok then s.retryWalk c w else s.walkFatal c w) := by
  simp [exec_faultResponse, execFaultResponse, found, faulted, away]

section
variable {home n : Nat} (die : home < 4) (slot : w.slot = slotName home n)
include die slot

/-- The answer that stands with a record in its die's ring decides what becomes of its walk (R293). -/
theorem faultResponse_retry (answer : field (s.readNat 0 (ringAddr (s.die home) n) 1) 4 2 = 1) :
    exec (.faultResponse c ⟨id, none⟩) s = .next (s.retryWalk c w) := by
  obtain ⟨noted, ring, place⟩ := slotName_parts die n
  simp [exec_faultResponse, execFaultResponse, found, faulted, slot, noted, ring, place, answer]

theorem faultResponse_fatal (answer : field (s.readNat 0 (ringAddr (s.die home) n) 1) 4 2 = 2) :
    exec (.faultResponse c ⟨id, none⟩) s = .next (s.walkFatal c w) := by
  obtain ⟨noted, ring, place⟩ := slotName_parts die n
  simp [exec_faultResponse, execFaultResponse, found, faulted, slot, noted, ring, place, answer]

theorem faultResponse_again (retry : field (s.readNat 0 (ringAddr (s.die home) n) 1) 4 2 ≠ 1)
    (fatal : field (s.readNat 0 (ringAddr (s.die home) n) 1) 4 2 ≠ 2) :
    exec (.faultResponse c ⟨id, none⟩) s = .next (s.again (.faultResponse c ⟨id, none⟩)) := by
  obtain ⟨noted, ring, place⟩ := slotName_parts die n
  simp [exec_faultResponse, execFaultResponse, found, faulted, slot, noted, ring, place]

end

end

end

@[simp] theorem State.die_modDie_same (s : State) (d : Nat) (f : Die → Die) : (s.modDie d f).die d = f (s.die d) :=
  (State.die_setDie ..).trans (if_pos rfl)

/-- A record that reaches a die whose processor holds no other is put into the ring at once (R291). -/
theorem faultRecord_put {s : State} {home : Nat} {c : CoreId} {id : Nat} {rec : FaultRec} (idle : (s.die home).waiting = [])
    (first : s.sentBefore home c id = false) :
    let q := (s.modDie home fun d => { d with waiting := [(c, id, rec)] }).putRecord home
    (q.die home).waiting = [] → exec (.faultRecord home c id rec) s = .next q := by
  intro q taken
  have arrived : (s.modDie home fun d => { d with waiting := d.waiting ++ [(c, id, rec)] }) =
      s.modDie home fun d => { d with waiting := [(c, id, rec)] } := by
    simp [State.modDie, idle]
  simp only [exec_faultRecord, execFaultRecord, first, idle, List.any_nil, Bool.false_eq_true, if_false, arrived, State.die_modDie_same,
    List.length_singleton, List.range_one, List.foldl_cons, List.foldl_nil]
  show Host.Outcome.next (if (q.die home).waiting.any _ then _ else q) = _
  rw [taken]
  rfl

/-- R287-R293, R300: a walk by its phase and by what it finds, and a record that meets no other; the phase of a walk that is taken up
again is `State.walkAgain`'s. -/
theorem translationFaults : Claims.TranslationFaults := by
  intro s c id w found
  refine ⟨fun walking => ⟨fun first => ⟨?_, ?_, ?_⟩, ?_, ?_⟩, fun answered => ⟨?_, ?_⟩, fun faulted => ⟨?ring, ?input⟩, ?record⟩
  · exact fun t translated unlogged => pageWalk_ok found walking first translated unlogged
  · exact pageWalk_missing found walking first
  · exact pageWalk_fatal found walking first
  · exact fun e translated => kvWalk_ok found walking translated
  · exact fun d missing desc => kvWalk_missing found walking missing desc
  · exact pageWalk_answered found answered
  · exact kvWalk_answered found answered
  case ring =>
    intro home n die slot resp
    exact ⟨faultResponse_retry found faulted die slot, faultResponse_fatal found faulted die slot,
      faultResponse_again found faulted die slot⟩
  case input => exact fun away => ⟨faultResponse_input found faulted away true, faultResponse_input found faulted away false⟩
  case record => exact fun home rec idle first => faultRecord_put idle first

end Sys2Proof.Machine

open Sys2Proof Sys2Proof.Machine

/-- Settles O43: each step of the engines, of a walk and of a fault processor takes the one branch that its conditions leave. -/
theorem enginesAndFaults : Obligations.EnginesAndFaults := ⟨engineSteps, translationFaults⟩

end

section
/-!
PROOF. Key-value management (O23): the lanes of an operation act in one cycle, and past its release an operation of a group that
executes alone acts on its lanes afresh.
-/

namespace Sys2Proof.Machine

/-! ## What leaves the time as it is: all that a key-value operation does to the state -/

@[simp] theorem State.time_ite (c : Prop) [Decidable c] (a b : State) : (if c then a else b).time = if c then a.time else b.time :=
  apply_ite State.time c a b

@[simp] theorem State.time_foldl {α : Type} (f : State → α → State) (keeps : ∀ s a, (f s a).time = s.time) (l : List α) (s : State) :
    (l.foldl f s).time = s.time :=
  List.foldlRecOn (motive := fun q : State => q.time = s.time) l f rfl fun q kept a _ => (keeps q a).trans kept

section
variable (s : State)

theorem State.time_writePas (key a : Nat) (bs : List Byte) : (s.writePas key a bs).time = s.time := by
  induction bs generalizing s a with
  | nil => rfl
  | cons b bs ih => exact (ih _ _).trans (by simp)

@[simp] theorem State.time_writeNat (key a n x : Nat) : (s.writeNat key a n x).time = s.time := s.time_writePas ..
@[simp] theorem State.time_noteWrite (k : Nat) : (s.noteWrite k).time = s.time := by simp [State.noteWrite]
@[simp] theorem State.time_storeLine (c : CoreId) (key : Nat) (w : LWrite) : (s.storeLine c key w).time = s.time := by
  simp [State.storeLine]
@[simp] theorem State.time_drainQueue (id : StreamId) : (s.drainQueue id).time = s.time := by simp [State.drainQueue]
@[simp] theorem State.time_drainGroup (t g : Nat) : (s.drainGroup t g).time = s.time := by simp [State.drainGroup]
@[simp] theorem State.time_askCkpt (t : Nat) : (s.askCkpt t).time = s.time := by simp [State.askCkpt]
@[simp] theorem State.time_releaseLehr (c : CoreId) : (s.releaseLehr c).time = s.time := by simp [State.releaseLehr]
@[simp] theorem State.time_enterLehr (c : CoreId) (team grp : Nat) (x : Bool) (date : Nat) (w : LWork) :
    (s.enterLehr c team grp x date w).time = s.time := by simp [State.enterLehr, State.fresh]
@[simp] theorem State.time_depart (c : CoreId) (team grp key : Nat) : (s.depart c team grp key).time = s.time := by
  simp [State.depart]
@[simp] theorem State.time_setLineAt (r : LineRef) (l : LineReg) : (s.setLineAt r l).time = s.time := rfl
@[simp] theorem State.time_leaveLine (r : LineRef) : (s.leaveLine r).time = s.time := by simp [State.leaveLine]

@[simp] theorem State.time_wakeReg (r : LineRef) (cause : Nat) : (s.wakeReg r cause).time = s.time := by
  refine State.time_foldl _ (fun q x => ?_) _ _
  split <;> simp

@[simp] theorem State.time_recallReg (r : LineRef) : (s.recallReg r).time = s.time := by
  unfold State.recallReg
  dsimp only
  split
  · rfl
  · split <;> simp

@[simp] theorem State.time_recallKv (f : LineReg → Bool) : (s.recallKv f).time = s.time := by simp [State.recallKv]
@[simp] theorem State.time_dropKv (pe : Nat) : (s.dropKv pe).time = s.time := rfl
@[simp] theorem State.time_dropWalk (c : CoreId) (id : Nat) : (s.dropWalk c id).time = s.time := rfl
@[simp] theorem State.time_modWalk (c : CoreId) (id : Nat) (f : Walk → Walk) : (s.modWalk c id f).time = s.time := rfl
@[simp] theorem State.time_forgetWalk (c : CoreId) (w : Walk) : (s.forgetWalk c w).time = s.time := by simp [State.forgetWalk]
@[simp] theorem State.time_retryKv (root : DWord) (page : Nat) : (s.retryKv root page).time = s.time := by
  simp [State.retryKv, State.fresh]
@[simp] theorem State.time_putPe (pe : Nat) (p w : Bool) (rc : Nat) : (s.putPe pe p w rc).time = s.time := by simp [State.putPe]
@[simp] theorem State.time_putL1 (l1 x : Nat) : (s.putL1 l1 x).time = s.time := by simp [State.putL1]

theorem State.time_kvMapOp (root : DWord) (d : KvDesc) (a b : Nat) : (s.kvMapOp root d a b).2.time = s.time := by
  unfold State.kvMapOp
  split
  · rfl
  · split
    all_goals
      dsimp only
      repeat' split
    all_goals simp

theorem State.time_kvSource {d : KvDesc} {a : Nat} {go : Nat → Nat → State → KvOut × State}
    (keeps : ∀ l1 pe q, (go l1 pe q).2.time = q.time) : (s.kvSource d a go).2.time = s.time := by
  unfold State.kvSource
  split
  · rfl
  · rfl
  · dsimp only
    split_ifs
    · rfl
    · rfl
    · exact keeps _ _ s

theorem State.time_kvForkOp (d : KvDesc) (a b : Nat) : (s.kvForkOp d a b).2.time = s.time := by
  refine s.time_kvSource fun l1 pe q => ?_
  dsimp only
  split
  · rfl
  · split
    · rfl
    · rfl
    · split_ifs <;> simp

theorem State.time_kvDropOp (root : DWord) (d : KvDesc) (a : Nat) : (s.kvDropOp root d a).2.time = s.time := by
  refine s.time_kvSource fun l1 pe q => ?_
  dsimp only
  split <;> simp

theorem State.time_kvLane (o : KvOp) (root a b : DWord) : (s.kvLane o root a b).2.time = s.time := by
  unfold State.kvLane
  split
  · rfl
  · split
    · rfl
    · dsimp only
      split
      · rfl
      · cases o
        · exact s.time_kvMapOp ..
        · exact s.time_kvForkOp ..
        · exact s.time_kvDropOp ..

@[simp] theorem State.time_kvWords (x : KvOut) : (s.kvWords x).2.time = s.time := by
  unfold State.kvWords
  split <;> rfl

/-- The lanes of an operation act in one cycle. -/
theorem State.time_kvLanes (o : KvOp) (root : DWord) (ls : List (Nat × DWord × DWord)) : (s.kvLanes o root ls).2.time = s.time := by
  induction ls generalizing s with
  | nil => rfl
  | cons l ls ih => exact (ih _).trans ((State.time_kvWords _ _).trans (s.time_kvLane ..))

end

/-! ## The operation past its release -/

/-- What each executing lane asks of a key-value operation, in ascending order. -/
def State.kvAsked (s : State) (c : Ctx) (a b : Src) : List (Nat × DWord × DWord) :=
  (maskLanes c.ex).map fun i => (i, s.srcPair a i, s.srcPair b i)

/-- The record of a key-value operation that the journal keeps (R371). -/
def State.kvRecord (t : State) (c : Ctx) (o : KvOp) (ls : List (Nat × DWord × DWord)) (q : List (Nat × List Word) × State) : JRec :=
  ⟨q.2.nextId, c.id.grp, c.id.x, t.time, o.code,
    ls.map fun l => (l.1, l.2.1, l.2.2, (((q.1.find? fun p => p.1 == l.1).map (·.2)).getD [])), []⟩

/-- The journal takes the record, and the words are on their way to D. -/
def State.kvPerformed (t : State) (c : Ctx) (o : KvOp) (la : Fin 16) (d : Dst) (ls : List (Nat × DWord × DWord))
    (q : List (Nat × List Word) × State) : State :=
  ((q.2.fresh.2.modMyTeam fun y => { y with journal := y.journal ++ [t.kvRecord c o ls q] }).feedTrailer c.id.team c.id.grp
    fun _ => .words 0 q.1).kvResult c la d q.1 t.nextId

/-- Past its release an operation whose recalls find room acts lane by lane, in a group that executes alone and has no record of a
rolled-back run for its stream (R306-R308, R371, R377). -/
theorem kvBody_performs {c : Ctx} {r : State} {o : KvOp} {la : Fin 16} {d : Dst} {a b : Src} (here : r.cur.id = c.id)
    (alone : r.myGroup.dmr = .alone) (released : Claims.released c r fun dt x => x.allReleased c.id dt)
    (fresh : ∀ j ∈ (r.team c.id.team).replay, j.grp ≠ c.id.grp ∨ j.x ≠ c.id.x) :
    let t := r.clearRel c.id c.ex
    let q := t.kvLanes o r.myGroup.c.kvroot (r.kvAsked c a b)
    t.recallTakes c.id.team (t.recalledBy q.2) = true →
      kvBody o la d a b c r = .done (t.kvPerformed c o la d (r.kvAsked c a b) q) := by
  intro t q room
  have alone' : t.myGroup.dmr = .alone := (State.dmr_ordered here true).trans alone
  have unserved : t.replayOf c.id o.code (r.kvAsked c a b) = .fresh := by
    refine State.replayOf_fresh (fun j hj => fresh j ?_) _ _
    rwa [← State.replay_ordered r c true]
  rw [kvBody]
  dsimp only
  rw [releaseFirst_of_released released]
  refine (dmrGate_alone alone' _ _ _ _).trans ?_
  show (match t.replayOf c.id o.code (r.kvAsked c a b) with | .differs => _ | .served j => _ | .fresh => _) = _
  rw [unserved]
  refine (if_room_then room).trans ?_
  have now : q.2.time = t.time := t.time_kvLanes ..
  rw [State.kvPerformed, State.kvRecord, ← now]
  rfl

end Sys2Proof.Machine

open Sys2Proof Sys2Proof.Machine

/-- Settles O23: the three instructions are one body, whose release, room and fresh records the premises give. -/
theorem keyValueManagement : Obligations.KeyValueManagement := by
  intro g la d a b s plain c acts
  have performed (i : Instr) (o : KvOp) (b : Src) (u : Info) (guard : u.g = g)
      (meaning : exec i s = issue u (kvBody o la (.v d) a b) s) : acts i o b u := by
    subst guard
    intro executes released fresh room
    refine meaning.trans (issue_done executes (kvBody_performs (State.cur_id_begun ..) (State.dmr_begun plain _) released ?_ room))
    rwa [State.replay_begun]
  exact ⟨performed _ .map b _ rfl rfl, performed _ .fork b _ rfl rfl, performed _ .drop .z _ rfl rfl⟩

end

section
/-!
PROOF. The host's and the kiln cores' steps (O48): each by the branch that its queue, its window or the firmware leaves.
-/

namespace Sys2Proof.Machine

/-! ## Doorbells (R328, R329, R331) -/

theorem queueIs_eq_true {fn q : Nat} : queueIs fn q = true ↔ fn < 64 ∧ q < 256 := by simp [queueIs]

theorem queueIs_of_outside {fn q : Nat} (outside : 64 ≤ fn ∨ 256 ≤ q) : queueIs fn q = false :=
  Bool.eq_false_iff.2 fun inside => by
    obtain ⟨function, queue⟩ := queueIs_eq_true.1 inside
    omega

section
variable {s : State} {fn q : Nat} {tail : Word}

theorem queueDoorbell_outside (outside : 64 ≤ fn ∨ 256 ≤ q) : exec (.queueDoorbell fn q tail) s = .next s := by
  show execQueueDoorbell fn q tail s = _
  simp [execQueueDoorbell, queueIs_of_outside outside]

section
variable (valid : queueIs fn q = true)
include valid

/-- The doorbell of a queue that is off only writes TAIL. -/
theorem queueDoorbell_disabled (off : (s.queue fn q).en = false) :
    exec (.queueDoorbell fn q tail) s = .next (s.setQueueBlock fn q { s.queue fn q with tail := tail }) := by
  show execQueueDoorbell fn q tail s = _
  simp [execQueueDoorbell, valid, off]

/-- A queue that would hold more than its ring is closed. -/
theorem queueDoorbell_overfull (on : (s.queue fn q).en = true) (excess : (s.queue fn q).size < (tail - (s.queue fn q).head).toNat) :
    exec (.queueDoorbell fn q tail) s = .next (s.setQueueBlock fn q ({ s.queue fn q with tail := tail } : QBlock).off) := by
  show execQueueDoorbell fn q tail s = _
  simp only [execQueueDoorbell, valid, on, excess, Bool.not_true, Bool.false_eq_true, if_false, if_true]

theorem queueDoorbell_polls (on : (s.queue fn q).en = true) (fits : (tail - (s.queue fn q).head).toNat ≤ (s.queue fn q).size) :
    exec (.queueDoorbell fn q tail) s =
      .next ((s.setQueueBlock fn q { s.queue fn q with tail := tail }).pollOnce 1 (.queueEntry fn q)) := by
  show execQueueDoorbell fn q tail s = _
  simp only [execQueueDoorbell, valid, on, Nat.not_lt.2 fits, Bool.not_true, Bool.false_eq_true, if_false]

end

/-! ## Entries (R330, R331, R333) -/

/-- The address of a queue's next entry. -/
def QBlock.nextAt (b : QBlock) : Nat := b.base + 64 * (b.head.toNat % b.size)

/-- The queue with its next entry behind it. -/
def QBlock.stepped (b : QBlock) : QBlock := { b with head := b.head + 1 }

/-- An entry is acknowledged with n, and its queue steps over it. -/
def State.ackEntry (s : State) (fn q x n : Nat) : State :=
  let b := s.queue fn q
  ((s.writePa 0 (b.nextAt + 1) (BitVec.ofNat 8 (field x 8 8 / 4 * 4 + n))).noteWrite (memWatch b.nextAt)).setQueueBlock fn q b.stepped

/-- An entry goes to its agent. -/
def State.agentTakes (t : State) (fn q : Nat) (b : QBlock) (x kind : Nat) : State :=
  t.submitEntry fn q b.stepped kind (field x 4 2) (field x 64 64) (if field x 6 1 = 1 then some (fn, field x 10 11) else none)

/-- A queue that holds further entries looks at the next. -/
def State.lookOn (t : State) (fn q : Nat) (b : QBlock) : State :=
  if b.stepped.head = b.tail then t else t.pollOnce 1 (.queueEntry fn q)

theorem queueEntry_of_empty (empty : (s.queue fn q).head = (s.queue fn q).tail) : exec (.queueEntry fn q) s = .next s := by
  show execQueueEntry fn q s = _
  simp [execQueueEntry, empty]

section
variable {x : Nat} (booted : s.pkg.booted = true) (on : (s.queue fn q).en = true) (more : (s.queue fn q).head ≠ (s.queue fn q).tail)
  (entry : s.readNat 0 (s.queue fn q).nextAt 64 = x)
include booted on more entry

/-- An entry whose descriptor, where it has one, can be read is acknowledged and, where neither is bad, goes to its agent. -/
theorem queueEntry_takes {desc : Nat}
    (read : (if field x 0 4 = 2 ∧ entryBad x = false then s.readVirt 0 (s.queue fn q).asid (field x 64 64) 64 else some 0) = some desc) :
    exec (.queueEntry fn q) s = .next ((if entryBad x || descBad desc then s.ackEntry fn q x 2
      else (s.ackEntry fn q x 1).agentTakes fn q (s.queue fn q) x (field x 0 4)).lookOn fn q (s.queue fn q)) := by
  rw [QBlock.nextAt] at entry
  show execQueueEntry fn q s = _
  simp only [execQueueEntry, booted, on, beq_false_of_ne more, entry, read, Bool.not_true, Bool.or_self, Bool.false_eq_true, if_false]
  cases bad : entryBad x || descBad desc with
  | false => simp only [State.lookOn, State.agentTakes, State.ackEntry, QBlock.nextAt, QBlock.stepped, Bool.false_eq_true, if_false]
  | true => simp only [State.lookOn, State.ackEntry, QBlock.nextAt, QBlock.stepped, if_true]

theorem queueEntry_rejects (bad : entryBad x = true) :
    exec (.queueEntry fn q) s = .next ((s.ackEntry fn q x 2).lookOn fn q (s.queue fn q)) := by
  have read : (if field x 0 4 = 2 ∧ entryBad x = false then s.readVirt 0 (s.queue fn q).asid (field x 64 64) 64 else some 0) = some 0 :=
    if_neg fun h => by simp [bad] at h
  simpa [bad] using queueEntry_takes booted on more entry read

/-- Launches and graphs have no descriptor that the queue reads. -/
theorem queueEntry_submits (good : entryBad x = false) (kind : field x 0 4 ≠ 2) :
    exec (.queueEntry fn q) s = .next (((s.ackEntry fn q x 1).agentTakes fn q (s.queue fn q) x (field x 0 4)).lookOn fn q (s.queue fn q)) := by
  have read : (if field x 0 4 = 2 ∧ entryBad x = false then s.readVirt 0 (s.queue fn q).asid (field x 64 64) 64 else some 0) = some 0 :=
    if_neg fun h => kind h.1
  have fine : descBad 0 = false := by decide
  simpa [good, fine] using queueEntry_takes booted on more entry read

section
variable {desc : Nat} (good : entryBad x = false) (kind : field x 0 4 = 2)
  (read : s.readVirt 0 (s.queue fn q).asid (field x 64 64) 64 = some desc)
include good kind read

theorem queueEntry_rejectsCollective (bad : descBad desc = true) :
    exec (.queueEntry fn q) s = .next ((s.ackEntry fn q x 2).lookOn fn q (s.queue fn q)) := by
  simpa [bad] using queueEntry_takes booted on more entry ((if_pos ⟨kind, good⟩).trans read)

theorem queueEntry_submitsCollective (fine : descBad desc = false) :
    exec (.queueEntry fn q) s = .next (((s.ackEntry fn q x 1).agentTakes fn q (s.queue fn q) x 2).lookOn fn q (s.queue fn q)) := by
  simpa [good, fine, kind] using queueEntry_takes booted on more entry ((if_pos ⟨kind, good⟩).trans read)

end

end

/-! ## The management window (R340) -/

theorem managementAccess_reads (pa : DWord) (n : Nat) :
    exec (.managementAccess pa n none) s = .next (s.answer (if managed pa.toNat n then s.readPas 0 pa.toNat n else [])) := rfl

theorem managementAccess_writes {pa : DWord} {bs : List Byte} (n : Nat) (inside : managed pa.toNat bs.length = true) :
    exec (.managementAccess pa n (some bs)) s = .next ((s.writePas 0 pa.toNat bs).noteWrite (memWatch pa.toNat)) :=
  congrArg Host.Outcome.next (if_pos inside)

theorem managementAccess_aborts {pa : DWord} {bs : List Byte} (n : Nat) (outside : managed pa.toNat bs.length = false) :
    exec (.managementAccess pa n (some bs)) s = .next (s.answer []) :=
  congrArg Host.Outcome.next (if_neg (Bool.eq_false_iff.1 outside))

/-! ## BAR0 and BAR2 (R328, R329) -/

/-- The translation of a host transfer in a queue's context, which reaches no host memory. -/
def State.hostTrans (s : State) (fn q : Nat) (k : FaultKind) (a : Nat) : Option Trans :=
  (s.virt k (s.queue fn q).asid a).filter fun t => !t.host

theorem bar2_reaches {α : Type} {tr : Nat → Option α} {va n : Nat} :
    (inBar2 va n && (List.range n).all fun i => (tr (va + i)).isSome) = true ↔ va + n ≤ 2 ^ 36 ∧ ∀ i < n, tr (va + i) ≠ none := by
  simp [inBar2, Option.isSome_iff_ne_none]

theorem hostBar2Access_unserved {va : DWord} {n : Nat} {acc : HostAccess} (unserved : s.pkg.booted = false ∨ queueIs fn q = false) :
    exec (.hostBar2Access fn q va n acc) s = .next (s.answer []) := by
  have closed : (!s.pkg.booted || !queueIs fn q) = true := by
    rcases unserved with off | outside
    · simp [off]
    · simp [outside]
  exact congrArg Host.Outcome.next (if_pos closed)

section
variable (booted : s.pkg.booted = true) (valid : queueIs fn q = true)
include booted valid

theorem hostBar2Access_block {va : DWord} {n : Nat} :
    exec (.hostBar2Access fn q va n .block) s = .next (s.answer (s.queue fn q).bytes) := by
  show execHostBar2Access fn q va n .block s = _
  simp [execHostBar2Access, booted, valid]

/-- A read answers its bytes where all of it is in the window and translates, else an abort. -/
theorem hostBar2Access_read {va : DWord} {n : Nat} :
    exec (.hostBar2Access fn q va n .read) s = .next (s.answer
      (if va.toNat + n ≤ 2 ^ 36 ∧ ∀ i < n, s.hostTrans fn q .engRead (va.toNat + i) ≠ none then (List.range n).map fun i =>
        ((s.hostTrans fn q .engRead (va.toNat + i)).map fun t => s.readTr t 0 (va.toNat + i)).getD 0 else [])) := by
  show execHostBar2Access fn q va n .read s = _
  simp only [execHostBar2Access, booted, valid, Bool.not_true, Bool.or_self, Bool.false_eq_true, if_false, List.all_map, List.map_map,
    Function.comp_def, Option.isSome_map]
  exact congrArg (fun bs => Host.Outcome.next (s.answer bs)) (if_congr (bar2_reaches (tr := s.hostTrans fn q .engRead)) rfl rfl)

/-- A write likewise writes its bytes or answers an abort. -/
theorem hostBar2Access_write {va : DWord} {n x : Nat} :
    exec (.hostBar2Access fn q va n (.write x)) s = .next
      (if va.toNat + n ≤ 2 ^ 36 ∧ ∀ i < n, s.hostTrans fn q .engWrite (va.toNat + i) ≠ none then
        s.putBytes 0 (s.hostTrans fn q .engWrite) ((leBytes n x).zipIdx.map fun p => (va.toNat + p.2, p.1)) [] else s.answer []) := by
  show execHostBar2Access fn q va n (.write x) s = _
  simp only [execHostBar2Access, booted, valid, Bool.not_true, Bool.or_self, Bool.false_eq_true, if_false]
  exact congrArg Host.Outcome.next (if_congr (bar2_reaches (tr := s.hostTrans fn q .engWrite)) rfl rfl)

end

/-- A transfer that leaves the window, or a byte of which does not translate, is not carried out. -/
theorem not_bar2_reached {α : Type} {va n : Nat} {tr : Nat → Option α} (missing : 2 ^ 36 < va + n ∨ ∃ i < n, tr (va + i) = none) :
    ¬ (va + n ≤ 2 ^ 36 ∧ ∀ i < n, tr (va + i) ≠ none) := by
  rintro ⟨inside, translated⟩
  obtain outside | ⟨i, lt, fault⟩ := missing
  · omega
  · exact translated i lt fault

end

theorem hostSteps : Claims.HostSteps := by
  intro s fn q tail
  refine ⟨⟨queueDoorbell_outside, fun function queue => ?doorbell, queueEntry_of_empty, fun booted on more => ?entry⟩,
    fun pa n bs => ⟨managementAccess_reads pa n, managementAccess_writes n, managementAccess_aborts n⟩,
    ⟨fun unserved va n acc => ?unserved, fun booted function queue => ?transfers⟩⟩
  case doorbell =>
    have valid := queueIs_eq_true.2 ⟨function, queue⟩
    exact ⟨queueDoorbell_disabled valid, queueDoorbell_overfull valid, queueDoorbell_polls valid⟩
  case entry =>
    refine ⟨queueEntry_rejects booted on more rfl, queueEntry_submits booted on more rfl, fun desc good kind read => ⟨?_, ?_⟩⟩
    · exact queueEntry_rejectsCollective booted on more rfl good kind read
    · exact queueEntry_submitsCollective booted on more rfl good kind read
  case unserved =>
    exact hostBar2Access_unserved (unserved.imp_right queueIs_of_outside)
  case transfers =>
    have valid := queueIs_eq_true.2 ⟨function, queue⟩
    refine ⟨fun va n => hostBar2Access_block booted valid, fun va n => ⟨fun inside translated => ?_, fun missing => ?_⟩,
      fun va n x => ⟨fun inside translated => ?_, fun missing => ?_⟩⟩
    · exact (hostBar2Access_read booted valid).trans (congrArg (fun bs => Host.Outcome.next (s.answer bs)) (if_pos ⟨inside, translated⟩))
    · exact (hostBar2Access_read booted valid).trans (congrArg (fun bs => Host.Outcome.next (s.answer bs)) (if_neg (not_bar2_reached missing)))
    · exact (hostBar2Access_write booted valid).trans (congrArg Host.Outcome.next (if_pos ⟨inside, translated⟩))
    · exact (hostBar2Access_write booted valid).trans (congrArg Host.Outcome.next (if_neg (not_bar2_reached missing)))

/-! ## The kiln cores' registers (R284, R290, R291, R313, R329, R339, R345, R355, R359, R381) -/

theorem configWrite_of_unbooted {s : State} (off : s.pkg.booted = false) (reg : ConfigReg) (v : Nat) :
    exec (.configWrite reg v) s = .next s :=
  congrArg Host.Outcome.next (if_pos (by simp [off]))

section
variable {s : State} (booted : s.pkg.booted = true) (v : Nat)
include booted

/-- Once the firmware runs, a write of a register has that register's meaning. -/
theorem configWrite_of_booted {reg : ConfigReg} {t : State}
    (meaning : execConfigWrite reg v s = .next (if !s.pkg.booted then s else t)) : exec (.configWrite reg v) s = .next t :=
  Eq.trans meaning (congrArg Host.Outcome.next (if_neg (by simp [booted])))

theorem configWrite_ownership {i : Nat} (inside : i < 256) : exec (.configWrite (.ownership i) v) s =
    .next (s.modPkg fun p => { p with own := SMap.set 0 p.own i (BitVec.ofNat 256 v) }) :=
  (configWrite_of_booted booted v rfl).trans (congrArg Host.Outcome.next (if_pos inside))

theorem configWrite_ownership_outside {i : Nat} (outside : 256 ≤ i) : exec (.configWrite (.ownership i) v) s = .next s :=
  (configWrite_of_booted booted v rfl).trans (congrArg Host.Outcome.next (if_neg (Nat.not_lt.2 outside)))

theorem configWrite_comparator (d c : Nat) {i : Nat} (inside : i < 12) : exec (.configWrite (.comparator d c i) v) s =
    .next (s.modCore ⟨d, c⟩ fun k => { k with cmp := SMap.set 0 k.cmp i (BitVec.ofNat 128 v) }) :=
  (configWrite_of_booted booted v rfl).trans (congrArg Host.Outcome.next (if_pos inside))

theorem configWrite_comparator_outside (d c : Nat) {i : Nat} (outside : 12 ≤ i) : exec (.configWrite (.comparator d c i) v) s = .next s :=
  (configWrite_of_booted booted v rfl).trans (congrArg Host.Outcome.next (if_neg (Nat.not_lt.2 outside)))

section
variable {fn q : Nat} (valid : queueIs fn q = true)
include valid

/-- A queue whose binding leaves it off, or which is empty, has no entry to look at. -/
theorem configWrite_queueBlock_idle {b : QBlock} (bound : b = { s.queue fn q with block := queueBits v })
    (idle : b.en = false ∨ b.head = b.tail) : exec (.configWrite (.queueBlock fn q) v) s = .next (s.setQueueBlock fn q b) := by
  subst bound
  refine (configWrite_of_booted booted v rfl).trans (congrArg Host.Outcome.next ?_)
  rcases idle with off | empty
  · simp [valid, off]
  · have none_ : (s.queue fn q).head = (s.queue fn q).tail := empty
    simp [valid, none_]

theorem configWrite_queueBlock_polls {b : QBlock} (bound : b = { s.queue fn q with block := queueBits v }) (on : b.en = true)
    (more : b.head ≠ b.tail) :
    exec (.configWrite (.queueBlock fn q) v) s = .next ((s.setQueueBlock fn q b).pollOnce 1 (.queueEntry fn q)) := by
  subst bound
  refine (configWrite_of_booted booted v rfl).trans (congrArg Host.Outcome.next ?_)
  simp [valid, on, more]

end

end

theorem configuration : Claims.Configuration := by
  intro s v d c i
  refine ⟨fun off reg => configWrite_of_unbooted off reg v, fun booted => ?_⟩
  have sets {reg : ConfigReg} {t : State} := configWrite_of_booted booted v (reg := reg) (t := t)
  refine ⟨sets rfl, sets rfl, sets rfl, sets rfl, sets rfl, configWrite_ownership booted v, configWrite_ownership_outside booted v, sets rfl,
    configWrite_comparator booted v d c, configWrite_comparator_outside booted v d c, sets rfl, fun fn q function queue => ?_, sets rfl⟩
  have valid := queueIs_eq_true.2 ⟨function, queue⟩
  exact ⟨configWrite_queueBlock_idle booted v valid rfl, configWrite_queueBlock_polls booted v valid rfl⟩

end Sys2Proof.Machine

open Sys2Proof Sys2Proof.Machine

/-- Settles O48: a queue's, a window's or a register's step takes the one branch that its conditions leave. -/
theorem hostAndConfiguration : Obligations.HostAndConfiguration := ⟨hostSteps, configuration⟩

end

section
/-!
PROOF. The fabric, the package's reset and its keys, and the debug interface (O49): each step by the branch that its conditions leave.
-/

namespace Sys2Proof.Machine

/-! ## Collectives (R331-R335; log 29) -/

section
variable {s : State} {id : Nat} {c : Coll} (found : s.pkg.colls.find? (fun c => c.id == id) = some c)

section
include found

/-- A collective whose queue's earlier ones have their descriptors takes its own. -/
theorem collectiveSubmit_takes {x : Nat} (new : c.desc = [])
    (turn : ∀ k ∈ s.pkg.colls.takeWhile (fun k => k.id != id), k.fn = c.fn → k.q = c.q → k.desc ≠ [])
    (read : s.readVirt 0 c.asid c.va.toNat 64 = some x) :
    exec (.collectiveSubmit c.fn c.q id) s = .next ((s.modColl id fun c => { c with desc := collFields x }).collOver id) := by
  have first : ((s.pkg.colls.takeWhile fun k => k.id != id).any fun k => k.fn == c.fn && k.q == c.q && k.desc.isEmpty) = false := by
    rw [List.any_eq_false]
    intro k before
    simpa using turn k before
  show execCollectiveSubmit c.fn c.q id s = _
  simp [execCollectiveSubmit, found, new, first, read]

/-- One that has its descriptor looks whether it is over. -/
theorem collectiveSubmit_again (taken : c.desc ≠ []) : exec (.collectiveSubmit c.fn c.q id) s = .next (s.collOver id) := by
  show execCollectiveSubmit c.fn c.q id s = _
  simp [execCollectiveSubmit, found, taken]

end

/-! ## Pieces (R332-R334, R338) -/

section
variable {chunk : Nat} (whole : c.at 0 ≠ 2) (members : Nat)
include found whole

/-- What is no reduce-scatter sends a chunk as one piece: by the lane that carries it. -/
theorem State.sendPieces_reach {lane : Nat} (plane : s.planeOf chunk = some lane) (reach : s.mayReach (c.at 4) true = true) :
    s.sendPieces id chunk members =
      (s.sendFlits lane (s.laneLeft lane (c.unsent chunk))).modColl id fun x => x.sent chunk (s.laneLeft lane (c.unsent chunk)) := by
  simp [State.sendPieces, found, Coll.pieces, whole, reach, plane]

/-- A piece for a group outside the egress set is dropped. -/
theorem State.sendPieces_outside (outside : s.mayReach (c.at 4) true = false) :
    s.sendPieces id chunk members = (s.dropFlits (c.unsent chunk)).modColl id fun x => x.sent chunk (c.unsent chunk) := by
  simp [State.sendPieces, found, Coll.pieces, whole, outside]

end

/-! ## Chunks (R333-R335, R338; log 29) -/

/-- The packages that a chunk concerns: those whose parts come, and this one. -/
def State.collMembers (s : State) (parts : List Contribution) : Nat := (parts.filter fun p => p.pkg != s.pkg.id).length + 1

/-- This package's place among those packages. -/
def State.collRank (s : State) (parts : List Contribution) : Nat := (parts.filter fun p => decide (p.pkg < s.pkg.id)).length

/-- What this package contributes to a chunk is sent as far as its lanes let. -/
def State.sentChunk (s : State) (id : Nat) (c : Coll) (chunk : Nat) (parts : List Contribution) : State :=
  if s.contributes c then s.sendPieces id chunk (s.collMembers parts) else s

/-- A chunk's bytes land, and the chunk is done. -/
def State.landChunk (q : State) (id : Nat) (c : Coll) (chunk : Nat) (all : List Contribution) (lost : Bool) : State :=
  (((collLands c chunk all).foldl (fun r o => r.putBytes 0 (fun a => r.virt .engWrite c.asid a) o.1
    (if o.2 then granuleAddrs o.1 else [])) q).modColl id fun c =>
      { c with
        done := chunk :: c.done, errs := c.errs ++ (all.filter (·.poisoned)).map fun p => (chunk, p.pkg),
        lost := c.lost || lost }).collOver id

section
variable {chunk lane : Nat} {parts : List Contribution} {lost : Bool} (taken : c.desc ≠ []) (fresh : chunk ∉ c.done)
  (inside : chunk < c.chunks) (plane : s.planeOf chunk = some lane)
include found taken fresh inside plane

/-- A chunk for a group outside the egress set comes to nothing. -/
theorem collectiveChunk_outside (sends : (s.sentChunk id c chunk parts).contributes c = true)
    (outside : (s.sentChunk id c chunk parts).mayReach (c.at 4) true = false) :
    exec (.collectiveChunk id chunk parts lost) s = .next (s.sentChunk id c chunk parts) := by
  rw [State.sentChunk, State.collMembers] at sends outside ⊢
  show execCollectiveChunk id chunk parts lost s = _
  simp [execCollectiveChunk, found, plane, taken, fresh, Nat.not_le.2 inside, sends, outside]

/-- A chunk waits for the next microsecond of its lanes while flits of it are left. -/
theorem collectiveChunk_waits (sends : (s.sentChunk id c chunk parts).contributes c = true)
    (reach : (s.sentChunk id c chunk parts).mayReach (c.at 4) true = true)
    (unsent : (s.sentChunk id c chunk parts).piecesSent id chunk (s.collMembers parts) = false) :
    exec (.collectiveChunk id chunk parts lost) s = .next ((s.sentChunk id c chunk parts).later
      (800 - (s.sentChunk id c chunk parts).time % 800) (.collectiveChunk id chunk parts lost)) := by
  rw [State.sentChunk, State.collMembers] at sends reach unsent ⊢
  show execCollectiveChunk id chunk parts lost s = _
  simp [execCollectiveChunk, found, plane, taken, fresh, Nat.not_le.2 inside, sends, reach, unsent]

/-- A chunk of which this package's part has left lands where it translates. -/
theorem collectiveChunk_lands {own : List Byte × Bool} {q : State} (sent : s.sentChunk id c chunk parts = q)
    (left : q.contributes c = true → q.mayReach (c.at 4) true = true ∧ q.piecesSent id chunk (s.collMembers parts) = true)
    (part : (if q.contributes c then q.ownPart c (s.collRank parts) chunk else some ([], false)) = some own)
    (translated : ∀ o ∈ collLands c chunk (q.contributions c own parts), ∀ b ∈ o.1, q.virt .engWrite c.asid b.1 ≠ none) :
    exec (.collectiveChunk id chunk parts lost) s = .next (q.landChunk id c chunk (q.contributions c own parts) lost) := by
  have gone : (q.contributes c && !q.mayReach (c.at 4) true) = false ∧
      (q.contributes c && !q.piecesSent id chunk (s.collMembers parts)) = false := by
    cases sends : q.contributes c with
    | false => exact ⟨rfl, rfl⟩
    | true => simp [left sends]
  have writable : ((collLands c chunk (q.contributions c own parts)).all fun o =>
      o.1.all fun b => (q.virt .engWrite c.asid b.1).isSome) = true := by
    simp only [List.all_eq_true, Option.isSome_iff_ne_none]
    exact translated
  have open_ : (c.desc.isEmpty || c.done.contains chunk || decide (c.chunks ≤ chunk)) = false := by
    simp [taken, fresh, Nat.not_le.2 inside]
  obtain ⟨reached, all⟩ := gone
  rw [State.sentChunk] at sent
  rw [State.collMembers] at sent all
  rw [State.collRank] at part
  show execCollectiveChunk id chunk parts lost s = _
  simp only [execCollectiveChunk, found, plane, open_, Bool.not_false, Bool.and_true, sent, Bool.false_eq_true, if_false, reached, all, part,
    writable, Bool.not_true]
  rfl

end

end

/-! ## The egress governor (R338; log 30) -/

section
variable {s : State} {lane dst : Nat} {isGroup : Bool} (booted : s.pkg.booted = true) (inside : lane < 72)
include booted inside

/-- A flit whose destination the signed set does not hold is dropped and counted. -/
theorem egressFlit_drops (outside : s.mayReach dst isGroup = false) : exec (.egressFlit lane dst isGroup) s = .next (s.dropFlits 1) := by
  show execEgressFlit lane dst isGroup s = _
  simp [execEgressFlit, booted, Nat.not_le.2 inside, outside]

/-- A flit beyond its lane's rate waits for the next microsecond. -/
theorem egressFlit_waits (reach : s.mayReach dst isGroup = true) (spent : s.pkg.egress.rates.getD lane 0 ≤ s.laneSent lane) :
    exec (.egressFlit lane dst isGroup) s = .next (s.later (800 - s.time % 800) (.egressFlit lane dst isGroup)) := by
  have full : s.laneLeft lane 1 = 0 := by
    rw [State.laneLeft, Nat.sub_eq_zero_of_le spent, Nat.min_zero]
  show execEgressFlit lane dst isGroup s = _
  simp [execEgressFlit, booted, Nat.not_le.2 inside, reach, full]

theorem egressFlit_leaves (reach : s.mayReach dst isGroup = true) (left : s.laneSent lane < s.pkg.egress.rates.getD lane 0) :
    exec (.egressFlit lane dst isGroup) s = .next (s.sendFlits lane 1) := by
  have room : s.laneLeft lane 1 ≠ 0 := by
    rw [State.laneLeft]
    omega
  show execEgressFlit lane dst isGroup s = _
  simp [execEgressFlit, booted, Nat.not_le.2 inside, reach, room]

end

theorem State.mayReach_iff (s : State) (dst : Nat) (isGroup : Bool) :
    s.mayReach dst isGroup = true ↔ dst ∈ if isGroup then s.pkg.egress.groups else s.pkg.egress.packages :=
  List.contains_iff_mem

theorem fabric : Claims.Fabric := by
  intro s id
  refine ⟨fun c found => ⟨fun x new turn read => collectiveSubmit_takes found new turn read, collectiveSubmit_again found, ?chunk⟩, ?egress⟩
  case chunk =>
    intro chunk parts lost lane own taken fresh inside plane
    refine ⟨fun whole => ⟨State.sendPieces_reach found whole _ plane, State.sendPieces_outside found whole _⟩, ?_, ?_, ?_⟩
    · exact collectiveChunk_outside found taken fresh inside plane
    · exact collectiveChunk_waits found taken fresh inside plane
    · exact collectiveChunk_lands found taken fresh inside plane rfl
  case egress =>
    intro lane dst isGroup booted inside
    refine ⟨fun outside => ?_, fun member => ?_⟩
    · exact egressFlit_drops booted inside (Bool.eq_false_iff.2 fun reach => outside ((s.mayReach_iff ..).1 reach))
    · have reach := (s.mayReach_iff ..).2 member
      exact ⟨egressFlit_waits booted inside reach, egressFlit_leaves booted inside reach⟩

/-! ## Reset, attestation, keys (R296, R336, R337; log 33) -/

/-- What a package reset leaves and what it starts. -/
theorem packageReset_starts (s : State) (sigOk : Bool) (egress : EgressConfig) (sources : List Image) :
    ∃ q : State, exec (.packageReset sigOk egress sources) s = .next q ∧
      q.pkg.booted = (bootImage s.pkg.fwMin sources).isSome ∧
      q.pkg.fwImage = ((bootImage s.pkg.fwMin sources).map (·.bits)).getD 0 ∧
      q.pkg.reports = (if (bootImage s.pkg.fwMin sources).isSome then [] else [[]]) ∧
      q.pkg.egress = (if sigOk then egress else ⟨[], [], []⟩) ∧ q.mem = s.mem ∧ q.teams = [] ∧ q.cores = [] :=
  ⟨_, rfl, rfl, rfl, rfl, rfl, rfl, rfl, rfl⟩

theorem attestationRequest_answers {s : State} (booted : s.pkg.booted = true) (nonce : Nat) :
    exec (.attestationRequest nonce) s = .next (s.answer (s.attested nonce ++ Config.sign (s.attested nonce))) :=
  congrArg Host.Outcome.next (if_pos booted)

theorem keyLoad_renews {s : State} (booted : s.pkg.booted = true) {n : Nat} (inside : n < 4096) :
    exec (.keyLoad n) s = .next (s.modPkg fun p => { p with keyGen := SMap.mod 0 p.keyGen n fun k => k + 1 }) :=
  congrArg Host.Outcome.next (if_pos (by simp [booted, inside]))

/-! ## The debug interface (R30, R348; log 33) -/

section
variable {s : State} {t g : Nat} (halted : (s.group t g).halted = true) (live : (s.team t).live = true)
include halted live

theorem debugResume_reads {l : DebugLoc} {v : Nat} (stream : onX l = true → (s.group t g).split = true)
    (stands : s.debugLoc t g l = some v) : exec (.debugResume t g (.read l)) s = .next (s.answer (leBytes 8 v)) := by
  have there : (onX l && !(s.group t g).split) = false := by
    cases x : onX l with
    | false => rfl
    | true => rw [stream x]; rfl
  show execDebugResume t g (.read l) s = _
  simp [execDebugResume, halted, live, there, stands]

/-- A piece that is no line register's is written at once. -/
theorem debugResume_writes {l : DebugLoc} {v : DWord} (other : ∀ n high, l ≠ .line n high) :
    exec (.debugResume t g (.write l v)) s = .next (s.modGroup t g fun x => x.debugWrite l v) := by
  show execDebugResume t g (.write l v) s = _
  cases l
  case line n high => exact absurd rfl (other n high)
  all_goals simp [execDebugResume, halted, live, State.debugPut]

/-- A line register is written once what it held can leave. -/
theorem debugResume_writesLine {n : Nat} {high : Bool} {v : DWord}
    (room : s.recallRoom [⟨t, g, (s.group t g).depth, false, false, n⟩] = true) :
    exec (.debugResume t g (.write (.line n high) v)) s = .next (s.debugPut t g (.line n high) v) := by
  show execDebugResume t g (.write (.line n high) v) s = _
  simp [execDebugResume, halted, live, room]

theorem debugResume_endsTeam (room : s.recallRoom (s.boundRegs.filter fun r => r.team == t) = true) :
    exec (.debugResume t g .endTeam) s = .next (s.killTeam t) := by
  show execDebugResume t g .endTeam s = _
  simp [execDebugResume, halted, live, room]

theorem debugResume_resumes :
    let q := s.modGroup t g fun x => { x with halted := false }
    exec (.debugResume t g .resume) s = .next ((q.group t g).sides.foldl (fun s x => s.later 1 (.trapEntry ⟨t, g, x⟩)) q) := by
  show execDebugResume t g .resume s = _
  simp [execDebugResume, halted, live]

end

theorem packageControl : Claims.PackageControl := fun s n _ _ =>
  ⟨packageReset_starts s, fun booted => attestationRequest_answers booted n, fun booted inside => keyLoad_renews booted inside,
   fun halted live =>
    ⟨fun _ stream _ stands => debugResume_reads halted live stream stands, fun _ _ other => debugResume_writes halted live other,
     fun _ _ _ room => debugResume_writesLine halted live room, debugResume_endsTeam halted live, debugResume_resumes halted live⟩⟩

end Sys2Proof.Machine

open Sys2Proof Sys2Proof.Machine

/-- Settles O49: a collective's chunk, a flit, a reset or an access of the debug interface takes the one branch that its conditions
leave. -/
theorem fabricAndPackage : Obligations.FabricAndPackage := ⟨fabric, packageControl⟩

end

section
/-!
PROOF. What several of the following families share: instructions that act for their whole group, and maps written key by key.
-/

namespace Sys2Proof.Machine

/-- An instruction that all active lanes issue together, some of them executing, goes on past its two first checks (R64). -/
theorem wholeGroup {u : Info} {s : State} (executes : u.executes s = true) (whole : (s.ctx u.g).iss = (s.begun u.uses).here.amask)
    {go act : Act} (goes : go = act) :
    (if (s.ctx u.g).iss ≠ (s.begun u.uses).here.amask then (s.ctx u.g).uniformity
      else if (s.ctx u.g).ex = 0 then .done (s.begun u.uses) else go) = act :=
  (if_neg (not_not.2 whole)).trans ((if_neg (Info.ex_of_executes executes)).trans goes)

/-- A map after each key of a list has taken its value of f. -/
theorem get_foldl_set {β : Type} [DecidableEq β] {d : β} (f : Nat → β) (l : List Nat) (m : SMap β) (j : Nat) :
    SMap.get d (l.foldl (fun m i => SMap.set d m i (f i)) m) j = if j ∈ l then f j else SMap.get d m j := by
  induction l generalizing m with
  | nil => simp
  | cons a l ih =>
    rw [List.foldl_cons, ih, SMap.get_set]
    by_cases later : j ∈ l <;> by_cases same : j = a <;> simp [later, same]

end Sys2Proof.Machine

end

section
/-!
PROOF. Gates (O24): the two outcomes of a call and those of a return, past the check that every active lane issues.
-/

open Sys2Proof Sys2Proof.Machine

/-- Settles O24: the gate's table refuses a call or accepts it, and the status of a return and what its callee has outstanding
decide which branch it takes. -/
theorem gates : Obligations.Gates := by
  intro g d num a s c
  refine ⟨?calls, ?returns⟩
  case calls =>
    intro u r executes whole
    refine ⟨fun st refused => issue_done executes (wholeGroup executes whole ?_),
      fun accepted settledA settledX => issue_jump executes (wholeGroup executes whole ?_)⟩
    · show (match r.refuseCall num.toNat with | some st => _ | none => _) = _
      rw [refused]
    · show (match r.refuseCall num.toNat with | some st => _ | none => _) = _
      rw [accepted]
      exact if_neg (Bool.eq_false_iff.1 (Bool.or_eq_false_iff.2 ⟨settledA, settledX⟩))
  case returns =>
    intro u r w executes whole
    refine ⟨fun ordinary calleeOver => issue_jump executes (wholeGroup executes whole ?_),
      fun reserved => issue_trap executes (wholeGroup executes whole (if_pos reserved))⟩
    exact (if_neg (Nat.not_le.2 ordinary)).trans (if_neg (by simpa using calleeOver))

end

section
/-!
PROOF. SETSR (O33): a value that the register takes, and what AMASK and LPC do in and outside a handler.
-/

namespace Sys2Proof.Machine

theorem extractLsb'_eq_zero_of_lt {w : Nat} {x : BitVec w} {k n : Nat} (h : x.toNat < 2 ^ k) : x.extractLsb' k n = 0 := by
  apply BitVec.eq_of_toNat_eq
  simp [Nat.shiftRight_eq_div_pow, Nat.div_eq_of_lt h]

/-- The value that SETSR writes (R324). -/
def State.setsrValue (s : State) (r : SReg) (a : Src) (i : Nat) : DWord :=
  if sregWide r then s.srcPair a i else (s.src a i).setWidth 64

theorem exec_setsr (g : Guard) (r : SReg) (a : Src) (s : State) : exec (.setsr g r a) s =
    issue (Claims.setsr g r a) (fun c q =>
      if r = .fstat ∧ q.here.flagsPending then .hold
      else if sregReserved r (q.setsrValue r a (low c.ex)) then c.illegal
      else if r = .asid ∧ q.myGroup.linesOpen then c.illegal
      else .done (q.setSreg r (q.setsrValue r a (low c.ex)))) s := by
  cases r <;> rfl

/-- SETSR writes its register where no flag is pending for FSTAT, no reserved bit is set, and for ASID no line register is bound. -/
theorem completes_setsr {g : Guard} {r : SReg} {a : Src} {s : State} (executes : (Claims.setsr g r a).executes s = true)
    (settled : r = .fstat → s.here.flagsPending = false)
    (unbound : r = .asid → (s.begun (Claims.setsr g r a).uses).myGroup.linesOpen = false)
    (allowed : sregReserved r ((s.begun (Claims.setsr g r a).uses).setsrValue r a (low (s.ctx g).ex)) = false) :
    Completes (.setsr g r a) (Claims.setsr g r a) s fun c q => q.setSreg r (q.setsrValue r a (low c.ex)) := by
  have ready : ¬ (r = .fstat ∧ (s.begun (Claims.setsr g r a).uses).here.flagsPending = true) := by
    rintro ⟨fstat, pending⟩
    rw [State.flagsPending_begun, settled fstat] at pending
    cases pending
  have free : ¬ (r = .asid ∧ (s.begun (Claims.setsr g r a).uses).myGroup.linesOpen = true) := by
    rintro ⟨asid, opened⟩
    rw [unbound asid] at opened
    cases opened
  exact (exec_setsr ..).trans
    (issue_done executes ((if_neg ready).trans ((if_neg (Bool.eq_false_iff.1 allowed)).trans (if_neg free))))

/-- What FSTAT and ASID ask for apart, SETSR has the effect of its register. -/
theorem completes_setsr_of {g : Guard} {r : SReg} {a : Src} {s : State} {f : State → State}
    (settled : r = .fstat → s.here.flagsPending = false)
    (unbound : r = .asid → (s.begun (Claims.setsr g r a).uses).myGroup.linesOpen = false)
    (allowed : sregReserved r ((s.begun (Claims.setsr g r a).uses).setsrValue r a (low (s.ctx g).ex)) = false)
    (writes : (s.begun (Claims.setsr g r a).uses).setSreg r ((s.begun (Claims.setsr g r a).uses).setsrValue r a (low (s.ctx g).ex)) =
      f (s.begun (Claims.setsr g r a).uses))
    (executes : (Claims.setsr g r a).executes s = true) :
    Completes (.setsr g r a) (Claims.setsr g r a) s fun _ t => f t := by
  have done := completes_setsr executes settled unbound allowed
  rw [Completes] at done ⊢
  rw [done]
  exact congrArg (fun q : State => Host.Outcome.next (q.passed (Claims.setsr g r a).uses (s.ctx g))) writes

/-- A value that is kept for a trap register until ERET (R343). -/
def State.keepLater (s : State) (k : Nat) (v : DWord) : State :=
  s.modHere fun st => { st with kept := { st.kept with later := SMap.set none st.kept.later k (some v) } }

/-! ## Outside a handler the registers of a trap are written at once, in one their values are kept (R343) -/

section
variable {s : State} (normal : s.here.mode = .normal)
include normal

theorem State.setSreg_tcause_of_normal (v : Word) :
    s.setSreg .tcause (v.setWidth 64) = s.modHere fun st => { st with tcause := v } := by simp [State.setSreg, normal]
theorem State.setSreg_tadr_of_normal (x : DWord) : s.setSreg .tadr x = s.modHere fun st => { st with tadr := x } := by
  simp [State.setSreg, normal]
theorem State.setSreg_tlane_of_normal (v : Word) :
    s.setSreg .tlane (v.setWidth 64) = s.modHere fun st => { st with tlane := v } := by simp [State.setSreg, normal]

end

section
variable {s : State} (handler : s.here.mode ≠ .normal) (x : DWord)
include handler

theorem State.setSreg_tcause_of_handler : s.setSreg .tcause x = s.keepLater 0x15 x := by simp [State.setSreg, State.keepLater, handler]
theorem State.setSreg_tadr_of_handler : s.setSreg .tadr x = s.keepLater 0x16 x := by simp [State.setSreg, State.keepLater, handler]
theorem State.setSreg_tlane_of_handler : s.setSreg .tlane x = s.keepLater 0x17 x := by simp [State.setSreg, State.keepLater, handler]

end

/-- R324, R343: each register with a value that it can take. -/
theorem writeSpecialRegister : Claims.WriteSpecialRegister := by
  intro g a s i w x sets later
  have mode (r : SReg) : (s.begun (Claims.setsr g r a).uses).here.mode = s.here.mode := State.mode_begun ..
  have narrow (v : Word) : (v.setWidth 64).setWidth 32 = v := by simp
  have small {v : Word} {k n : Nat} (h : v.toNat < 2 ^ k) : ((v.setWidth 64 : DWord).extractLsb' k n != 0) = false := by
    refine bne_eq_false_iff_eq.2 (extractLsb'_eq_zero_of_lt ?_)
    rw [BitVec.toNat_setWidth]
    exact lt_of_le_of_lt (Nat.mod_le _ _) h
  refine ⟨fun settled short => ?fstat, fun normal => ?atOnce, fun handler => ?atReturn, ?rgncnt, fun aligned short => ?kvroot,
    fun short unbound => ?asid⟩
  case fstat =>
    exact completes_setsr_of (fun _ => settled) nofun (small (k := 5) short)
      (congrArg (fun v => State.modHere _ fun st => { st with fstat := v }) (narrow _))
  case atOnce =>
    have normal' (r : SReg) := (mode r).trans normal
    exact ⟨fun short => completes_setsr_of nofun nofun (small (k := 17) short) (State.setSreg_tcause_of_normal (normal' .tcause) _),
      completes_setsr_of (r := .tadr) nofun nofun rfl (State.setSreg_tadr_of_normal (normal' .tadr) _),
      completes_setsr_of (r := .tlane) nofun nofun rfl (State.setSreg_tlane_of_normal (normal' .tlane) _)⟩
  case atReturn =>
    have handler' (r : SReg) := (mode r).symm ▸ handler
    exact ⟨fun short => completes_setsr_of nofun nofun (small (k := 17) short) (State.setSreg_tcause_of_handler (handler' .tcause) _),
      completes_setsr_of (r := .tadr) nofun nofun rfl (State.setSreg_tadr_of_handler (handler' .tadr) _),
      completes_setsr_of (r := .tlane) nofun nofun rfl (State.setSreg_tlane_of_handler (handler' .tlane) _)⟩
  case rgncnt =>
    exact completes_setsr_of (r := .rgncnt) nofun nofun rfl
      (congrArg (fun v => State.modHere _ fun st => { st with rgncnt := v }) (narrow _))
  case kvroot =>
    have low6 : (x .kvroot).extractLsb' 0 6 = 0 := by
      apply BitVec.eq_of_toNat_eq
      simpa using aligned
    refine completes_setsr_of (r := .kvroot) nofun nofun ?_ rfl
    exact Bool.or_eq_false_iff.2 ⟨bne_eq_false_iff_eq.2 low6, bne_eq_false_iff_eq.2 (extractLsb'_eq_zero_of_lt short)⟩
  case asid =>
    have closed : (s.begun (Claims.setsr g .asid a).uses).myGroup.linesOpen = false := by simpa [Group.linesOpen] using unbound
    refine completes_setsr_of (r := .asid) nofun (fun _ => closed) (small (k := 16) short) ?_
    refine congrArg (fun v => State.modMyGroup _ fun y => { y with c.asid := v }) ?_
    exact BitVec.setWidth_setWidth_of_le (w .asid) (by decide : 16 ≤ 64)

/-- R324, R354: AMASK and LPC, in and outside a handler. -/
theorem writeMasksAndCounters : Claims.WriteMasksAndCounters := by
  intro g a s r
  refine ⟨?amask, ?lpc⟩
  case amask =>
    intro u x executes free
    have mode : (s.begun u.uses).here.mode = s.here.mode := State.mode_begun ..
    have amask : (s.begun u.uses).here.amask = s.here.amask := State.amask_begun ..
    refine issue_done executes ?_
    by_cases normal : s.here.mode = .normal
    · have goes := endFirst_of_free (c := s.ctx g) (amask.symm ▸ free normal)
      refine (if_neg (not_not.2 (mode.trans normal))).trans ((goes _).trans ?_)
      rw [amask]
      exact congrArg Act.done (if_neg (not_not.2 normal)).symm
    · exact (if_pos (mode.symm ▸ normal)).trans (congrArg Act.done (if_pos normal).symm)
  case lpc =>
    intro u c f executes valid
    have mode : (s.begun u.uses).here.mode = s.here.mode := State.mode_begun ..
    have layout : ¬ (!(maskLanes c.ex).all fun i => pcValid (f i)) = true := by simpa using valid
    refine ⟨fun handler => ⟨(maskLanes c.ex).foldl (fun m i => SMap.set 0 m i (f i)) (s.begun u.uses).here.kept.lpc, ?_, ?_⟩,
      fun normal => ?_⟩
    · exact issue_done executes ((if_neg layout).trans (if_pos (mode.symm ▸ handler)))
    · intro i lane
      rw [get_foldl_set, State.kept_begun]
      simp only [mem_maskLanes, lane, true_and]
    · intro mv passed
      refine issue_jump executes ((if_neg layout).trans ((if_neg (not_not.2 (mode.trans normal))).trans ?_))
      exact passed _

end Sys2Proof.Machine

open Sys2Proof Sys2Proof.Machine

/-- Settles O33: a register's value has no reserved bit and then takes effect by the mode of its stream; AMASK outside a handler ends
lanes whose end does not hold, and LPC moves lanes whose targets pass their checks. -/
theorem writeSpecialRegisters : Obligations.WriteSpecialRegisters := ⟨writeSpecialRegister, writeMasksAndCounters⟩

end

section
/-!
PROOF. Redundant pairs and privileged instructions (O39): a register that is recalled in a group that holds a frame for each of its
calls, and the two phases of TLBINV and RECALL.
-/

namespace Sys2Proof.Machine

/-! ## The calls of a group, which stores and departures leave as they are -/

/-- The depth of a group and its call frames. -/
def State.calls (s : State) (t g : Nat) : Nat × List GateFrame := ((s.group t g).depth, (s.group t g).frames)

section
variable (s : State) (t g : Nat)

/-- They stand with the teams. -/
theorem State.calls_congr {s q : State} {t g : Nat} (same : q.teams = s.teams) : q.calls t g = s.calls t g := by
  simp only [State.calls, State.group, State.team, same]

@[simp] theorem State.calls_ite (c : Prop) [Decidable c] (a b : State) :
    (if c then a else b).calls t g = if c then a.calls t g else b.calls t g := apply_ite (fun q : State => q.calls t g) c a b

@[simp] theorem State.calls_foldl {α : Type} (f : State → α → State) (keeps : ∀ q a, (f q a).calls t g = q.calls t g)
    (l : List α) : (l.foldl f s).calls t g = s.calls t g :=
  List.foldlRecOn (motive := fun q : State => q.calls t g = s.calls t g) l f rfl fun q kept a _ => (keeps q a).trans kept

@[simp] theorem State.calls_modStream (id : StreamId) (f : Stream → Stream) : (s.modStream id f).calls t g = s.calls t g := by
  rw [State.calls, State.modStream, State.setStream, State.group_setGroup]
  split
  · next same => rw [State.calls, same.1, same.2]; rfl
  · rfl

@[simp] theorem State.calls_later (n : Nat) (e : Instr) : (s.later n e).calls t g = s.calls t g := State.calls_congr rfl
@[simp] theorem State.calls_modCore (c : CoreId) (f : Core → Core) : (s.modCore c f).calls t g = s.calls t g := State.calls_congr rfl
@[simp] theorem State.calls_modEntry (c : CoreId) (key : Nat) (f : Entry → Entry) : (s.modEntry c key f).calls t g = s.calls t g :=
  State.calls_congr rfl

@[simp] theorem State.calls_noteWrite (k : Nat) : (s.noteWrite k).calls t g = s.calls t g := by
  have noted : { s with wrote := SMap.set 0 s.wrote k s.time }.calls t g = s.calls t g := State.calls_congr rfl
  simp [State.noteWrite, noted]

@[simp] theorem State.calls_storeLine (c : CoreId) (key : Nat) (w : LWrite) : (s.storeLine c key w).calls t g = s.calls t g := by
  simp [State.storeLine]

@[simp] theorem State.calls_drainQueue (id : StreamId) : (s.drainQueue id).calls t g = s.calls t g := by simp [State.drainQueue]
@[simp] theorem State.calls_drainGroup (u h : Nat) : (s.drainGroup u h).calls t g = s.calls t g := by simp [State.drainGroup]

@[simp] theorem State.calls_askCkpt (u : Nat) : (s.askCkpt u).calls t g = s.calls t g := by
  unfold State.askCkpt
  split
  · rfl
  · rw [State.calls_later, State.calls, State.modTeam, State.group_setTeam]
    split
    · next same => rw [State.calls, same]; rfl
    · rfl

@[simp] theorem State.calls_numbered (n : Nat) : { s with nextId := n }.calls t g = s.calls t g := State.calls_congr rfl

@[simp] theorem State.calls_releaseLehr (c : CoreId) : (s.releaseLehr c).calls t g = s.calls t g := by
  refine (State.calls_foldl _ t g _ (fun q (e : LehrEntry) => q.calls_later t g 1 (e.event c)) _).trans ?_
  exact State.calls_congr rfl

@[simp] theorem State.calls_enterLehr (c : CoreId) (u h : Nat) (x : Bool) (date : Nat) (w : LWork) :
    (s.enterLehr c u h x date w).calls t g = s.calls t g := by simp [State.enterLehr, State.fresh]

@[simp] theorem State.calls_depart (c : CoreId) (u h key : Nat) : (s.depart c u h key).calls t g = s.calls t g := by
  simp [State.depart]

@[simp] theorem State.calls_leaveLine (r : LineRef) : (s.leaveLine r).calls t g = s.calls t g := by simp [State.leaveLine]

end

/-! ## A register after a write to it (R31, R318) -/

/-- A group that holds a frame for each of its calls has a context at every depth, and what is put there is found there. -/
theorem Group.ctxAt_setCtxAt {g : Group} (framed : g.depth = g.frames.length) (d : Nat) (c : GCtx) : (g.setCtxAt d c).ctxAt d = c := by
  unfold Group.setCtxAt
  split
  · next deep => exact if_pos deep
  · next hidden =>
    have inside : g.depth - 1 - d < g.frames.length := by omega
    simp [Group.ctxAt, hidden, List.getElem?_eq_getElem inside]

theorem GCtx.stream_setStream (c : GCtx) (x : Bool) (st : Stream) : (c.setStream x st).stream x = st := by
  cases x <;> rfl

theorem State.lineAt_setLineAt {s : State} {r : LineRef} (framed : (s.group r.team r.grp).depth = (s.group r.team r.grp).frames.length)
    (l : LineReg) : (s.setLineAt r l).lineAt r = l := by
  cases routine : r.routine <;>
    simp [State.lineAt, State.setLineAt, State.group_modGroup, routine, Group.ctxAt_setCtxAt framed, GCtx.stream_setStream]

theorem State.lineAt_congr {s q : State} {r : LineRef} (same : q.group r.team r.grp = s.group r.team r.grp) : q.lineAt r = s.lineAt r := by
  rw [State.lineAt, State.lineAt, same]

theorem State.lineAt_wakeReg (s : State) (r q : LineRef) (cause : Nat) : (s.wakeReg q cause).lineAt r = s.lineAt r := by
  refine List.foldlRecOn (motive := fun z : State => z.lineAt r = s.lineAt r) _ _ rfl fun z kept x _ => Eq.trans ?_ kept
  split
  · split <;> rfl
  · rfl

/-- What a team remembers of its recalls is no part of its groups. -/
theorem State.lineAt_modTeam_recalls (s : State) (t : Nat) (f : Team → List (Nat × Nat × Nat)) (r : LineRef) :
    (s.modTeam t fun x => { x with recalls := f x }).lineAt r = s.lineAt r := by
  refine State.lineAt_congr ?_
  rw [State.modTeam, State.group_setTeam]
  split
  · next same => rw [State.group, same]; rfl
  · rfl

/-- A bound register that is recalled is RECALLED (R31). -/
theorem State.st_recallReg {s : State} {r : LineRef}
    (framed : (s.group r.team r.grp).depth = (s.group r.team r.grp).frames.length)
    (bound : (s.lineAt r).st = .opened ∨ (s.lineAt r).st = .opening) (answers : keyKind (s.lineAt r).key ≠ 3) :
    ((s.recallReg r).lineAt r).st = .recalled := by
  have still : ((s.leaveLine r).group r.team r.grp).depth = ((s.leaveLine r).group r.team r.grp).frames.length := by
    have calls := s.calls_leaveLine r.team r.grp r
    simp only [State.calls, Prod.mk.injEq] at calls
    obtain ⟨depth, frames⟩ := calls
    rw [depth, frames, framed]
  have found (l : LineReg) (cause : Nat) (f : Team → List (Nat × Nat × Nat)) :
      (State.wakeReg (((s.leaveLine r).setLineAt r l).modTeam r.team fun x => { x with recalls := f x }) r cause).lineAt r = l :=
    (State.lineAt_wakeReg ..).trans ((State.lineAt_modTeam_recalls ..).trans (State.lineAt_setLineAt still l))
  unfold State.recallReg
  rcases bound with st | st <;> simp [answers, st, found]

/-! ## Redundant pairs (R376, R380) -/

/-- R376, R380: DMRBEG by the bench and its cores, and a leader's DMREND whose records have all matched. -/
theorem redundancy : Claims.Redundancy := by
  intro g d s c
  refine ⟨?begins, ?ends⟩
  case begins =>
    intro u r few executes whole idle settled
    have free : ¬ (r.teamCmds c.id.team || r.here.busy) = true := by simp [idle, settled]
    refine ⟨fun full => issue_done executes (wholeGroup executes whole ?_),
      fun room noCore => issue_done executes (wholeGroup executes whole ?_),
      fun core room found => issue_jump executes (wholeGroup executes whole ?_)⟩
    · exact (if_neg free).trans (if_pos (Nat.not_lt.1 full))
    · refine (if_neg free).trans ((if_neg (Nat.not_le.2 room)).trans ?_)
      show (match r.trailCore c.id.team with | none => _ | some core => _) = _
      rw [noCore]
    · refine (if_neg free).trans ((if_neg (Nat.not_le.2 room)).trans ?_)
      show (match r.trailCore c.id.team with | none => _ | some core => _) = _
      rw [found]
  case ends =>
    intro u r p q lo executes whole leads pair marked trailer recsL recsT
    refine issue_jump executes (wholeGroup executes whole ?_)
    show (match r.myGroup.dmr, r.dmrPair c.id.team c.id.grp with
      | .leader p, some q => _
      | .trailer _, some _ => _
      | _, _ => _) = _
    rw [leads, pair]
    show (match SMap.get none r.here.relWait (recordMark c.ex) with | none => _ | some _ => _) = _
    rw [marked]
    exact if_pos (by rw [recsL, recsT]; exact congrArg (· && true && true) trailer)

/-! ## Releases and departures that an instruction waits for (R325, R326) -/

/-- A lane's release is noted below the keys of the departures that an issue waits for. -/
theorem State.relWait_clearRel (s : State) (id : StreamId) (ex : Mask) {k : Nat} (apart : 32 ≤ k) :
    SMap.get none (s.clearRel id ex).here.relWait k = SMap.get none s.here.relWait k := by
  have here : (s.clearRel id ex).here = if s.cur.id = id then
      { s.stream id with relWait := (maskLanes ex).foldl (fun m i => SMap.set none m i none) (s.stream id).relWait } else s.here :=
    State.stream_modStream ..
  rw [here]
  split
  · next same =>
    rw [get_foldl_set, if_neg fun mem => absurd (mem_maskLanes_lt mem) (by omega), ← same]
    rfl
  · rfl

/-- The note of the departures that an issue waits for: those since a number. -/
def State.noteDepartures (q : State) (c : Ctx) (lo : Nat) : State :=
  q.modStream c.id fun st =>
    { st with relWait := SMap.set none (SMap.set none st.relWait (waitLo c.ex) (some lo)) (waitHi c.ex) (some q.nextId) }

section
variable {c : Ctx} {s : State} {room : Bool} {start : State → State} {isOver : Nat → Nat → State → Bool} {go : State → Act}

/-- The recalls are made once their departures find room. -/
theorem recallPhase_begins (unmade : SMap.get none s.here.relWait (waitLo c.ex) = none) (takes : room = true) :
    recallPhase c s room start isOver go = .wait fun q => (start q).noteDepartures c q.nextId := by
  rw [recallPhase, unmade]
  exact if_neg (by simp [takes])

/-- Their instruction goes on once the departures have been applied. -/
theorem recallPhase_ends {lo hi : Nat} (made : SMap.get none s.here.relWait (waitLo c.ex) = some lo)
    (upTo : SMap.get none s.here.relWait (waitHi c.ex) = some hi) (gone : isOver lo hi s = true) :
    recallPhase c s room start isOver go = go (s.modHere fun st =>
      { st with relWait := SMap.set none (SMap.set none st.relWait (waitLo c.ex) none) (waitHi c.ex) none }) := by
  rw [recallPhase, made, upTo]
  exact if_pos gone

end

/-! ## TLBINV (R325) -/

/-- TLBINV of what its operands name: its release, its recalls, and its end. -/
def tlbinvAct (c : Ctx) (w : TlbWhat) (s : State) : Act :=
  let inner := fun (s : State) => recallPhase c s (s.recallTakes c.id.team (s.boundBy w)) (fun s => (s.clearRel c.id c.ex).invalidate w)
    (fun lo hi s => s.departed lo hi && s.unitsOver hi) fun s => .done (s.acquire c.id .package)
  if (SMap.get none s.here.relWait (waitLo c.ex)).isSome then inner s
  else releaseFirst c s .package (fun s => (s.beginRelease c.id .package).askCkpt c.id.team) (fun d s => s.allReleased c.id d) inner

section
variable {c : Ctx} {w : TlbWhat} {s : State}

section
variable (unmade : SMap.get none s.here.relWait (waitLo c.ex) = none)
include unmade

theorem tlbinvAct_releases {i : Nat} (mem : i ∈ maskLanes c.ex) (unbegun : SMap.get none s.here.relWait i = none) :
    tlbinvAct c w s = .wait fun q =>
      let q := (q.beginRelease c.id .package).askCkpt c.id.team
      if crosses (q.scopeOf c.id.team .package) && !q.allOut (q.teamCore c.id.team) then q else q.dateRelease c.id c.ex :=
  (if_neg (by simp [unmade])).trans (releaseFirst_of_unbegun mem unbegun)

theorem tlbinvAct_recalls (released : Claims.released c s fun d q => q.allReleased c.id d)
    (takes : (s.clearRel c.id c.ex).recallTakes c.id.team ((s.clearRel c.id c.ex).boundBy w) = true) :
    tlbinvAct c w s = .wait fun q => ((q.clearRel c.id c.ex).invalidate w).noteDepartures c q.nextId := by
  have still : SMap.get none (s.clearRel c.id c.ex).here.relWait (waitLo c.ex) = none :=
    (s.relWait_clearRel c.id c.ex (by unfold waitLo; omega)).trans unmade
  exact (if_neg (by simp [unmade])).trans ((releaseFirst_of_released released).trans (recallPhase_begins still takes))

end

theorem tlbinvAct_ends {lo hi : Nat} (made : SMap.get none s.here.relWait (waitLo c.ex) = some lo)
    (upTo : SMap.get none s.here.relWait (waitHi c.ex) = some hi) (gone : (s.departed lo hi && s.unitsOver hi) = true) :
    tlbinvAct c w s = .done (State.acquire (s.modHere fun st =>
      { st with relWait := SMap.set none (SMap.set none st.relWait (waitLo c.ex) none) (waitHi c.ex) none }) c.id .package) := by
  refine (if_pos (by simp [made])).trans ?_
  exact recallPhase_ends (isOver := fun lo hi s => s.departed lo hi && s.unitsOver hi) made upTo gone

end

/-- The information of TLBINV, and below of RECALL. -/
def tlbinvInfo (g : Guard) (f : TlbForm) : Info := { g := g, uses := tlbUses f, cls := .a, level := 2 }

theorem exec_tlbinv (g : Guard) (f : TlbForm) (s : State) : exec (.tlbinv g f) s =
    issue (tlbinvInfo g f) (fun c q => (q.tlbWhat f (low c.ex)).elim c.illegal fun w => tlbinvAct c w q) s := by
  refine congrArg (fun body => issue (tlbinvInfo g f) body s) (funext fun c => funext fun q => ?_)
  cases q.tlbWhat f (low c.ex) <;> rfl

section
variable {g : Guard} {f : TlbForm} {s : State} {w : TlbWhat} (executes : (tlbinvInfo g f).executes s = true)
  (names : (s.begun (tlbUses f)).tlbWhat f (low (s.ctx g).ex) = some w)
include executes names

theorem tlbinv_waits {note : State → State} (waits : tlbinvAct (s.ctx g) w (s.begun (tlbUses f)) = .wait note) :
    exec (.tlbinv g f) s = .next (note s).hold := by
  refine (exec_tlbinv g f s).trans (issue_wait executes ?_)
  exact (congrArg (Option.elim · _ _) names).trans waits

theorem tlbinv_completes {effect : Ctx → State → State}
    (done : tlbinvAct (s.ctx g) w (s.begun (tlbUses f)) = .done (effect (s.ctx g) (s.begun (tlbUses f)))) :
    Completes (.tlbinv g f) (tlbinvInfo g f) s effect := by
  refine (exec_tlbinv g f s).trans (issue_done executes ?_)
  exact (congrArg (Option.elim · _ _) names).trans done

end

/-! ## RECALL (R326) -/

def recallInfo (g : Guard) (k : RecallForm) : Info :=
  { g := g, uses := match k with | .va a b => [u1 a, u2 b] | .pa b => [u2 b], cls := .a, level := 2 }

/-- RECALL of the registers that its operands name: their recalls, and its end. -/
def recallAct (c : Ctx) (rs : List LineRef) (s : State) : Act :=
  recallPhase c s (s.recallTakes c.id.team rs) (fun q => rs.foldl (fun q r => q.recallReg r) q) (fun lo hi q => q.departed lo hi) .done

theorem exec_recall (g : Guard) (k : RecallForm) (s : State) : exec (.recall g k) s =
    issue (recallInfo g k) (fun c q => recallAct c (q.recalled k (low c.ex)) q) s := rfl

section
variable {c : Ctx} {rs : List LineRef} {s : State}

theorem recallAct_recalls (unmade : SMap.get none s.here.relWait (waitLo c.ex) = none) (takes : s.recallTakes c.id.team rs = true) :
    recallAct c rs s = .wait fun q => (rs.foldl (fun q r => q.recallReg r) q).noteDepartures c q.nextId :=
  recallPhase_begins unmade takes

theorem recallAct_ends {lo hi : Nat} (made : SMap.get none s.here.relWait (waitLo c.ex) = some lo)
    (upTo : SMap.get none s.here.relWait (waitHi c.ex) = some hi) (gone : s.departed lo hi = true) :
    recallAct c rs s = .done (s.modHere fun st =>
      { st with relWait := SMap.set none (SMap.set none st.relWait (waitLo c.ex) none) (waitHi c.ex) none }) :=
  recallPhase_ends (isOver := fun lo hi q => q.departed lo hi) made upTo gone

end

theorem recall_waits {g : Guard} {k : RecallForm} {s : State} {note : State → State} (executes : (recallInfo g k).executes s = true)
    (waits : recallAct (s.ctx g) ((s.begun (recallInfo g k).uses).recalled k (low (s.ctx g).ex)) (s.begun (recallInfo g k).uses) =
      .wait note) : exec (.recall g k) s = .next (note s).hold :=
  (exec_recall g k s).trans (issue_wait executes waits)

/-- R351, R325, R326: HALT by the mode of its stream, TLBINV and RECALL by the notes of their phases. -/
theorem privileged : Claims.Privileged := by
  intro g f k s c marks
  refine ⟨?halts, ?tlbinvs, ?recalls, fun ref framed bound answers => State.st_recallReg framed bound answers⟩
  case halts =>
    intro u r executes
    refine ⟨fun ordinary settled => issue_done executes ((if_neg ?_).trans (if_neg ?_)),
      fun routine => issue_jump executes (if_pos routine)⟩
    · rintro (save | restore)
      · exact absurd (ordinary.imp save.symm.trans save.symm.trans) (by simp)
      · exact absurd (ordinary.imp restore.symm.trans restore.symm.trans) (by simp)
    · have both : ([false, true].any fun x => !r.resultsIn { c.id with x := x }) = false := by simp [settled]
      exact Bool.eq_false_iff.1 both
  case tlbinvs =>
    intro u r w executes names
    refine ⟨fun unmade unreleased => ?_, fun unmade released takes => ?_, fun lo hi made upTo gone => ?_⟩
    · have first := low_mem (Info.ex_of_executes executes)
      have waits := tlbinv_waits executes names (tlbinvAct_releases unmade first (unreleased _ first))
      exact waits
    · have waits := tlbinv_waits executes names (tlbinvAct_recalls unmade released takes)
      exact waits
    · have ends := tlbinvAct_ends (w := w) made upTo gone
      exact tlbinv_completes (effect := fun c q => (q.modHere fun st =>
        { st with relWait := SMap.set none (SMap.set none st.relWait (waitLo c.ex) none) (waitHi c.ex) none }).acquire c.id .package)
        executes names ends
  case recalls =>
    intro u r rs executes
    refine ⟨fun unmade takes => ?_, fun lo hi made upTo gone => ?_⟩
    · have waits := recall_waits (g := g) (k := k) executes (recallAct_recalls unmade takes)
      exact waits
    · exact (exec_recall g k s).trans (issue_done executes (recallAct_ends made upTo gone))

end Sys2Proof.Machine

open Sys2Proof Sys2Proof.Machine

/-- Settles O39: the instructions of a pair past their whole-group check, the two phases of TLBINV and RECALL, and a register that is
found as it was written because its group holds a frame for each of its calls. -/
theorem redundancyAndSystem : Obligations.RedundancyAndSystem := ⟨redundancy, privileged⟩

end

section
/-!
PROOF. Trap entry (O57): what a trap of a stream with nothing outstanding leaves of it, and the level that an instruction is checked
for first.
-/

namespace Sys2Proof.Machine

/-! ## Entry into a handler (R343, R346) -/

/-- A group that executes alone has no pair to share a trap with, to record it for, or to wait for (R377). -/
theorem State.trapWaits_alone {s : State} {id : StreamId} (alone : (s.group id.team id.grp).dmr = .alone) : s.trapWaits id = false := by
  simp [State.trapWaits, alone]

theorem State.shareTrap_alone {s : State} {id : StreamId} (alone : (s.group id.team id.grp).dmr = .alone) (r : TrapRec) :
    s.shareTrap id r = s := by
  simp [State.shareTrap, alone]

theorem State.recordOf_alone {s : State} {t g : Nat} (alone : (s.group t g).dmr = .alone) (r : Nat × Nat × Bytes) :
    s.recordOf t g r = s := by
  simp [State.recordOf, alone]

/-- A stream that is not held for regrouping any more; nothing else of it changes (R276). -/
def Stream.withdrawn (st : Stream) : Stream := st.setHolds (st.heldFor .regrp) none

theorem Stream.withdrawn_eq (st : Stream) : st.withdrawn = { st with hold := st.withdrawn.hold } := Stream.setHolds_eq ..

theorem State.group_withdraw (s : State) (t g : Nat) : (s.withdraw t g).group t g =
    { s.group t g with c := { (s.group t g).c with a := (s.group t g).c.a.withdrawn, x := (s.group t g).c.x.withdrawn } } := by
  rw [State.withdraw, State.group_modGroup, if_pos ⟨rfl, rfl⟩]
  rfl

theorem State.stream_withdraw (s : State) (id : StreamId) : (s.withdraw id.team id.grp).stream id = (s.stream id).withdrawn := by
  rw [State.stream, State.group_withdraw]
  cases x : id.x <;> simp [Group.stream, State.stream, x]

theorem State.handlerEntry_withdraw (s : State) (t g : Nat) (asid : BitVec 16) (save : Bool) :
    (s.withdraw t g).handlerEntry asid save = s.handlerEntry asid save := rfl

/-- The registers of a stream that enters its handler with a trap (R346). -/
def Stream.handling (st : Stream) (r : TrapRec) : Stream :=
  { st with
    kept := { m0 := st.amask, amask := st.amask, fstat := st.fstat, partw := st.partw, lpc := st.lpc, recorded := st.lpc,
              hold := st.hold, thnd := false, tcause := st.tcause, tadr := st.tadr, tlane := st.tlane, later := [], back := st.back },
    tcause := causeWord r.code r.info false, tadr := r.tadr, tlane := r.tlane, amask := BitVec.allOnes 32, hold := [], fstat := 0,
    partw := 32, back := 0, poll := [], cpwait := [], relWait := [], watch := none, mode := .handler, check := true, skipCmp := 0,
    parked := none, entering := none,
    traps := st.traps ++ st.entering.toList.filter fun t => t.code == 15 || (t.code == 12 && t.info == 255) }

/-- All 32 lanes stand at the entry. -/
theorem Stream.pc_setPcs_allOnes (st : Stream) (e : DWord) {i : Nat} (lane : i < 32) :
    (st.setPcs (BitVec.allOnes 32) fun _ => e).pc i = e := by
  rw [Stream.pc_setPcs, BitVec.getLsbD_allOnes, if_pos ⟨lane, decide_eq_true lane⟩]

/-- What R343 and R346 say of a stream in its handler. -/
theorem Stream.handling_registers (st : Stream) (r : TrapRec) (e : DWord) :
    let x := (st.handling r).setPcs (BitVec.allOnes 32) fun _ => e
    x.mode = .handler ∧ x.tcause = BitVec.ofNat 32 (r.code % 256 + r.info % 256 * 256) ∧ x.tadr = r.tadr ∧
    x.tlane = r.tlane ∧ x.kept.m0 = st.amask ∧ x.kept.amask = st.amask ∧ x.kept.fstat = st.fstat ∧
    x.kept.partw = st.partw ∧ x.kept.lpc = st.lpc ∧ x.fstat = 0 ∧ x.partw = 32 ∧ x.back = 0 ∧
    x.amask = BitVec.allOnes 32 ∧ ∀ i < 32, x.pc i = e := by
  intro x
  have stands : ∀ i < 32, x.pc i = e := fun i lane => Stream.pc_setPcs_allOnes _ e lane
  have registers : x = { st.handling r with lpc := x.lpc } := Stream.setPcs_eq ..
  rw [registers] at stands ⊢
  exact ⟨rfl, rfl, rfl, rfl, rfl, rfl, rfl, rfl, rfl, rfl, rfl, rfl, rfl, stands⟩

section
variable {s : State} {id : StreamId} {r : TrapRec} (pend : (s.stream id).pend = []) (amos : (s.stream id).amos = [])
include pend amos

/-- A stream with nothing outstanding enters its handler at once (R346 steps 1 and 2). -/
theorem State.entryReady_settled (noSave : r.code ≠ 16) : s.entryReady id r = true := by
  simp [State.entryReady, noSave, State.resultsIn, State.amosSettled, pend, amos]

theorem State.stream_enterHandler (queue : (s.stream id).sq = []) (noCheck : r.code ≠ 14) (e : DWord) :
    (s.enterHandler id r e false false).stream id = ((s.stream id).handling r).setPcs (BitVec.allOnes 32) fun _ => e := by
  have drained : s.drainQueue id = s.modStream id fun st => { st with sq := [] } := by simp [State.drainQueue, queue]
  have same : (s.drainQueue id).stream id = s.stream id := by
    rw [drained, State.stream_modStream, if_pos rfl, ← queue]
  have written : (s.drainQueue id).writeAll id = s.drainQueue id := by simp [State.writeAll, same, pend]
  have flushed : (s.drainQueue id).flushAmos id = s.drainQueue id := by simp [State.flushAmos, same, amos]
  simp only [State.enterHandler, noCheck, if_false, written, flushed, Bool.false_eq_true, State.stream_modStream, if_true, same]
  rfl

end

/-- A trap of a group that executes alone is its stream's own. -/
theorem State.takeTrap_alone {s : State} {id : StreamId} {r : TrapRec} (alone : (s.group id.team id.grp).dmr = .alone)
    (running : (s.group id.team id.grp).halted = false) (noCheck : r.code ≠ 14) : s.takeTrap id r = s.trapStream id r := by
  simp [State.takeTrap, State.trapWaits_alone alone, State.shareTrap_alone alone, State.recordOf_alone alone, noCheck, State.trapOne,
    running]

section
variable {s : State} {id : StreamId} {r : TrapRec} {e : DWord} (outside : (s.group id.team id.grp).depth = 0)
  (live : (s.stream id).live = true) (normal : (s.stream id).mode = .normal) (noSave : r.code ≠ 16)
  (handler : s.handlerEntry (s.group id.team id.grp).c.asid false = some e)
include outside live normal noSave handler

/-- Outside a call a running stream goes to the handler of its address space (R345). -/
theorem State.trapStream_enters : s.trapStream id r = (s.withdraw id.team id.grp).entry_ id r e false false := by
  have st : ((s.withdraw id.team id.grp).group id.team id.grp).stream id.x = (s.stream id).withdrawn := s.stream_withdraw id
  have live' : (s.stream id).withdrawn.live = true := by rw [Stream.withdrawn_eq]; exact live
  have normal' : (s.stream id).withdrawn.mode = .normal := by rw [Stream.withdrawn_eq]; exact normal
  have depth : ((s.withdraw id.team id.grp).group id.team id.grp).depth = 0 := by rw [State.group_withdraw]; exact outside
  have asid : ((s.withdraw id.team id.grp).group id.team id.grp).c.asid = (s.group id.team id.grp).c.asid := by
    rw [State.group_withdraw]
  simp [State.trapStream, st, live', normal', depth, asid, noSave, State.handlerEntry_withdraw, handler]

/-- With nothing outstanding it enters at once. -/
theorem State.stream_trapStream (queue : (s.stream id).sq = []) (pend : (s.stream id).pend = []) (amos : (s.stream id).amos = [])
    (noCheck : r.code ≠ 14) : (s.trapStream id r).stream id =
      (Stream.handling { s.stream id with hold := (s.stream id).withdrawn.hold } r).setPcs (BitVec.allOnes 32) fun _ => e := by
  have st : (s.withdraw id.team id.grp).stream id = { s.stream id with hold := (s.stream id).withdrawn.hold } :=
    (s.stream_withdraw id).trans (Stream.withdrawn_eq _)
  have pend' : ((s.withdraw id.team id.grp).stream id).pend = [] := by rw [st]; exact pend
  have amos' : ((s.withdraw id.team id.grp).stream id).amos = [] := by rw [st]; exact amos
  have queue' : ((s.withdraw id.team id.grp).stream id).sq = [] := by rw [st]; exact queue
  rw [State.trapStream_enters outside live normal noSave handler, State.entry_, if_pos (State.entryReady_settled pend' amos' noSave),
    State.stream_enterHandler pend' amos' queue' noCheck, st]

end

/-! ## Privilege (R62, R67, R312) -/

/-- An instruction above its stream's level raises the privilege trap before its context is checked. -/
theorem issue_privilege {u : Info} {s : State} {body : Ctx → State → Act} (live : s.here.live = true) (lanes : s.cur.lanes ≠ 0)
    (normal : s.here.mode = .normal) (below : s.myGroup.c.level < u.level)
    (stream : u.cls = .a → s.myGroup.split = true → s.cur.x = false) (notX : u.cls ≠ .x)
    (operands : u.uses.all (fun v => v.ok s.myGroup s.cur.x) = true) :
    issue u body s = .next (s.trapHere ⟨3, 0, s.cur.pc, s.cur.lanes⟩) := by
  have runs : ¬ (s.here.live = false ∨ s.cur.lanes = 0) := not_or.2 ⟨by simp [live], lanes⟩
  have level : s.myGroup.levelOf s.cur.x = s.myGroup.c.level := if_neg (not_not.2 normal)
  have class_ : (s.myGroup.split && ((u.cls == .a && s.cur.x) || (u.cls == .x && !s.cur.x))) = false := by
    cases split : s.myGroup.split with
    | false => rfl
    | true =>
      cases cls : u.cls with
      | both => rfl
      | x => exact absurd cls notX
      | a => simp [stream cls split]
  have refused : s.checkDecode u = some 3 := by
    simp [State.checkDecode, class_, operands, level, below]
  simp only [issue, runs, if_false, refused]

/-- The same of an instruction by its meaning: its class, a level that it asks for at least, and its operands. -/
theorem exec_privilege {i : Instr} {s : State} {cls : Cls} {level : Nat} {us : List Use} {u : Info} {body : Ctx → State → Act}
    (meaning : exec i s = issue u body s) (stream : u.cls = cls) (notX : cls ≠ .x) (least : level ≤ u.level) (uses : u.uses = us) :
    s.here.live = true → s.cur.lanes ≠ 0 → s.here.mode = .normal → s.myGroup.c.level < level →
      (cls = .a → s.myGroup.split = true → s.cur.x = false) → us.all (fun u => u.ok s.myGroup s.cur.x) = true →
        exec i s = .next (s.trapHere ⟨3, 0, s.cur.pc, s.cur.lanes⟩) := by
  subst stream uses
  exact fun live lanes normal below streams operands =>
    meaning.trans (issue_privilege live lanes normal (below.trans_le least) streams notX operands)

theorem sregLevel_pos {r : SReg} (other : r ≠ .fstat) : 1 ≤ sregLevel r := by
  cases r with
  | fstat => exact absurd rfl other
  | _ => decide

end Sys2Proof.Machine

open Sys2Proof Sys2Proof.Machine

/-- Settles O57: a stream with nothing outstanding enters at once, with only its hold for regrouping given up before, and the level of an
instruction is checked before its context and its guard. -/
theorem trapEntry : Obligations.TrapEntry := by
  refine ⟨?entry, ?privilege⟩
  case entry =>
    intro s id r e g st alone running outside live normal queue pend amos noCheck noSave handler
    have handling := State.stream_trapStream outside live normal noSave handler queue pend amos noCheck
    rw [← State.takeTrap_alone alone running noCheck] at handling
    intro x
    show _ ∧ _
    rw [show x = _ from handling]
    exact Stream.handling_registers _ r e
  case privilege =>
    intro s g f k n la d a b re r below
    exact ⟨exec_privilege rfl rfl nofun le_rfl rfl, exec_privilege rfl rfl nofun le_rfl rfl, exec_privilege rfl rfl nofun le_rfl rfl,
      exec_privilege rfl rfl nofun le_rfl rfl, fun other => exec_privilege rfl rfl nofun (sregLevel_pos other) rfl,
      exec_privilege rfl rfl nofun le_rfl rfl, exec_privilege rfl rfl nofun le_rfl rfl, exec_privilege rfl rfl nofun le_rfl rfl,
      exec_privilege rfl rfl nofun le_rfl rfl, exec_privilege rfl rfl nofun le_rfl rfl, exec_privilege rfl rfl nofun le_rfl rfl,
      exec_privilege rfl rfl nofun le_rfl rfl, exec_privilege rfl rfl nofun le_rfl rfl, exec_privilege rfl rfl nofun le_rfl rfl,
      exec_privilege rfl rfl nofun le_rfl rfl, exec_privilege rfl rfl nofun le_rfl rfl⟩

end

section
/-!
PROOF. Pre-emption, saves and restores (O45): each step of the device takes the branch of its team's state, and what a restore reads of
an area's blocks is refused or not by the same four checks of each.
-/

namespace Sys2Proof.Machine

/-- The areas of a cluster's members are looked up one after the other. -/
def State.lookAreas (s : State) (ts : List Nat) : List Tx × State :=
  ts.foldl (fun r u => (r.1 ++ [(r.2.lookArea u).1], (r.2.lookArea u).2)) ([], s)

theorem exec_preemptRequest (t : Nat) (by_ : Preemptor) (s : State) :
    exec (.preemptRequest t by_) s = execPreemptRequest t by_ s := rfl
theorem exec_drainTimeout (t : Nat) (s : State) : exec (.drainTimeout t) s = execDrainTimeout t s := rfl
theorem exec_saveRequest (t : Nat) (s : State) : exec (.saveRequest t) s = execSaveRequest t s := rfl
theorem exec_saveSpill (t : Nat) (s : State) : exec (.saveSpill t) s = execSaveSpill t s := rfl
theorem exec_restoreRequest (asid : BitVec 16) (area : DWord) (s : State) :
    exec (.restoreRequest asid area) s = execRestoreRequest asid area s := rfl
theorem exec_restoreLoad (t : Nat) (s : State) : exec (.restoreLoad t) s = execRestoreLoad t s := rfl

section
variable {s : State} {t : Nat} (live : (s.team t).live = true)
include live

/-! ## Requests and drains (R359, R360) -/

section
variable (alone : (s.team t).trails = false) (undrained : (s.team t).drain = none)
include alone undrained

/-- A request pre-empts a team that is not being saved: system software any, the gaffer a weak one outside task waves. -/
theorem preemptRequest_preempts {by_ : Preemptor} (unsaved : (s.team t).saving = none)
    (mine : by_ = .gaffer → (s.team t).cls = .weak ∧ (s.team t).wave = false) :
    exec (.preemptRequest t by_) s = .next (s.preempt t by_ true) := by
  cases by_ with
  | gaffer =>
    obtain ⟨weak, single⟩ := mine rfl
    simp [exec_preemptRequest, execPreemptRequest, live, alone, undrained, unsaved, weak, single]
  | system area =>
    simp [exec_preemptRequest, execPreemptRequest, live, alone, undrained, unsaved]

/-- A request names another area for a save that has not been delivered; the gaffer's own area goes back to its pool. -/
theorem preemptRequest_renames {area old : DWord} (saved : (s.team t).saving = some old) (undelivered : (s.team t).inSave = false)
    (asked : ∃ e ∈ s.agenda, e.2 = .saveRequest t) :
    let q := s.modTeam t fun x => { x with saving := some area }
    exec (.preemptRequest t (.system area)) s = .next (if (s.team t).pooled = true then
      (q.modTeam t fun x => { x with pooled := false }).modDie (s.team t).die fun d => { d with pool := d.pool ++ [old.toNat] }
      else q) := by
  have named : (s.agenda.any fun e => e.2 == .saveRequest t) = true := by simpa using asked
  simp [exec_preemptRequest, execPreemptRequest, live, alone, undrained, saved, undelivered, named]

end

theorem drainTimeout_decides {by_ : Preemptor} (draining : (s.team t).drain = some by_) :
    exec (.drainTimeout t) s = .next ((s.modTeam t fun x => { x with drain := none }).preempt t by_ false) := by
  simp [exec_drainTimeout, execDrainTimeout, draining, live]

section
variable {area : DWord} (saved : (s.team t).saving = some area)
include saved

/-! ## Saves (R362, R388-R392) -/

section
variable (groups : (s.team t).liveGroups ≠ []) (undelivered : (s.team t).inSave = false)
include groups undelivered

/-- A save asks for the members of its cluster first. -/
theorem saveRequest_asks (unasked : ∃ u ∈ s.clusterTeams t, (s.team u).saving = none) :
    exec (.saveRequest t) s = .next ((s.askMembers t).again (.saveRequest t)) := by
  have part : ((s.clusterTeams t).all fun u => (s.team u).saving.isSome) = false := by simpa using unasked
  simp [exec_saveRequest, execSaveRequest, saved, live, groups, undelivered, part]

theorem saveRequest_delivers (restored : (s.team t).restoring = false) (unblocked : (s.team t).blocked = none)
    (quiet : (s.team t).quiet = true) (room : s.recallRoom (s.teamRegs t) = true)
    (asked : ∀ u ∈ s.clusterTeams t, (s.team u).saving ≠ none) (unpaired : s.teamPair t = none) :
    exec (.saveRequest t) s = .next ((s.deliver t area).again (.saveRequest t)) := by
  have whole : ((s.clusterTeams t).all fun u => (s.team u).saving.isSome) = true := by
    simpa [Option.isSome_iff_ne_none] using asked
  simp [exec_saveRequest, execSaveRequest, saved, live, groups, undelivered, whole, restored, unblocked, quiet, room, unpaired]

end

section
variable (inSave : (s.team t).inSave = true) (ended : (s.team t).routinesOver = true) (closed : s.routineRegs t = [])
  (written : s.writesOver t = true) {ts : List Nat} (members : ((s.clusterTeams t).filter fun u => !(s.team u).out) = ts)
  (ready : ∀ u ∈ ts, s.spillReady u = true)
include inSave ended closed written members ready

/-- A save whose members are ready goes by what their areas translate to. -/
theorem saveSpill_ready : exec (.saveSpill t) s = .next (
    if (s.lookAreas ts).1.contains .fatal then ts.foldl (fun q u => q.saveFails u) (s.lookAreas ts).2
    else if (s.lookAreas ts).1.contains .wait then (s.lookAreas ts).2.again (.saveSpill t)
    else ts.foldl (fun q u => q.spill u) (s.lookAreas ts).2) := by
  have all : (ts.all fun u => s.spillReady u) = true := List.all_eq_true.2 ready
  simp only [exec_saveSpill, execSaveSpill, saved, live, inSave, ended, closed, written, members, all, Option.isNone_some, Bool.not_true,
    Bool.or_self, Bool.false_eq_true, if_false, List.isEmpty_nil]
  rfl

theorem saveSpill_spills {tr : Trans} {r : State} (alone : ts = [t]) (looked : s.lookArea t = (.ok tr, r))
    (still : (r.team t).saving = some area) :
    let x := r.team t
    let line := fun (u : State) (n : Nat) => (List.range 128).filterMap fun i =>
      (u.areaByte t x.led (128 * n + i)).map fun b => (area.toNat + 128 * n + i, b)
    exec (.saveSpill t) s = .next (((List.range (x.areaSize / 128)).foldl (fun u n =>
      u.putBytes x.die (fun a => r.tlbFind x.coreId x.asid a) (line r n) []) r).switchOut t area x.asid) := by
  have areas : s.lookAreas ts = ([.ok tr], r) := by simp [State.lookAreas, alone, looked]
  have fatal : ([Tx.ok tr]).contains .fatal = false := by simp
  have waits : ([Tx.ok tr]).contains .wait = false := by simp
  rw [saveSpill_ready live saved inSave ended closed written members ready, areas, fatal, waits, alone]
  simp only [Bool.false_eq_true, if_false, List.foldl_cons, List.foldl_nil, State.spill, still]

/-- Where the area of one member is fatal the save of every member fails. -/
theorem saveSpill_fails (fatal : (s.lookAreas ts).1.contains .fatal = true) :
    exec (.saveSpill t) s = .next (ts.foldl (fun q u => q.saveFails u) (s.lookAreas ts).2) := by
  rw [saveSpill_ready live saved inSave ended closed written members ready, if_pos fatal]

end

end

end

/-! ## Restores (R393-R395) -/

/-- What a restore reads of group block k of an area, at a place in it, and of every block that the header counts. -/
def State.areaPart (s : State) (asid : BitVec 16) (area : DWord) (o n k : Nat) : Option Nat :=
  s.readVirt 0 asid (area.toNat + (0x8000 + 0x40000 * k + o)) n
def State.areaParts (s : State) (asid : BitVec 16) (area : DWord) (h o n : Nat) : List (Option Nat) :=
  (List.range (field h 40 6)).map (s.areaPart asid area o n)

section
variable {α β : Type} {f : α → Option β} {l : List α} {vs : List β} (there : l.map f = vs.map some)
include there

/-- Words that a list of values gives are all there, and are these values. -/
theorem isSome_of_map_eq_map_some {a : α} (mem : a ∈ l) : (f a).isSome := by
  have value : f a ∈ vs.map some := there ▸ List.mem_map_of_mem mem
  obtain ⟨v, -, same⟩ := List.mem_map.1 value
  simp [← same]

theorem eq_map_getD_of_map_eq_map_some (d : β) : vs = l.map fun a => (f a).getD d := by
  have values := congrArg (List.map fun o => o.getD d) there
  simpa [Function.comp_def] using values.symm

end

/-- Whether one of the words that the blocks of an area hold is bad is asked block by block. -/
theorem exists_part {f : Nat → Option Nat} {n : Nat} {vs : List Nat} (there : (List.range n).map f = vs.map some) (bad : Nat → Bool) :
    (∃ v ∈ vs, bad v = true) ↔ ∃ k < n, bad ((f k).getD 0) = true := by
  rw [eq_map_getD_of_map_eq_map_some there 0]
  simp

theorem restBad_iff {m n : Nat} {a b c d : Nat → Nat} : restBad m ((List.range n).map fun k => (a k, b k, c k, d k)) = true ↔
    m ≠ 0 ∨ (∃ k < n, linesBad (a k) = true) ∨ (∃ k < n, tagsBad (b k) = true) ∨ (∃ k < n, partBad (c k) = true) ∨
      ∃ k < n, partBad (d k) = true := by
  simp [restBad, and_or_left, exists_or, or_assoc]

section
variable {s : State} {asid : BitVec 16} {area : DWord}

theorem restoreRequest_unbooted (unbooted : s.pkg.booted = false) : exec (.restoreRequest asid area) s = .next s := by
  simp [exec_restoreRequest, execRestoreRequest, unbooted]

section
variable {h m : Nat} {gs ds tags as_ xs : List Nat} (booted : s.pkg.booted = true)
  (header : s.readVirt 0 asid area.toNat 256 = some h) (between : s.readVirt 0 asid (area.toNat + 0x100) 0x1F00 = some m)
  (heads : s.areaParts asid area h 0x10000 256 = gs.map some) (lines : s.areaParts asid area h 0x10100 256 = ds.map some)
  (states : s.areaParts asid area h 0x10200 256 = tags.map some) (sidesA : s.areaParts asid area h 0x1000 512 = as_.map some)
  (sidesX : s.areaParts asid area h 0x9000 512 = xs.map some)
include booted header between heads lines states sidesA sidesX

/-- A restore whose area can be read goes by what stands in it. -/
theorem restoreRequest_reads : exec (.restoreRequest asid area) s = .next (
    if s.areaRefused (s.areaDie asid area h gs) h gs = true ∨ m ≠ 0 ∨ (∃ d ∈ ds, linesBad d = true) ∨
        (∃ x ∈ tags, tagsBad x = true) ∨ ∃ p ∈ as_ ++ xs, partBad p = true then s.tellKiln 2 area.toNat
    else
      let r := s.areaTeam asid area h gs
      let q := r.2.modTeam r.1 fun x => { x with saving := some area, led := gs.any fun g => field g 28 1 == 1 }
      if !q.setAsked r.1 then q
      else
        let x := q.team r.1
        let item := 2 * ((q.clusterTeams r.1).head?).getD r.1 + 1
        let weak := x.cls == .weak && !x.wave
        (q.modDie x.die fun d =>
          if weak then { d with weakOrder := d.weakOrder ++ [item] } else { d with order := d.order ++ [item] }).pollOnce 1
            (.teamAdmission x.die weak)) := by
  have heads' : (List.range (field h 40 6)).map (fun k => s.readVirt 0 asid (area.toNat + (0x8000 + 0x40000 * k + 0x10000)) 256) =
    gs.map some := heads
  simp only [exec_restoreRequest, execRestoreRequest, booted, header, between, heads', List.map_map, Function.comp_def, Bool.not_true,
    Bool.false_eq_true, if_false, Nat.add_zero, Option.getD_some, List.map_id',
    List.getD_cons_zero, List.getD_cons_succ]
  refine congrArg Host.Outcome.next ((if_neg ?there).trans (if_congr ?refused rfl rfl))
  case there =>
    have lines' := fun k => isSome_of_map_eq_map_some lines (a := k)
    have states' := fun k => isSome_of_map_eq_map_some states (a := k)
    have sidesA' := fun k => isSome_of_map_eq_map_some sidesA (a := k)
    have sidesX' := fun k => isSome_of_map_eq_map_some sidesX (a := k)
    simpa [State.areaPart, forall_and, Option.isSome_iff_ne_none] using And.intro lines' (And.intro states' (And.intro sidesA' sidesX'))
  case refused =>
    have rest := restBad_iff (m := m) (n := field h 40 6) (a := fun k => (s.areaPart asid area 0x10100 256 k).getD 0)
      (b := fun k => (s.areaPart asid area 0x10200 256 k).getD 0) (c := fun k => (s.areaPart asid area 0x1000 512 k).getD 0)
      (d := fun k => (s.areaPart asid area 0x9000 512 k).getD 0)
    rw [← exists_part lines, ← exists_part states, ← exists_part sidesA, ← exists_part sidesX] at rest
    simp only [State.areaPart] at rest
    rw [Bool.or_eq_true, rest]
    simp [or_and_right, exists_or]

end

end

section
variable {s : State} {t : Nat} {area : DWord} {v : Saved} (named : (s.team t).saving = some area)
  (found : s.pkg.saved.find? (fun v => v.team == t) = some v) (live : (s.team t).live = true) (fresh : (s.team t).started = false)
  (booted : s.pkg.booted = true) (cool : (s.die (s.team t).die).throttled = false)
include named found live fresh booted cool

/-- A team whose area does not translate is out again, and its area is named to the firmware (R394). -/
theorem restoreLoad_fatal {r : State}
    (looked : s.translateSpan (s.team t).coreId .engRead v.asid area.toNat (s.team t).areaSize 0 (((s.team t).groupIds.head?).getD 0) 0 0 =
      (.fatal, r)) :
    exec (.restoreLoad t) s = .next (((r.unseat t).modTeam t fun x =>
      { x with live := false, out := true, saving := none }).tellKiln 3 area.toNat) := by
  simp only [exec_restoreLoad, execRestoreLoad, named, found, live, fresh, booted, cool, looked, Bool.not_true, Bool.or_self,
    Bool.false_eq_true, if_false]

/-- A byte of an area, and a number in it. -/
def State.areaRead (r : State) (c : CoreId) (asid : BitVec 16) (area : DWord) (o : Nat) : Byte := r.readVa c asid (area.toNat + o)
def State.areaNat (r : State) (c : CoreId) (asid : BitVec 16) (area : DWord) (o n : Nat) : Nat :=
  leNat ((List.range n).map fun i => r.areaRead c asid area (o + i))

/-- A team takes what stands in its area, which is then no longer a saved one. -/
def State.loadArea (r : State) (t : Nat) (x : Team) (v : Saved) (area : DWord) : State :=
  ((r.setTeam t (x.load area.toNat (r.areaNat x.coreId v.asid area) r.time)).loadPad t (0x8000 + 0x40000 * x.st.groups.length)
    (r.areaRead x.coreId v.asid area)).modPkg fun p => { p with saved := p.saved.filter fun v => v.team != t }

section
variable {r : State} {tr : Trans}
  (looked : s.translateSpan (s.team t).coreId .engRead v.asid area.toNat (s.team t).areaSize 0 (((s.team t).groupIds.head?).getD 0) 0 0 =
    (.ok tr, r))
include looked

theorem restoreLoad_own (own : v.src = none) :
    exec (.restoreLoad t) s = .next ((r.loadArea t (s.team t) v area).lateCred t) := by
  simp only [exec_restoreLoad, execRestoreLoad, named, found, live, fresh, booted, cool, looked, own, Bool.not_true, Bool.or_self,
    Bool.false_eq_true, if_false, Option.isNone_none, if_true]
  rfl

/-- A stranger's team takes what PEND, BARCNT and its lanes say of arrivals and holds too (log 32). -/
theorem restoreLoad_stranger (stranger : v.src ≠ none) :
    let rd := r.areaNat (s.team t).coreId v.asid area
    let z := ((r.loadArea t (s.team t) v area).strangerArrivals t (field (rd 48 8) 17 6)
      fun k => field (rd (0x8000 + 0x40000 * k + 0x10000) 8) 29 4).strangerHolds t
    exec (.restoreLoad t) s = .next (z.modTeam t fun y => { y with safe := ⟨y.st, z.time⟩ }) := by
  have sent : v.src.isNone = false := Option.isNone_eq_false_iff.2 (Option.isSome_iff_ne_none.2 stranger)
  simp only [exec_restoreLoad, execRestoreLoad, named, found, live, fresh, booted, cool, looked, sent, Bool.not_true, Bool.or_self,
    Bool.false_eq_true, if_false]
  rfl

end

end

end Sys2Proof.Machine

open Sys2Proof Sys2Proof.Machine

/-- Settles O45: each step takes the one branch that the state of its team, of its cluster's members and of its area leaves. -/
theorem preemption : Obligations.Preemption := by
  intro s t
  refine ⟨fun by_ live alone undrained unsaved mine => preemptRequest_preempts live alone undrained unsaved mine,
    fun area old live alone undrained saved undelivered asked => preemptRequest_renames live alone undrained saved undelivered asked,
    fun by_ draining live => drainTimeout_decides live draining, ?requests, ?spills,
    fun unbooted asid area => restoreRequest_unbooted unbooted, ?restores, ?loads⟩
  case requests =>
    intro area saved live groups undelivered
    exact ⟨fun unasked => saveRequest_asks live saved groups undelivered unasked,
      fun restored unblocked quiet room asked unpaired =>
        saveRequest_delivers live saved groups undelivered restored unblocked quiet room asked unpaired⟩
  case spills =>
    intro area saved live inSave ended closed written ts ready
    exact ⟨fun tr r alone looked still => saveSpill_spills live saved inSave ended closed written rfl ready alone looked still,
      fun fatal => saveSpill_fails live saved inSave ended closed written rfl ready fatal⟩
  case restores =>
    intro asid area h gs m ds tags as_ xs booted header parts between heads lines states sidesA sidesX refused
    have reads := restoreRequest_reads booted header between heads lines states sidesA sidesX
    refine ⟨fun bad => reads.trans (congrArg _ (if_pos bad)), fun v sound found => ?_⟩
    have accepted := reads.trans (congrArg _ (if_neg sound))
    have own : s.areaTeam asid area h gs = (v.team, s) := by simp only [State.areaTeam, found]
    rw [own] at accepted
    exact ⟨fun waits => accepted.trans (congrArg _ (if_pos (by simpa using waits))),
      fun whole => accepted.trans (congrArg _ (if_neg (by simpa using whole)))⟩
  case loads =>
    intro area v named found live fresh booted cool x span
    exact ⟨fun r looked => restoreLoad_fatal named found live fresh booted cool looked, fun r tr looked =>
      ⟨restoreLoad_own named found live fresh booted cool looked, restoreLoad_stranger named found live fresh booted cool looked⟩⟩

end
